-- ==== Sys2Proof/Word.lean ====
section
/-! DEFINITION. The byte of the two serial ports and the index types of the K640's tables (00_scope, Indices and identifiers). -/

namespace Sys2Proof

/-- One byte on the SPI port, the fleet link or the I2C bus. -/
abbrev Byte := BitVec 8

/-- A storage lane, 0 to 31 (R44). -/
abbrev LaneNo := Fin 32

/-- A storage aisle, 0 to 7 (R108). -/
abbrev AisleNo := Fin 8

/-- A roll vehicle, 0 to 5 (R87). -/
abbrev VehicleNo := Fin 6

/-- A slot of the order table, 0 to 31 (R61). -/
abbrev OrderSlot := Fin 32

/-- A reelstand, 0 to 7 (R123). -/
abbrev StandNo := Fin 8

/-- A job slot, 0 to 3 (R147). -/
abbrev JobSlot := Fin 4

/-- A grade code, 0 to 15 (R2). -/
abbrev GradeCode := Fin 16

/-- A slot of the roll register, 0 to 1023 (R17). -/
abbrev RollSlot := Nat

end Sys2Proof
end

