-- ==== Sys2Proof/Syntax.lean ====
section
/-! DEFINITION. The commands of the K640: one constructor per row of spec/opcode_table.json. A row that serves a request or takes a report carries no operand: its operands stand in the frame at the head of the request buffer (R168) or of the receive buffer (R105). -/

namespace Sys2Proof

/-- The two edges of a chip-select period as ANSWER_FRAME sees them (R166). -/
inductive SelectEdge where
  /-- SPI_CS_N is asserted: the answer frame and the status byte are fixed. -/
  | asserted
  /-- SPI_CS_N is released after `clocked` bytes of the period. -/
  | released (clocked : Nat)
  deriving DecidableEq, Repr

/-- What the settings memory gave to a read of the settings image (R189). -/
inductive MemoryRead where
  /-- It did not acknowledge its bus address or an address byte. -/
  | noAck
  /-- It gave these bytes, from memory address 0 upward. -/
  | image (bytes : List Byte)
  deriving DecidableEq, Repr

/-- The commands, in the order of the table. -/
inductive Instr where
  /-- POR_N is asserted and released; the levels of SETMEM and SALEABLE at the release (R188). -/
  | powerOnReset (setmem saleable : Bool)
  /-- FLOOR_RESET_N is asserted (R194). -/
  | floorReset
  /-- The read of the settings image ends (R189). -/
  | settingsLoad (read : MemoryRead)
  /-- The settings store ends, acknowledged or not (R193). -/
  | settingsStoreEnd (acknowledged : Bool)
  /-- The memory stays silent for 50 ms after a write of the store (R193). -/
  | storeTimeout
  /-- A hall second: the REFCLK edge whose addition carries (R75). -/
  | hallSecondTick
  /-- The deadline counter of an order slot reaches 0 (R76). -/
  | orderDeadlineExpiry (slot : OrderSlot)
  /-- The tenure counter of an aisle reaches 0 (R118). -/
  | tenureExpiry (aisle : AisleNo)
  /-- The bytes received on SPI_MOSI in a chip-select period, judged at its release (R165). -/
  | requestFrame (mosi : List Byte)
  /-- The answer side of a chip-select period (R166). -/
  | answerFrame (edge : SelectEdge)
  | unknownRequest
  | readStatus
  | fetchNotice
  | resetFloor
  | registerRoll
  | declareRoll
  | readRoll
  | amendRoll
  | retireRoll
  | readLane
  | putAway
  | relocate
  | countStock
  | feed
  | remove
  | cancelOrder
  | abandonOrder
  | readOrder
  | readVehicle
  | readAisle
  | readStand
  | holdTracking
  | releaseTracking
  | spliceNow
  | thread
  | strip
  | setMarks
  | stageJob
  | changeover
  | setBudget
  | readJob
  | retireJob
  | setGrade
  | setLane
  | setStand
  | setFleet
  | commitSettings
  | reloadSettings
  | storeSettings
  /-- Bytes arrive on FL_RXD (R103). -/
  | fleetFrame (bytes : List Byte)
  | unknownReport
  | online
  | atPlace
  | picked
  | dropped
  | clear
  | park
  | fault
  | offline
  /-- The last byte of an instruction's frame has been sent on FL_TXD (R101). -/
  | instructionSent
  | pairing
  /-- A pulse on COPY, with the level of REJECT at it (R155). -/
  | copyEvent (reject : Bool)
  /-- A pulse on ROLLERn (R7). -/
  | rollerPulse (stand : StandNo)
  | spliceWindowExpiry (stand : StandNo)
  /-- A pulse on SPLICEDn (R135). -/
  | splicedPulse (stand : StandNo)
  /-- An edge of SALEABLE (R156). -/
  | saleableEdge (rising : Bool)
  /-- A pulse on CHANGEOVER (R151). -/
  | changeoverPulse
  /-- An edge of REFCLK (R75). -/
  | refclkEdge
  deriving DecidableEq, Repr

end Sys2Proof
end

