-- ==== Sys2Proof/Config.lean ====
section
/-! DEFINITION. The sizes and limits the spec fixes for the K640. The spec leaves no value of the part open, so there is no free value here. -/

namespace Sys2Proof.Config

/-- Roll slots of the register (R17). -/
def rollSlots : Nat := 1024

/-- Entries of the dock list (R42). -/
def dockPlaces : Nat := 16

/-- Places of the request buffer (R167). -/
def requestPlaces : Nat := 4

/-- Places of the answer queue (00_scope, Block overview; 09, R168). -/
def answerPlaces : Nat := 4

/-- Frames of the fleet receive buffer (R104). -/
def receivePlaces : Nat := 8

/-- Places of the outbound instruction queue (R101). -/
def outboundPlaces : Nat := 32

/-- Free outbound places a report, or a request that can queue instructions, needs (R102). -/
def outboundMargin : Nat := 4

/-- The largest value of a 32-bit saturating count (R16). -/
def max32 : Nat := 4294967295

/-- The modulus of the hall-seconds accumulator (R75). -/
def hallModulus : Nat := 4294967296

/-- The largest value of a 16-bit count or length (R1, R16). -/
def max16 : Nat := 65535

/-- The largest roll tag (R17). -/
def maxTag : Nat := 9999999999

/-- The largest overrun and the largest notice count (R9, R172). -/
def max8 : Nat := 255

/-- The number of bytes of the settings image (R189). -/
def imageBytes : Nat := 285

end Sys2Proof.Config
end

