-- ==== Sys2Proof/Machine/State.lean ====
section
/-! DEFINITION. The state of the K640 as plain data, the reasons a command could stop, and the state after power-on reset. -/

namespace Sys2Proof.Machine

/-! ## Settings unit -/

/-- The device states (R169, 10_settings). -/
inductive DeviceState where
  | loading
  | unconfigured
  | ready
  deriving DecidableEq, Repr

/-- One entry of the grade table (R2, R186). -/
structure GradeEntry where
  defined : Bool
  grammage : Nat
  caliper : Nat
  deriving DecidableEq, Repr

/-- The settings of one lane (R44, R186). -/
structure LaneSetting where
  enabled : Bool
  aisle : AisleNo
  depth : Nat
  deriving DecidableEq, Repr

/-- What steps the running roll of a stand (R7). -/
inductive LengthSource where
  | copy
  | roller
  deriving DecidableEq, Repr

/-- The settings of one reelstand (R123, R186). -/
structure StandSetting where
  enabled : Bool
  source : LengthSource
  rollerIncrement : Nat
  callUpMark : Nat
  spliceMark : Nat
  spliceWindow : Nat
  spliceWaste : Nat
  stubThreshold : Nat
  deriving DecidableEq, Repr

/-- The fleet settings (R186). -/
structure FleetSetting where
  fitted : Nat
  orderLimit : Nat
  tenureLimit : Nat
  increment : Nat
  deriving DecidableEq, Repr

/-- A whole set of settings: the working settings, the loaded image and the store buffer each hold one (R186, R193). -/
structure Settings where
  grades : Vector GradeEntry 16
  lanes : Vector LaneSetting 32
  stands : Vector StandSetting 8
  fleet : FleetSetting
  deriving DecidableEq, Repr

/-- The defaults of R186. -/
def Settings.default : Settings where
  grades := Vector.replicate 16 ⟨false, 0, 0⟩
  lanes := Vector.replicate 32 ⟨false, 0, 0⟩
  stands := Vector.replicate 8 ⟨false, .copy, 1, 0, 0, 1, 0, 0⟩
  fleet := ⟨1, 0, 0, 268⟩

/-! ## Roll register and store map -/

/-- One of the two arms of a reelstand (R124). -/
inductive Arm where
  | A
  | B
  deriving DecidableEq, Repr

/-- The states of a live roll record (R17, R21). -/
inductive RollState where
  | docked
  | stored
  | carried
  | standby
  | running
  | stub
  deriving DecidableEq, Repr

/-- Where a roll is (R17, R21). A dock or lane position is its place in the list that names it. -/
inductive Location where
  | dock
  | lane (l : LaneNo)
  | vehicle (v : VehicleNo)
  | arm (n : StandNo) (a : Arm)
  deriving DecidableEq, Repr

/-- A live roll record (R17). -/
structure Roll where
  tag : Nat
  grade : GradeCode
  width : Nat
  core : Nat
  diameter : Nat
  weight : Nat
  registered : Nat
  remaining : Nat
  overrun : Nat
  sequence : Nat
  state : RollState
  location : Location
  claim : Option OrderSlot
  hold : Bool
  damaged : Bool
  discrepancy : Bool
  partRoll : Bool
  deriving DecidableEq, Repr

/-- The binding of a lane and the requirement of a web plan: a grade code and a width (R44, R147). -/
structure PaperKind where
  grade : GradeCode
  width : Nat
  deriving DecidableEq, Repr

/-- The fields of a lane that the store map keeps (R44). -/
structure Lane where
  binding : Option PaperKind
  contents : List RollSlot
  reservations : Nat
  deriving DecidableEq, Repr

/-! ## Dispatcher -/

/-- The kinds of order (R62). -/
inductive OrderKind where
  | putaway
  | feed
  | returnStub
  | relocate
  | remove
  deriving DecidableEq, Repr

/-- The class an order's kind fixes (R62). -/
inductive OrderClass where
  | normal
  | urgent
  deriving DecidableEq, Repr

/-- What created an order (R61). -/
inductive OrderOrigin where
  | request
  | automatic
  deriving DecidableEq, Repr

/-- The states of an order (R63). -/
inductive OrderState where
  | waiting
  | assigned
  | loading
  | laden
  | unloading
  | done
  | cancelled
  deriving DecidableEq, Repr

/-- A place an order takes from or delivers to; `vehicle` is a source only (R61, R181 Order place). -/
inductive Place where
  | dock
  | lane (l : LaneNo)
  | arm (n : StandNo) (a : Arm)
  | exitBay
  | vehicle (v : VehicleNo)
  deriving DecidableEq, Repr

/-- A deadline or tenure counter (R76, R117). -/
inductive Counter where
  | none
  | running (left : Nat)
  | expired
  deriving DecidableEq, Repr

/-- An order (R61). Its class is fixed by its kind (`OrderKind.cls`). `rollTag` is the tag of its roll at creation, which READ ORDER shows also when a DONE order's roll has since been retired (assumption log 7). -/
structure Order where
  number : Nat
  kind : OrderKind
  origin : OrderOrigin
  roll : RollSlot
  rollTag : Nat
  source : Place
  dest : Place
  vehicle : Option VehicleNo
  state : OrderState
  stalled : Bool
  late : Bool
  deadline : Counter
  deriving DecidableEq, Repr

/-! ## Fleet link and aisle arbiter -/

/-- The states of a vehicle (R88). -/
inductive VehicleState where
  | offline
  | idle
  | outbound
  | loading
  | laden
  | unloading
  | faulted
  deriving DecidableEq, Repr

/-- The waiting reason and the waiting place of a vehicle (R87). -/
inductive Wait where
  | tenure (g : AisleNo)
  | armBusy (n : StandNo) (a : Arm)
  deriving DecidableEq, Repr

/-- A vehicle record (R87). -/
structure Vehicle where
  state : VehicleState
  order : Option OrderSlot
  roll : Option RollSlot
  waiting : Option Wait
  beforeFault : Option VehicleState
  faultCode : Nat
  deriving DecidableEq, Repr

/-- The modes of an aisle (R108). -/
inductive AisleMode where
  | free
  | working
  | parked
  | calledOff
  deriving DecidableEq, Repr

/-- An aisle record (R108). -/
structure Aisle where
  holder : Option VehicleNo
  mode : AisleMode
  waiting : List VehicleNo
  counter : Counter
  deriving DecidableEq, Repr

/-- The refusal reasons of R90. -/
inductive Reason where
  | badField
  | notAccepted
  | noOrder
  | orderOpen
  | wrongPlace
  | wrongRoll
  | noTenure
  | tenureHeld
  | aisleTaken
  deriving DecidableEq, Repr

/-- A frame of the receive buffer: the vehicle, the kind byte and the fields (R103, R184). -/
structure FleetFrame where
  vehicle : VehicleNo
  kind : Byte
  fields : List Byte
  deriving DecidableEq, Repr

/-- The instructions of R100. An ACK or REFUSE names the received kind byte (R185). -/
inductive Message where
  | go (number tag : Nat) (source dest : Place)
  | grant (g : AisleNo)
  | waitTenure (g : AisleNo)
  | waitArm (n : StandNo) (a : Arm)
  | leave (g : AisleNo)
  | resume (number : Nat)
  | standDown (number : Nat)
  | ack (kind : Byte)
  | refuse (kind : Byte) (reason : Reason)
  deriving DecidableEq, Repr

/-- An instruction and the vehicle it goes to (R100). -/
structure Instruction where
  vehicle : VehicleNo
  message : Message
  deriving DecidableEq, Repr

/-! ## Stand tracker -/

/-- The statuses of an arm (R124). -/
inductive ArmStatus where
  | empty
  | reserved
  | ready
  | mismatch
  | stub
  | running
  deriving DecidableEq, Repr

/-- An arm record (R124). -/
structure ArmRecord where
  status : ArmStatus
  roll : Option RollSlot
  reservation : Option OrderSlot
  deriving DecidableEq, Repr

/-- An arm without a roll and without a reservation. -/
def ArmRecord.bare : ArmRecord := ⟨.empty, .none, .none⟩

/-- The states of a reelstand (R125). -/
inductive StandState where
  | off
  | empty
  | loaded
  | spliceDue
  | splicing
  | spliceHeld
  | webOut
  deriving DecidableEq, Repr

/-- The fields of a stand record that the stand tracker keeps (R123); its settings stand in `Settings`. -/
structure Stand where
  state : StandState
  running : Option Arm
  armA : ArmRecord
  armB : ArmRecord
  callUpMark : Nat
  spliceMark : Nat
  callUpRaised : Bool
  trackingHold : Bool
  window : Nat
  fraction : Nat
  deriving DecidableEq, Repr

/-! ## Job counter -/

/-- The states of a job slot (R147). -/
inductive JobState where
  | free
  | staged
  | active
  | closed
  deriving DecidableEq, Repr

/-- The phase of a job (R147). -/
inductive Phase where
  | startup
  | saleable
  deriving DecidableEq, Repr

/-- A job slot (R147). -/
structure Job where
  state : JobState
  number : Nat
  cutoff : Nat
  plan : Vector (Option PaperKind) 8
  budget : Nat
  phase : Phase
  gross : Nat
  good : Nat
  reject : Nat
  startupReject : Nat
  restarts : Nat
  paper : Nat
  runWaste : Nat
  spliceWaste : Nat
  stubWaste : Nat
  stripWaste : Nat
  rollsSpliced : Nat
  budgetReached : Bool
  countFull : Bool
  deriving DecidableEq, Repr

/-- A FREE job slot: no job, every field at 0, clear or absent. -/
def Job.freed : Job where
  state := .free
  number := 0
  cutoff := 0
  plan := Vector.replicate 8 .none
  budget := 0
  phase := .startup
  gross := 0
  good := 0
  reject := 0
  startupReject := 0
  restarts := 0
  paper := 0
  runWaste := 0
  spliceWaste := 0
  stubWaste := 0
  stripWaste := 0
  rollsSpliced := 0
  budgetReached := false
  countFull := false

/-! ## Control port -/

/-- The result codes (R168, R179). -/
inductive Result where
  | ok
  | badField
  | notFound
  | duplicate
  | full
  | storeFull
  | wrongState
  | notReady
  | noStaged
  | busy
  | unknownRequest
  deriving DecidableEq, Repr

/-- A complete request of the request buffer; its L is 2 plus the number of field bytes (R165, R167). -/
structure Request where
  code : Byte
  tag : Byte
  fields : List Byte
  deriving DecidableEq, Repr

/-- An answer of the answer queue; its M is 3 plus the number of field bytes (R166). -/
structure Answer where
  code : Byte
  tag : Byte
  result : Result
  fields : List Byte
  deriving DecidableEq, Repr

/-- A chip-select period in progress: what the port fixed at its assertion (R166, R170, R176). -/
structure Period where
  /-- The answer the period carries. -/
  answer : Option Answer
  /-- The answer frame on SPI_MISO, the status byte first; `State.miso` adds the 00h that follow it. -/
  frame : List Byte
  /-- The status byte shows the overrun mark. -/
  showsOverrun : Bool
  /-- The status byte shows the framing mark. -/
  showsFraming : Bool
  /-- No reset has been taken since, so the answer still counts (R176). -/
  live : Bool
  deriving DecidableEq, Repr

/-- The outcome of a settings store (R193). -/
inductive StoreOutcome where
  | ok
  | noAck
  | timeout
  deriving DecidableEq, Repr

/-- The kind and the object of a notice entry (R171). -/
inductive NoticeKey where
  | callUp (n : StandNo)
  | feedShort (n : StandNo)
  | spliceDone (n : StandNo)
  | spliceFailed (n : StandNo)
  | spliceUnexpected (n : StandNo)
  | webOut (n : StandNo)
  | stubStranded (n : StandNo)
  | standbyMismatch (n : StandNo)
  | orderDone (k : OrderSlot)
  | orderStalled (k : OrderSlot)
  | orderCancelled (k : OrderSlot)
  | aisleBlocked (g : AisleNo)
  | jobClosed (j : JobSlot)
  | budgetReached (j : JobSlot)
  | vehicleRefused (v : VehicleNo)
  | vehicleFault (v : VehicleNo)
  | changeoverMissed
  | settingsStored
  deriving DecidableEq, Repr

/-- The detail of a notice entry (R171). -/
inductive NoticeDetail where
  | metres (m : Nat)
  | tag (t : Nat)
  | standState (s : StandState)
  | orderDone (number : Nat) (late : Bool)
  | order (number : Nat)
  | vehicle (v : VehicleNo)
  | job (number : Nat)
  | reason (r : Reason)
  | faultCode (c : Nat)
  | outcome (o : StoreOutcome)
  deriving DecidableEq, Repr

/-- An entry of the notice list (R171). -/
structure Notice where
  key : NoticeKey
  count : Nat
  detail : NoticeDetail
  deriving DecidableEq, Repr

/-! ## The machine -/

/-- Everything the spec gives the part, and the commands that wait. The lines SPLICE_CMDn, PRESS_STOP, WASTE_ALARM and ATTN_N are functions of it (Machine/Flags.lean), as R132, R130, R159 and R170 say. -/
structure State where
  /-- The device state (R188). -/
  device : DeviceState
  /-- The sampled level of SETMEM (R188). -/
  setmem : Bool
  /-- The working settings (R186). -/
  working : Settings
  /-- The loaded image (R186). -/
  loaded : Settings
  /-- The store buffer; a store is in flight exactly while there is one (R193). -/
  store : Option Settings
  /-- The increment in force at the hall-seconds generator (R75, R186). -/
  hallIncrement : Nat
  /-- The hall-seconds accumulator (R75). -/
  hallAccumulator : Nat
  /-- The live roll records, by rising slot (R17). -/
  rolls : List (RollSlot × Roll)
  /-- The receipt sequence counter (R20). -/
  sequence : Nat
  /-- The dock list, head first (R42). -/
  dock : List RollSlot
  /-- The lane records (R44). -/
  lanes : Vector Lane 32
  /-- The order table (R61). -/
  orders : Vector (Option Order) 32
  /-- The next-number counter (R61). -/
  nextNumber : Nat
  /-- The waiting-order queue, head first (R68). -/
  waiting : List OrderSlot
  /-- The idle list, head first (R69). -/
  idle : List VehicleNo
  /-- The feed demand list, head first (R82). -/
  demand : List StandNo
  /-- The vehicle records (R87). -/
  vehicles : Vector Vehicle 6
  /-- The bytes of the fleet frame being received, from its start byte (R103). -/
  lineBytes : List Byte
  /-- The receive buffer, oldest first (R104). -/
  received : List FleetFrame
  /-- The outbound instruction queue, oldest first (R101). -/
  outbound : List Instruction
  /-- The instruction a floor reset took from the queue while its frame was being sent; the frame is finished on the line before any other is sent (R107, R101). -/
  finishing : Option Instruction
  /-- The aisle records (R108). -/
  aisles : Vector Aisle 8
  /-- The stand records (R123). -/
  stands : Vector Stand 8
  /-- The job slots (R147). -/
  jobs : Vector Job 4
  /-- The waste fraction accumulator (R12). -/
  wasteFraction : Nat
  /-- The level of SALEABLE (R152, R156). -/
  saleable : Bool
  /-- The request buffer, oldest first (R167). -/
  requests : List Request
  /-- The answer queue, oldest first (R168). -/
  answers : List Answer
  /-- The overrun mark (R167). -/
  overrunMark : Bool
  /-- The framing mark (R165). -/
  framingMark : Bool
  /-- A RESET FLOOR is pending (R175). -/
  resetPending : Bool
  /-- The chip-select period in progress (R166). -/
  period : Option Period
  /-- A floor reset or a power-on reset was taken in the period whose request frame has not been judged yet (R176). -/
  frameSpoiled : Bool
  /-- The notice list, oldest first (R172). -/
  notices : List Notice
  /-- The model's own field: the commands that wait, first in, first out. -/
  pending : List Instr
  deriving DecidableEq, Repr

/-- The reasons a command stops the machine. The spec names no event that stops the K640, so there is none: no command faults. -/
inductive Fault where
  deriving DecidableEq, Repr

/-- The reasons a command is refused. -/
inductive Refusal where
  /-- Raised by `exec` for a command without a meaning; there is none left. Safe: the machine stops. -/
  | notModelled (mnemonic : String)
  deriving DecidableEq, Repr

/-- A lane record after power-on reset (R44, R60). -/
def Lane.empty : Lane := ⟨none, [], 0⟩

/-- A vehicle record after power-on reset (R87). -/
def Vehicle.parkedAway : Vehicle := ⟨.offline, none, none, none, none, 0⟩

/-- An aisle record after power-on reset (R108). -/
def Aisle.empty : Aisle := ⟨none, .free, [], .none⟩

/-- A stand record after power-on reset (R145). -/
def Stand.off : Stand :=
  ⟨.off, none, ArmRecord.bare, ArmRecord.bare, 0, 0, false, false, 0, 0⟩

/-- The part at the release of POR_N, with the levels of SETMEM and SALEABLE at that moment (R188; R40, R60, R86, R107, R122, R145, R163, R176). -/
def State.powerOn (setmem saleable : Bool) : State where
  device := if setmem then .loading else .unconfigured
  setmem := setmem
  working := Settings.default
  loaded := Settings.default
  store := none
  hallIncrement := 268
  hallAccumulator := 0
  rolls := []
  sequence := 0
  dock := []
  lanes := Vector.replicate 32 Lane.empty
  orders := Vector.replicate 32 none
  nextNumber := 1
  waiting := []
  idle := []
  demand := []
  vehicles := Vector.replicate 6 Vehicle.parkedAway
  lineBytes := []
  received := []
  outbound := []
  finishing := none
  aisles := Vector.replicate 8 Aisle.empty
  stands := Vector.replicate 8 Stand.off
  jobs := Vector.replicate 4 Job.freed
  wasteFraction := 0
  saleable := saleable
  requests := []
  answers := []
  overrunMark := false
  framingMark := false
  resetPending := false
  period := none
  frameSpoiled := false
  notices := []
  pending := []

/-- The machine right after power-on reset. DESIGN CHOICE (assumption log 1): on a board without a settings memory (SETMEM low) and with SALEABLE low; `powerOnReset` reaches the other boards. -/
def State.reset : State := State.powerOn false false

end Sys2Proof.Machine
end

