-- ==== Sys2Proof/Machine/Bytes.lean ====
section
/-! DEFINITION. Byte order and the one-byte codes of 09_the_control_port, 9.6 (R177, R179, R181 to R184). -/

namespace Sys2Proof.Machine

/-- A number as one byte. -/
def byteOf (n : Nat) : Byte := BitVec.ofNat 8 n

/-- The number a multi-byte field holds, high byte first (R177). -/
def beNat (bytes : List Byte) : Nat :=
  bytes.foldl (fun n b => n * 256 + b.toNat) 0

/-- `n` in `len` bytes, high byte first (R177). -/
def beBytes : Nat → Nat → List Byte
  | 0, _ => []
  | len + 1, n => byteOf (n / 256 ^ len) :: beBytes len n

/-- The number in the `len` bytes of a field that starts at byte `at_`. -/
def num (fields : List Byte) (at_ len : Nat) : Nat :=
  beNat ((fields.drop at_).take len)

/-- The byte 00h clear, 01h set of a flag (R181). -/
def flagByte (b : Bool) : Byte := if b then 1 else 0

/-- A byte of up to eight flags, the first at bit 0. -/
def flagBits (flags : List Bool) : Byte :=
  byteOf (flags.foldr (fun b n => (if b then 1 else 0) + 2 * n) 0)

/-- FFh, "none" in an optional index (R177). -/
def noneByte : Byte := 0xFF

/-- An optional index in one byte, FFh for none (R177). -/
def optByte : Option Nat → Byte
  | none => noneByte
  | some n => byteOf n

/-- An optional roll slot in two bytes, FFFFh for none (R177). -/
def optSlot : Option RollSlot → List Byte
  | none => [0xFF, 0xFF]
  | some k => beBytes 2 k

/-- Arm, 00h A, 01h B (R181). -/
def Arm.code : Arm → Byte
  | .A => 0
  | .B => 1

/-- Optional arm (R181). -/
def optArm : Option Arm → Byte
  | none => noneByte
  | some a => Arm.code a

/-- Result codes (R179). -/
def Result.code : Result → Byte
  | .ok => 0x00
  | .badField => 0x01
  | .notFound => 0x02
  | .duplicate => 0x03
  | .full => 0x04
  | .storeFull => 0x05
  | .wrongState => 0x06
  | .notReady => 0x07
  | .noStaged => 0x08
  | .busy => 0x09
  | .unknownRequest => 0x0A

/-- Device state in the READ STATUS answer (R181). -/
def DeviceState.code : DeviceState → Byte
  | .loading => 0
  | .unconfigured => 1
  | .ready => 2

/-- Roll state (R182). -/
def RollState.code : RollState → Byte
  | .docked => 0
  | .stored => 1
  | .carried => 2
  | .standby => 3
  | .running => 4
  | .stub => 5

/-- Stand state (R183). -/
def StandState.code : StandState → Byte
  | .off => 0
  | .empty => 1
  | .loaded => 2
  | .spliceDue => 3
  | .splicing => 4
  | .spliceHeld => 5
  | .webOut => 6

/-- Order state (R181). -/
def OrderState.code : OrderState → Byte
  | .waiting => 0
  | .assigned => 1
  | .loading => 2
  | .laden => 3
  | .unloading => 4
  | .done => 5
  | .cancelled => 6

/-- Order kind (R181, READ ORDER). -/
def OrderKind.code : OrderKind → Byte
  | .putaway => 0
  | .feed => 1
  | .returnStub => 2
  | .relocate => 3
  | .remove => 4

/-- Class (R181). -/
def OrderClass.code : OrderClass → Byte
  | .normal => 0
  | .urgent => 1

/-- Origin (R181, READ ORDER). -/
def OrderOrigin.code : OrderOrigin → Byte
  | .request => 0
  | .automatic => 1

/-- Vehicle state (R181). -/
def VehicleState.code : VehicleState → Byte
  | .offline => 0
  | .idle => 1
  | .outbound => 2
  | .loading => 3
  | .laden => 4
  | .unloading => 5
  | .faulted => 6

/-- Aisle mode (R181, READ AISLE). -/
def AisleMode.code : AisleMode → Byte
  | .free => 0
  | .working => 1
  | .parked => 2
  | .calledOff => 3

/-- Arm status (R181, READ STAND). -/
def ArmStatus.code : ArmStatus → Byte
  | .empty => 0
  | .reserved => 1
  | .ready => 2
  | .mismatch => 3
  | .stub => 4
  | .running => 5

/-- Slot state (R181, SET BUDGET). -/
def JobState.code : JobState → Byte
  | .free => 0
  | .staged => 1
  | .active => 2
  | .closed => 3

/-- Phase (R181, READ JOB). -/
def Phase.code : Phase → Byte
  | .startup => 0
  | .saleable => 1

/-- Length source (R181). -/
def LengthSource.code : LengthSource → Byte
  | .copy => 0
  | .roller => 1

/-- Refusal reason (R184). -/
def Reason.code : Reason → Byte
  | .badField => 0x01
  | .notAccepted => 0x02
  | .noOrder => 0x03
  | .orderOpen => 0x04
  | .wrongPlace => 0x05
  | .wrongRoll => 0x06
  | .noTenure => 0x07
  | .tenureHeld => 0x08
  | .aisleTaken => 0x09

/-- Outcome of a store (R183). -/
def StoreOutcome.code : StoreOutcome → Byte
  | .ok => 0
  | .noAck => 1
  | .timeout => 2

/-- Counter, two bytes: FFFFh none, 0000h expired, otherwise the hall seconds left (R181). -/
def Counter.bytes : Counter → List Byte
  | .none => [0xFF, 0xFF]
  | .expired => [0, 0]
  | .running left => beBytes 2 left

/-- A place as a fleet frame names it, two bytes (R184); 05h and the number for a vehicle (R181, Order place). -/
def Place.bytes : Place → List Byte
  | .dock => [0x00, 0x00]
  | .lane l => [0x01, byteOf l]
  | .arm n .A => [0x02, byteOf n]
  | .arm n .B => [0x03, byteOf n]
  | .exitBay => [0x04, 0x00]
  | .vehicle v => [0x05, byteOf v]

/-- The kind code of a notice (R183). -/
def NoticeKey.code : NoticeKey → Byte
  | .callUp _ => 0x01
  | .feedShort _ => 0x02
  | .spliceDone _ => 0x03
  | .spliceFailed _ => 0x04
  | .spliceUnexpected _ => 0x05
  | .webOut _ => 0x06
  | .stubStranded _ => 0x07
  | .standbyMismatch _ => 0x08
  | .orderDone _ => 0x09
  | .orderStalled _ => 0x0A
  | .orderCancelled _ => 0x0B
  | .aisleBlocked _ => 0x0C
  | .jobClosed _ => 0x0D
  | .budgetReached _ => 0x0E
  | .vehicleRefused _ => 0x0F
  | .vehicleFault _ => 0x10
  | .changeoverMissed => 0x11
  | .settingsStored => 0x12

/-- The object of a notice, FFh for none (R183). -/
def NoticeKey.object : NoticeKey → Byte
  | .callUp n | .feedShort n | .spliceDone n | .spliceFailed n => byteOf n
  | .spliceUnexpected n | .webOut n | .stubStranded n | .standbyMismatch n => byteOf n
  | .orderDone k | .orderStalled k | .orderCancelled k => byteOf k
  | .aisleBlocked g => byteOf g
  | .jobClosed j | .budgetReached j => byteOf j
  | .vehicleRefused v | .vehicleFault v => byteOf v
  | .changeoverMissed | .settingsStored => noneByte

/-- The six detail bytes of a notice, the unused ones 00h (R183). -/
def NoticeDetail.bytes : NoticeDetail → List Byte
  | .metres m => beBytes 2 m ++ [0, 0, 0, 0]
  | .tag t => beBytes 5 t ++ [0]
  | .standState s => s.code :: [0, 0, 0, 0, 0]
  | .orderDone number late => beBytes 2 number ++ flagByte late :: [0, 0, 0]
  | .order number => beBytes 2 number ++ [0, 0, 0, 0]
  | .vehicle v => byteOf v :: [0, 0, 0, 0, 0]
  | .job number => beBytes 2 number ++ [0, 0, 0, 0]
  | .reason r => r.code :: [0, 0, 0, 0, 0]
  | .faultCode c => byteOf c :: [0, 0, 0, 0, 0]
  | .outcome o => o.code :: [0, 0, 0, 0, 0]

/-- The notice readout (R183); all but the object 00h names no entry, as R173 answers for an empty list. -/
def noticeReadout : Option Notice → List Byte
  | none => 0 :: noneByte :: [0, 0, 0, 0, 0, 0, 0]
  | some n => n.key.code :: n.key.object :: byteOf n.count :: n.detail.bytes

/-- The kind byte and the fields of an instruction (R184). -/
def Message.bytes : Message → List Byte
  | .go number tag source dest =>
    0x41 :: (beBytes 2 number ++ beBytes 5 tag ++ source.bytes ++ dest.bytes)
  | .grant g => [0x42, byteOf g]
  | .waitTenure g => [0x43, 0x01, byteOf g, 0x00]
  | .waitArm n a => [0x43, 0x02, byteOf n, Arm.code a]
  | .leave g => [0x44, byteOf g]
  | .resume number => 0x45 :: beBytes 2 number
  | .standDown number => 0x46 :: beBytes 2 number
  | .ack kind => [0x47, kind]
  | .refuse kind reason => [0x48, kind, reason.code]

/-- The sum of bytes modulo 256. -/
def byteSum (bytes : List Byte) : Byte := bytes.foldl (· + ·) 0

/-- A fleet frame: start byte, N, the body, and the check byte that makes the sum after the start byte 0 (R103, R184). -/
def fleetFrameBytes (body : List Byte) : List Byte :=
  let counted := byteOf body.length :: body
  0x7E :: (counted ++ [0 - byteSum counted])

/-- The frame the transmitter sends for an instruction (R101, R184). -/
def Instruction.frame (i : Instruction) : List Byte :=
  fleetFrameBytes (byteOf i.vehicle :: i.message.bytes)

/-- The bytes of an answer frame after the status byte: M, code, tag, result and fields; an empty answer has M of 0 (R166, R179). -/
def answerBytes : Option Answer → List Byte
  | none => [0, 0]
  | some a => beBytes 2 (3 + a.fields.length) ++ a.code :: a.tag :: a.result.code :: a.fields

end Sys2Proof.Machine
end

