-- ==== Sys2Proof/Machine/Paper.lean ====
section
/-! DEFINITION. The paper arithmetic of 01_paper_arithmetic: every stage exact on the naturals, every quotient a floor unless stated. -/

namespace Sys2Proof.Machine

/-- A saturating count grows by `m` up to its maximum (R16). -/
def satAdd (max count m : Nat) : Nat := min max (count + m)

/-- The registered length Ld from outer diameter, core and caliper (R3). -/
def registeredLength (diameter core caliper : Nat) : Nat :=
  355 * (diameter * diameter - core * core) / (452 * caliper)

/-- The weight length Lw, clamped to 65,535 (R5). -/
def weightLength (weight grammage width : Nat) : Nat :=
  min Config.max16 (weight * 1000000 / (grammage * width))

/-- Eight times the difference of the two lengths is above Ld (R6). -/
def discrepant (ld lw : Nat) : Bool :=
  decide (ld < 8 * (max ld lw - min ld lw))

/-- The ceiling of `a / b`. -/
def ceilDiv (a b : Nat) : Nat := (a + (b - 1)) / b

/-- The smallest number of inputs that brings the remaining length down to the splice mark (R11); 0 when the mark is 0 or not below the remaining length. -/
def copiesToSplice (remaining mark fraction increment : Nat) : Nat :=
  if mark = 0 ∨ remaining ≤ mark then 0
  else ceilDiv ((remaining - mark) * 1000 - fraction) increment

end Sys2Proof.Machine
end

