-- ==== Sys2Proof/Machine/Ops.lean ====
section
/-! DEFINITION. The named operations over the records: tables, the notice list, the outbound queue, the roll register, and what one record's change does to the records that name it. -/

namespace Sys2Proof.Machine

/-! ## Sparse tables by rising key -/

/-- The entry at a key. -/
def tableGet {α : Type} : List (Nat × α) → Nat → Option α
  | [], _ => none
  | (j, x) :: t, k => if j = k then some x else tableGet t k

/-- A table with the entry at a key written, the keys kept rising. -/
def tableSet {α : Type} : List (Nat × α) → Nat → α → List (Nat × α)
  | [], k, x => [(k, x)]
  | (j, y) :: t, k, x =>
    if k < j then (k, x) :: (j, y) :: t
    else if k = j then (k, x) :: t
    else (j, y) :: tableSet t k x

/-- A table without the entry at a key. -/
def tableErase {α : Type} (t : List (Nat × α)) (k : Nat) : List (Nat × α) :=
  t.filter fun p => p.1 != k

/-- A table with the entry at a key, if there is one, changed. -/
def tableModify {α : Type} (t : List (Nat × α)) (k : Nat) (f : α → α) : List (Nat × α) :=
  t.map fun p => if p.1 = k then (p.1, f p.2) else p

/-- The lowest key from `k` on that a table of rising keys does not list. -/
def tableFree {α : Type} : List (Nat × α) → Nat → Nat
  | [], k => k
  | (j, _) :: t, k => if j = k then tableFree t (k + 1) else k

/-- The keys rise strictly and stay below `size`. -/
def tableWf {α : Type} (size : Nat) : List (Nat × α) → Bool
  | [] => true
  | [(j, _)] => decide (j < size)
  | (j, _) :: (k, y) :: t => decide (j < k) && tableWf size ((k, y) :: t)

/-- Every entry of a fixed table changed by one function. -/
def vmap {α β : Type} {n : Nat} (f : α → β) (v : Vector α n) : Vector β n :=
  ⟨(v.toList.map f).toArray, by simp⟩

/-- A number as an index below `n`. -/
def fin? (n k : Nat) : Option (Fin n) :=
  if h : k < n then some ⟨k, h⟩ else none

/-! ## Changes of one record -/

/-- Changes one lane record. -/
def State.modLane (s : State) (l : LaneNo) (f : Lane → Lane) : State :=
  { s with lanes := s.lanes.set l (f s.lanes[l]) }

/-- Writes one slot of the order table. -/
def State.setOrder (s : State) (k : OrderSlot) (o : Option Order) : State :=
  { s with orders := s.orders.set k o }

/-- Changes the order of one slot, if the slot holds one. -/
def State.modOrder (s : State) (k : OrderSlot) (f : Order → Order) : State :=
  s.setOrder k (s.orders[k].map f)

/-- Changes one vehicle record. -/
def State.modVehicle (s : State) (v : VehicleNo) (f : Vehicle → Vehicle) : State :=
  { s with vehicles := s.vehicles.set v (f s.vehicles[v]) }

/-- Changes one aisle record. -/
def State.modAisle (s : State) (g : AisleNo) (f : Aisle → Aisle) : State :=
  { s with aisles := s.aisles.set g (f s.aisles[g]) }

/-- Changes one stand record. -/
def State.modStand (s : State) (n : StandNo) (f : Stand → Stand) : State :=
  { s with stands := s.stands.set n (f s.stands[n]) }

/-- Changes one job slot. -/
def State.modJob (s : State) (j : JobSlot) (f : Job → Job) : State :=
  { s with jobs := s.jobs.set j (f s.jobs[j]) }

/-- The live record of a roll slot (R17). -/
def State.roll? (s : State) (k : RollSlot) : Option Roll := tableGet s.rolls k

/-- Changes one live roll record. -/
def State.modRoll (s : State) (k : RollSlot) (f : Roll → Roll) : State :=
  { s with rolls := tableModify s.rolls k f }

/-- Frees a roll slot (R18). -/
def State.eraseRoll (s : State) (k : RollSlot) : State :=
  { s with rolls := tableErase s.rolls k }

/-- The record of an arm. -/
def Stand.arm (st : Stand) : Arm → ArmRecord
  | .A => st.armA
  | .B => st.armB

/-- Writes the record of an arm. -/
def Stand.setArm (st : Stand) (a : Arm) (r : ArmRecord) : Stand :=
  match a with
  | .A => { st with armA := r }
  | .B => { st with armB := r }

/-- The other arm of a stand. -/
def Arm.other : Arm → Arm
  | .A => .B
  | .B => .A

/-- Changes one arm record. -/
def State.modArm (s : State) (n : StandNo) (a : Arm) (f : ArmRecord → ArmRecord) : State :=
  s.modStand n fun st => st.setArm a (f (st.arm a))

/-! ## Notices and instructions -/

/-- Posting into a notice list (R172): the entry of the key counts up to 255 and takes the detail, or a new entry goes to the back. -/
def postInto : List Notice → NoticeKey → NoticeDetail → List Notice
  | [], key, detail => [⟨key, 1, detail⟩]
  | e :: es, key, detail =>
    if e.key = key then { e with count := satAdd Config.max8 e.count 1, detail := detail } :: es
    else e :: postInto es key detail

/-- A block posts a notice (R172). -/
def State.post (s : State) (key : NoticeKey) (detail : NoticeDetail) : State :=
  { s with notices := postInto s.notices key detail }

/-- An instruction is queued to a vehicle (R100, R101). -/
def State.instruct (s : State) (v : VehicleNo) (m : Message) : State :=
  { s with outbound := s.outbound ++ [⟨v, m⟩] }

/-- The instruction whose frame is on FL_TXD (R101, R107): the one a floor reset left to be finished, and once that frame has ended the queue's head. That the transmitter is never between two frames while an instruction waits is assumption log 14. -/
def State.sending (s : State) : Option Instruction := s.finishing.or s.outbound.head?

/-- The free places of the outbound instruction queue (R101). -/
def State.outboundFree (s : State) : Nat := Config.outboundPlaces - s.outbound.length

/-! ## Jobs -/

/-- The ACTIVE job slot (R148). -/
def State.activeSlot (s : State) : Option JobSlot :=
  (List.finRange 4).find? fun j => decide (s.jobs[j].state = .active)

/-- The STAGED job slot (R148). -/
def State.stagedSlot (s : State) : Option JobSlot :=
  (List.finRange 4).find? fun j => decide (s.jobs[j].state = .staged)

/-- What the ACTIVE job's web plan requires of a stand; none when no job is ACTIVE or the stand is no member (R53, R139). -/
def State.requirement (s : State) (n : StandNo) : Option PaperKind :=
  s.activeSlot.bind fun j => s.jobs[j].plan[n]

/-- A charge to the ACTIVE job; it is added to no job when none is ACTIVE (R14). -/
def State.charge (s : State) (f : Job → Job) : State :=
  match s.activeSlot with
  | none => s
  | some j => s.modJob j f

/-- The grade and width of a roll. -/
def Roll.kind (r : Roll) : PaperKind := ⟨r.grade, r.width⟩

/-! ## Stands -/

/-- The slot of a stand's running roll. -/
def State.runningSlot (s : State) (n : StandNo) : Option RollSlot :=
  s.stands[n].running.bind fun a => (s.stands[n].arm a).roll

/-- The running roll of a stand. -/
def State.runningRoll (s : State) (n : StandNo) : Option Roll :=
  (s.runningSlot n).bind s.roll?

/-- The running roll's remaining length, or 0 when there is no running roll (R82). -/
def State.runningMetres (s : State) (n : StandNo) : Nat :=
  match s.runningRoll n with
  | none => 0
  | some r => r.remaining

/-- The arm holds a roll or is RESERVED. -/
def ArmRecord.taken (r : ArmRecord) : Bool := decide (r.status ≠ .empty)

/-- The feed arm of a stand (R65). -/
def Stand.feedArm (st : Stand) : Arm :=
  match st.running with
  | some a => a.other
  | none => if st.armA.taken && !st.armB.taken then .B else .A

/-! ## Orders -/

/-- The class of a kind of order (R62). -/
def OrderKind.cls : OrderKind → OrderClass
  | .feed | .returnStub => .urgent
  | .putaway | .relocate | .remove => .normal

/-- The open orders are those that are neither DONE nor CANCELLED (R63). -/
def Order.isOpen (o : Order) : Bool := decide (o.state ≠ .done ∧ o.state ≠ .cancelled)

/-- The lowest free slot of the order table (R61). -/
def State.freeOrderSlot (s : State) : Option OrderSlot :=
  (List.finRange 32).find? fun k => s.orders[k].isNone

/-- The slot of the order with a number (R61). -/
def State.orderNumbered (s : State) (number : Nat) : Option OrderSlot :=
  (List.finRange 32).find? fun k =>
    match s.orders[k] with
    | none => false
    | some o => decide (o.number = number)

/-- The slot of the open FEED order that delivers to a stand (R65). -/
def State.openFeed (s : State) (n : StandNo) : Option OrderSlot :=
  (List.finRange 32).find? fun k =>
    match s.orders[k] with
    | none => false
    | some o =>
      o.isOpen && decide (o.kind = .feed) && decide (o.dest = .arm n .A ∨ o.dest = .arm n .B)

/-- The arm holds a STUB whose RETURN order is open (R65). -/
def State.stubReturning (s : State) (r : ArmRecord) : Bool :=
  decide (r.status = .stub) &&
    match (r.roll.bind s.roll?).bind Roll.claim with
    | none => false
    | some k =>
      match s.orders[k] with
      | none => false
      | some o => o.isOpen && decide (o.kind = .returnStub)

/-- The feed arm is EMPTY, or holds a STUB whose RETURN order is open (R65, R129). -/
def State.feedArmClear (s : State) (n : StandNo) : Bool :=
  let r := s.stands[n].arm s.stands[n].feedArm
  decide (r.status = .empty) || s.stubReturning r

/-- The feed arm is available to a new FEED order (R65). -/
def State.feedArmAvailable (s : State) (n : StandNo) : Bool :=
  (s.openFeed n).isNone && s.feedArmClear n

/-- The number after a number: 65,535 is followed by 1 (R61). -/
def nextAfter (number : Nat) : Nat := if number ≥ Config.max16 then 1 else number + 1

/-- The first number from `number` on that no order of the table carries, looking at `fuel` numbers (R61). -/
def State.unusedNumber (s : State) : Nat → Nat → Nat
  | 0, number => number
  | fuel + 1, number =>
    if (s.orderNumbered number).isNone then number else s.unusedNumber fuel (nextAfter number)

/-- The number a new order takes; of 33 numbers in a row one is unused, as the table has 32 slots (R61). -/
def State.newNumber (s : State) : Nat := s.unusedNumber 32 s.nextNumber

/-- A counter loaded with a limit; a limit of 0 loads nothing (R76, R117). -/
def loadCounter (limit : Nat) : Counter := if limit = 0 then .none else .running limit

/-- The waiting-order queue is ordered by class, and within a class by creation: a URGENT order goes after the last URGENT one, a NORMAL one to the back (R68). -/
def State.enterQueue (s : State) (k : OrderSlot) (c : OrderClass) : State :=
  match c with
  | .normal => { s with waiting := s.waiting ++ [k] }
  | .urgent =>
    let urgent := fun i : OrderSlot =>
      match s.orders[i] with
      | none => false
      | some o => decide (o.kind.cls = .urgent)
    { s with waiting := s.waiting.takeWhile urgent ++ k :: s.waiting.dropWhile urgent }

/-- The aisle whose tenure a vehicle holds (R109). -/
def State.aisleHeld (s : State) (v : VehicleNo) : Option AisleNo :=
  (List.finRange 8).find? fun g => decide (s.aisles[g].holder = some v)

/-! ## Lanes -/

/-- The free places of a lane (R44). -/
def State.freePlaces (s : State) (l : LaneNo) : Nat :=
  s.working.lanes[l].depth - (s.lanes[l].contents.length + s.lanes[l].reservations)

/-- A lane left with no contents and no reservations loses its binding (R45). -/
def Lane.unbindIfEmpty (l : Lane) : Lane :=
  if l.contents.isEmpty ∧ l.reservations = 0 then { l with binding := none } else l

/-- The candidate with the smallest value; of two with the same value the earlier one. -/
def leastOf {α : Type} (value : α → Nat) : List α → Option α
  | [] => none
  | x :: xs =>
    match leastOf value xs with
    | none => some x
    | some y => if value y < value x then some y else some x

/-- Put-away selection (R51): the bound lane of the roll's grade and width with the fewest free places but at least one, else the lowest unbound one; `without` is the source lane of a RELOCATE. -/
def State.putAwayLane (s : State) (kind : PaperKind) (without : Option LaneNo) : Option LaneNo :=
  let usable := (List.finRange 32).filter fun l => s.working.lanes[l].enabled && decide (without ≠ some l)
  let bound := usable.filter fun l =>
    decide (s.lanes[l].binding = some kind) && decide (0 < s.freePlaces l)
  match leastOf s.freePlaces bound with
  | some l => some l
  | none => usable.find? fun l => decide (s.lanes[l].binding = none)

/-- The front of a lane when it is eligible to feed a stand (R53). -/
def State.eligibleFront (s : State) (n : StandNo) (l : LaneNo) : Option (RollSlot × Roll) :=
  if s.working.lanes[l].enabled then
    match s.lanes[l].contents with
    | [] => none
    | k :: _ =>
      match s.roll? k with
      | none => none
      | some r =>
        if r.state = .stored ∧ r.hold = false ∧ r.damaged = false ∧ r.claim = none ∧
            s.requirement n = some r.kind then some (k, r)
        else none
  else none

/-- A lane front that feed selection may take. -/
structure FeedChoice where
  lane : LaneNo
  slot : RollSlot
  roll : Roll

/-- Feed selection (R54): the eligible lane front with the smallest receipt sequence, of two with the same one the lower lane. -/
def State.feedChoice (s : State) (n : StandNo) : Option FeedChoice :=
  leastOf (fun c => c.roll.sequence) <|
    (List.finRange 32).filterMap fun l =>
      (s.eligibleFront n l).map fun p => ⟨l, p.1, p.2⟩

/-! ## Vehicles -/

/-- A vehicle that is IDLE and carries no roll enters the back of the idle list (R69). -/
def State.enterIdle (s : State) (v : VehicleNo) : State :=
  { s with idle := s.idle ++ [v] }

/-- A vehicle leaves the idle list. -/
def State.leaveIdle (s : State) (v : VehicleNo) : State :=
  { s with idle := s.idle.filter (· ≠ v) }

/-- A vehicle's wait ends; a vehicle that waits for tenure leaves the aisle's waiting list (R97, R99, R116). -/
def State.endWait (s : State) (v : VehicleNo) : State :=
  let s := match s.vehicles[v].waiting with
    | some (.tenure g) => s.modAisle g fun a => { a with waiting := a.waiting.filter (· ≠ v) }
    | _ => s
  s.modVehicle v fun x => { x with waiting := none }

/-- The number of a vehicle's current order, or 0 (R93, R95). -/
def State.orderNumberOf (s : State) (v : VehicleNo) : Nat :=
  match s.vehicles[v].order.bind fun k => s.orders[k] with
  | none => 0
  | some o => o.number

/-- The vehicle that waits at an arm (R95). -/
def State.waiterAt (s : State) (n : StandNo) (a : Arm) : Option VehicleNo :=
  (List.finRange 6).find? fun v => decide (s.vehicles[v].waiting = some (.armBusy n a))

/-- RESUME is queued to the vehicle that waits at an arm, and its wait ends (R95). -/
def State.resumeWaiter (s : State) (n : StandNo) (a : Arm) : State :=
  match s.waiterAt n a with
  | none => s
  | some v =>
    (s.instruct v (.resume (s.orderNumberOf v))).modVehicle v fun x => { x with waiting := none }

/-- The roll leaves an arm: the arm becomes EMPTY, or RESERVED when a FEED order's reservation rode with a stub (R22, R25, R65). -/
def ArmRecord.vacated (r : ArmRecord) : ArmRecord :=
  match r.reservation with
  | none => ArmRecord.bare
  | some k => ⟨.reserved, none, some k⟩

/-- A roll leaves an arm other than the running arm, and a vehicle that waits there is sent RESUME (R95, R140). -/
def State.vacateArm (s : State) (n : StandNo) (a : Arm) : State :=
  (s.modArm n a ArmRecord.vacated).resumeWaiter n a

/-- The front of a lane leaves it (R49). -/
def State.leaveLane (s : State) (l : LaneNo) : State :=
  s.modLane l fun x => { x with contents := x.contents.tail }.unbindIfEmpty

/-- A roll leaves the dock list; the rolls behind it keep their order (R42). -/
def State.leaveDock (s : State) (k : RollSlot) : State :=
  { s with dock := s.dock.filter (· ≠ k) }

/-- A carried roll leaves its vehicle by retirement; an IDLE vehicle enters the idle list (R25, R69). -/
def State.leaveVehicle (s : State) (v : VehicleNo) : State :=
  let s := s.modVehicle v fun x => { x with roll := none }
  if s.vehicles[v].state = .idle then s.enterIdle v else s

/-- The entry that names a roll stops naming it, in a retirement by RETIRE ROLL (R25, R39). -/
def State.leavePlace (s : State) (k : RollSlot) : Location → State
  | .dock => s.leaveDock k
  | .lane l => s.leaveLane l
  | .vehicle v => s.leaveVehicle v
  | .arm n a => s.vacateArm n a

/-- The claim of a roll is released (R26). -/
def State.unclaim (s : State) (k : RollSlot) : State :=
  s.modRoll k fun r => { r with claim := none }

/-- The destination of an order is reserved: one place of a lane, which an unbound lane is bound for, or the arm (R45, R47, R64, R65). -/
def State.reserve (s : State) (k : OrderSlot) (kind : PaperKind) : Place → State
  | .lane l => s.modLane l fun x =>
      { x with reservations := x.reservations + 1, binding := x.binding.or (some kind) }
  | .arm n a => s.modArm n a fun r =>
      { r with reservation := some k, status := if r.status = .empty then .reserved else r.status }
  | _ => s

/-- An arm loses its reservation: RESERVED becomes EMPTY, a STUB stays (R65). -/
def ArmRecord.unreserved (r : ArmRecord) : ArmRecord :=
  { r with reservation := none, status := if r.status = .reserved then .empty else r.status }

/-- The destination reservation of an order is released (R47, R65). -/
def State.release (s : State) : Place → State
  | .lane l => s.modLane l fun x => { x with reservations := x.reservations - 1 }.unbindIfEmpty
  | .arm n a => s.modArm n a ArmRecord.unreserved
  | _ => s

end Sys2Proof.Machine
end

