-- ==== Sys2Proof/Machine/Flags.lean ====
section
/-! DEFINITION. The lines the part drives and the port status byte, each a function of the state exactly as its rule says when it is asserted. -/

namespace Sys2Proof.Machine

/-- SPLICE_CMDn is asserted exactly while the stand is in SPLICING (R132). -/
def State.spliceCommand (s : State) (n : StandNo) : Bool := decide (s.stands[n].state = .splicing)

/-- The number of stands in WEB_OUT (R174). -/
def State.websOut (s : State) : Nat :=
  ((List.finRange 8).filter fun n => decide (s.stands[n].state = .webOut)).length

/-- PRESS_STOP is asserted exactly while at least one stand is in WEB_OUT (R130). -/
def State.pressStop (s : State) : Bool := decide (s.websOut ≠ 0)

/-- WASTE_ALARM is asserted while the ACTIVE job's budget-reached flag is set (R159). -/
def State.wasteAlarm (s : State) : Bool :=
  match s.activeSlot with
  | none => false
  | some j => s.jobs[j].budgetReached

/-- ATTN_N is asserted while the answer queue or the notice list holds an entry (R170). -/
def State.attention (s : State) : Bool := !s.answers.isEmpty || !s.notices.isEmpty

/-- The port status byte (R170, R179). -/
def State.statusByte (s : State) : Byte :=
  flagBits [!s.answers.isEmpty, decide (1 < s.answers.length), !s.notices.isEmpty, s.overrunMark,
    s.framingMark, decide (Config.requestPlaces ≤ s.requests.length), decide (s.device = .ready),
    decide (s.device = .loading)]

/-- The bytes on SPI_MISO as the host clocks so many bytes of the period in progress (R166): the answer frame fixed at the assertion, the status byte first, and 00h for every byte past it. -/
def State.miso (s : State) (clocked : Nat) : List Byte :=
  match s.period with
  | none => []
  | some p => (p.frame ++ List.replicate clocked 0).take clocked

/-- The flags byte of a roll: bit 0 HOLD, 1 DAMAGED, 2 DISCREPANCY, 3 PART_ROLL (R182). -/
def Roll.flags (r : Roll) : Byte := flagBits [r.hold, r.damaged, r.discrepancy, r.partRoll]

end Sys2Proof.Machine
end

