-- ==== Sys2Proof/Machine/Operands.lean ====
section
/-! DEFINITION. The operands of requests and reports: every shared encoding of R181 and every report field of R184, each read to the value it stands for, or to nothing where its byte is not in the table that defines it (R178, R185). -/

namespace Sys2Proof.Machine

/-! ## Requests -/

/-- The 38 requests of the request-code table (R180). -/
inductive RequestKind where
  | readStatus | fetchNotice | resetFloor
  | registerRoll | declareRoll | readRoll | amendRoll | retireRoll
  | readLane | putAway | relocate | countStock
  | feed | remove | cancelOrder | abandonOrder | readOrder
  | readVehicle | readAisle
  | readStand | holdTracking | releaseTracking | spliceNow | thread | strip | setMarks
  | stageJob | changeover | setBudget | readJob | retireJob
  | setGrade | setLane | setStand | setFleet | commitSettings | reloadSettings | storeSettings
  deriving DecidableEq, Repr

/-- The request code of a kind (R180). -/
def RequestKind.code : RequestKind → Byte
  | .readStatus => 0x01
  | .fetchNotice => 0x02
  | .resetFloor => 0x03
  | .registerRoll => 0x10
  | .declareRoll => 0x11
  | .readRoll => 0x12
  | .amendRoll => 0x13
  | .retireRoll => 0x14
  | .readLane => 0x20
  | .putAway => 0x21
  | .relocate => 0x22
  | .countStock => 0x23
  | .feed => 0x30
  | .remove => 0x31
  | .cancelOrder => 0x32
  | .abandonOrder => 0x33
  | .readOrder => 0x34
  | .readVehicle => 0x40
  | .readAisle => 0x41
  | .readStand => 0x50
  | .holdTracking => 0x51
  | .releaseTracking => 0x52
  | .spliceNow => 0x53
  | .thread => 0x54
  | .strip => 0x55
  | .setMarks => 0x56
  | .stageJob => 0x60
  | .changeover => 0x61
  | .setBudget => 0x62
  | .readJob => 0x63
  | .retireJob => 0x64
  | .setGrade => 0x70
  | .setLane => 0x71
  | .setStand => 0x72
  | .setFleet => 0x73
  | .commitSettings => 0x74
  | .reloadSettings => 0x75
  | .storeSettings => 0x76

/-- Every kind of request, in the order of R180. -/
def RequestKind.all : List RequestKind :=
  [.readStatus, .fetchNotice, .resetFloor, .registerRoll, .declareRoll, .readRoll, .amendRoll, .retireRoll,
    .readLane, .putAway, .relocate, .countStock, .feed, .remove, .cancelOrder, .abandonOrder, .readOrder,
    .readVehicle, .readAisle, .readStand, .holdTracking, .releaseTracking, .spliceNow, .thread, .strip,
    .setMarks, .stageJob, .changeover, .setBudget, .readJob, .retireJob, .setGrade, .setLane, .setStand,
    .setFleet, .commitSettings, .reloadSettings, .storeSettings]

/-- The request a code byte names, if it is in the table (R180). -/
def requestKind? (code : Byte) : Option RequestKind :=
  RequestKind.all.find? fun q => decide (q.code = code)

/-- The number of field bytes a request code requires: L less 2 (R181); for STAGE JOB the entry count byte fixes it (R178). -/
def RequestKind.fieldBytes (q : RequestKind) (fields : List Byte) : Nat :=
  match q with
  | .readStatus | .fetchNotice | .resetFloor | .changeover => 0
  | .commitSettings | .reloadSettings | .storeSettings => 0
  | .registerRoll => 13
  | .declareRoll => 21
  | .readRoll | .retireRoll | .remove => 6
  | .amendRoll | .relocate => 8
  | .readLane | .readVehicle | .readAisle | .readStand => 1
  | .holdTracking | .releaseTracking | .spliceNow | .readJob | .retireJob => 1
  | .putAway | .feed => 7
  | .countStock | .strip | .setLane => 4
  | .cancelOrder | .abandonOrder | .thread => 2
  | .readOrder => 3
  | .setMarks | .setBudget => 5
  | .stageJob => 9 + 4 * num fields 8 1
  | .setGrade => 6
  | .setStand => 13
  | .setFleet => 9

/-- The kinds that can queue instructions and are served under the outbound place condition (R102, R168). -/
def RequestKind.queues : RequestKind → Bool
  | .putAway | .relocate | .remove | .amendRoll | .retireRoll | .cancelOrder | .abandonOrder => true
  | _ => false

/-- The result that refuses a request in a device state, or none where it is served (R169). -/
def RequestKind.gate (q : RequestKind) (d : DeviceState) : Option Result :=
  match q, d with
  | .readStatus, _ => none
  | _, .loading => some .notReady
  | .fetchNotice, _ | .resetFloor, _ | .storeSettings, _ => none
  | .setGrade, .ready | .setLane, .ready | .setStand, .ready | .setFleet, .ready => some .wrongState
  | .commitSettings, .ready | .reloadSettings, .ready => some .wrongState
  | .setGrade, .unconfigured | .setLane, .unconfigured | .setStand, .unconfigured => none
  | .setFleet, .unconfigured | .commitSettings, .unconfigured | .reloadSettings, .unconfigured => none
  | _, .unconfigured => some .notReady
  | _, .ready => none

/-! ## Shared encodings of R181 -/

/-- One byte of the fields as a number. -/
def byteAt (fields : List Byte) (i : Nat) : Nat := num fields i 1

/-- Flag: 00h clear, 01h set. -/
def flag? (b : Nat) : Option Bool :=
  if b = 0 then some false else if b = 1 then some true else none

/-- Flag action: 00h leave, 01h set, 02h clear; the flag it makes of a flag. -/
inductive FlagAction where
  | leave
  | set
  | clear
  deriving DecidableEq, Repr

/-- The flag after an action (R36). -/
def FlagAction.apply (old : Bool) : FlagAction → Bool
  | .leave => old
  | .set => true
  | .clear => false

/-- Flag action. -/
def action? (b : Nat) : Option FlagAction :=
  if b = 0 then some .leave else if b = 1 then some .set else if b = 2 then some .clear else none

/-- Arm. -/
def arm? (b : Nat) : Option Arm :=
  if b = 0 then some .A else if b = 1 then some .B else none

/-- Optional arm: FFh none. -/
def optArm? (b : Nat) : Option (Option Arm) :=
  if b = 255 then some none else (arm? b).map some

/-- A roll reference (R19). -/
inductive RollRef where
  | byTag (tag : Nat)
  | bySlot (slot : Nat)
  deriving DecidableEq, Repr

/-- Roll reference, six bytes; none where R19 refuses it with BAD_FIELD. -/
def rollRef? (bytes : List Byte) : Option RollRef :=
  let n := num bytes 1 5
  if byteAt bytes 0 = 0 then if 1 ≤ n ∧ n ≤ Config.maxTag then some (.byTag n) else none
  else if byteAt bytes 0 = 1 then if n < Config.rollSlots then some (.bySlot n) else none
  else none

/-- Optional roll reference: FFh and five 00h bytes for none. -/
def optRollRef? (bytes : List Byte) : Option (Option RollRef) :=
  if byteAt bytes 0 = 255 then if num bytes 1 5 = 0 then some none else none
  else (rollRef? bytes).map some

/-- The slot of the live record with a tag. -/
def findTag (tag : Nat) : List (RollSlot × Roll) → Option RollSlot
  | [] => none
  | (k, r) :: t => if r.tag = tag then some k else findTag tag t

/-- The live record a reference names, or none for NOT_FOUND (R19). -/
def State.resolve (s : State) : RollRef → Option (RollSlot × Roll)
  | .byTag tag => (findTag tag s.rolls).bind fun k => (s.roll? k).map fun r => (k, r)
  | .bySlot k => (s.roll? k).map fun r => (k, r)

/-- Destination: a lane, or FEh for "part chooses". -/
def destination? (b : Nat) : Option (Option LaneNo) :=
  if b = 254 then some none else (fin? 32 b).map some

/-- Place selector: a lane, or FEh for the dock. -/
def selector? (b : Nat) : Option (Option LaneNo) := destination? b

/-- An order reference: the slot it names, BAD_FIELD or NOT_FOUND (R81). -/
def State.resolveOrder (s : State) (bytes : List Byte) : Except Result OrderSlot :=
  let n := num bytes 1 2
  if byteAt bytes 0 = 0 then
    if n = 0 then .error .badField
    else match s.orderNumbered n with | none => .error .notFound | some k => .ok k
  else if byteAt bytes 0 = 1 then
    match fin? 32 n with
    | none => .error .badField
    | some k => if s.orders[k].isSome then .ok k else .error .notFound
  else .error .badField

/-- Length source: 00h COPY, 01h ROLLER. -/
def source? (b : Nat) : Option LengthSource :=
  if b = 0 then some .copy else if b = 1 then some .roller else none

/-- Roll state (R182). -/
def rollState? (b : Nat) : Option RollState :=
  if b = 0 then some .docked else if b = 1 then some .stored else if b = 2 then some .carried
  else if b = 3 then some .standby else if b = 4 then some .running else if b = 5 then some .stub
  else none

/-- The location a declared state requires, from the location index and the arm byte; none where their form is not the state's (R30, R181). -/
def location? (st : RollState) (index armByte : Nat) : Option Location :=
  match st with
  | .docked => if index = 255 ∧ armByte = 255 then some .dock else none
  | .stored => if armByte = 255 then (fin? 32 index).map .lane else none
  | .carried => if armByte = 255 then (fin? 6 index).map .vehicle else none
  | _ => (fin? 8 index).bind fun n => (arm? armByte).map (.arm n)

/-- A number inside its range. -/
def within (lo hi n : Nat) : Bool := decide (lo ≤ n ∧ n ≤ hi)

/-! ## Reports -/

/-- The eight reports (R89), with the fields of each. -/
inductive Report where
  | online (tag : Option Nat) (aisle : Option AisleNo)
  | atPlace (p : Place)
  | picked (tag : Nat)
  | dropped
  | clear
  | park
  | fault (code : Nat)
  | offline
  deriving DecidableEq, Repr

/-- The place of an AT_PLACE (R184): the second byte is 00h at the dock and the exit bay (assumption log 10). -/
def place? (code second : Nat) : Option Place :=
  if code = 0 then if second = 0 then some .dock else none
  else if code = 1 then (fin? 32 second).map .lane
  else if code = 2 then (fin? 8 second).map fun n => .arm n .A
  else if code = 3 then (fin? 8 second).map fun n => .arm n .B
  else if code = 4 then if second = 0 then some .exitBay else none
  else none

/-- The fields of an ONLINE: an absent field is not checked (R184, R185). -/
def online? (fields : List Byte) : Option Report :=
  let presence := byteAt fields 0
  let tag := num fields 1 5
  if 3 < presence then none
  else
    let withTag := decide (presence % 2 = 1)
    let withAisle := decide (2 ≤ presence)
    if withTag ∧ within 1 Config.maxTag tag = false then none
    else
      let tag? := if withTag then some tag else none
      if withAisle then (fin? 8 (byteAt fields 6)).map fun g => .online tag? (some g)
      else some (.online tag? none)

/-- The report a frame carries, or none where R185 refuses it with BAD_FIELD: an unknown kind, a wrong length, or a field out of its range. -/
def report? (f : FleetFrame) : Option Report :=
  let kind := f.kind.toNat
  let len := f.fields.length
  if kind = 1 then if len = 7 then online? f.fields else none
  else if kind = 2 then
    if len = 2 then (place? (byteAt f.fields 0) (byteAt f.fields 1)).map .atPlace else none
  else if kind = 3 then
    if len = 5 ∧ within 1 Config.maxTag (num f.fields 0 5) then some (.picked (num f.fields 0 5)) else none
  else if kind = 4 then if len = 0 then some .dropped else none
  else if kind = 5 then if len = 0 then some .clear else none
  else if kind = 6 then if len = 0 then some .park else none
  else if kind = 7 then
    if len = 1 ∧ within 1 255 (byteAt f.fields 0) then some (.fault (byteAt f.fields 0)) else none
  else if kind = 8 then if len = 0 then some .offline else none
  else none

end Sys2Proof.Machine
end

