-- ==== Sys2Proof/Machine/Dispatcher.lean ====
section
/-! DEFINITION. The dispatcher's shared operations: creating an order, the feed demand list, pairing, and taking an order from its vehicle (04_transport_orders_and_feed_demand). -/

namespace Sys2Proof.Machine

/-! ## Creating and ending orders -/

/-- The place a GO names as its source: the dock code for an order that starts on the vehicle (R100, R184). -/
def Place.goSource : Place → Place
  | .vehicle _ => .dock
  | p => p

/-- A new order as it stands at creation (R61, R64): LADEN on the vehicle it starts from, or WAITING. -/
def newOrder (number : Nat) (kind : OrderKind) (origin : OrderOrigin) (k : RollSlot) (tag limit : Nat)
    (source dest : Place) : Order where
  number := number
  kind := kind
  origin := origin
  roll := k
  rollTag := tag
  source := source
  dest := dest
  vehicle := match source with | .vehicle v => some v | _ => none
  state := match source with | .vehicle _ => .laden | _ => .waiting
  stalled := false
  late := false
  deadline := match source with | .vehicle _ => loadCounter limit | _ => .none

/-- Creates an order in a free slot as one event (R64): slot and number, claim, destination reservation, and then the waiting-order queue or, for a roll on a vehicle, GO at once. -/
def State.createOrder (s : State) (slot : OrderSlot) (kind : OrderKind) (origin : OrderOrigin)
    (k : RollSlot) (r : Roll) (source dest : Place) : State :=
  let number := s.newNumber
  let o := newOrder number kind origin k r.tag s.working.fleet.orderLimit source dest
  let s := { s.setOrder slot (some o) with nextNumber := nextAfter number }
  let s := (s.modRoll k fun x => { x with claim := some slot }).reserve slot r.kind dest
  match source with
  | .vehicle v =>
    (s.modVehicle v fun x => { x with state := .laden, order := some slot }).instruct v
      (.go number r.tag source.goSource dest)
  | _ => s.enterQueue slot kind.cls

/-- What CANCEL ORDER, ABANDON ORDER and a hold do to the vehicle of an order (R99): STAND_DOWN, the end of its wait, and IDLE (a FAULTED vehicle keeps FAULTED and gets IDLE as its state before fault); it enters the idle list unless it is FAULTED or carries a roll. -/
def State.standDown (s : State) (v : VehicleNo) (number : Nat) : State :=
  let s := (s.instruct v (.standDown number)).endWait v
  if s.vehicles[v].state = .faulted then
    s.modVehicle v fun x => { x with order := none, beforeFault := some .idle }
  else
    let s := s.modVehicle v fun x => { x with order := none, state := .idle }
    if s.vehicles[v].roll.isNone then s.enterIdle v else s

/-- An order's vehicle, if it has one, is told to stand down (R77, R78, R37). -/
def State.dismiss (s : State) (o : Order) : State :=
  match o.vehicle with
  | none => s
  | some v => s.standDown v o.number

/-- A slot leaves the waiting-order queue (R68). -/
def State.leaveQueue (s : State) (k : OrderSlot) : State :=
  { s with waiting := s.waiting.filter (· ≠ k) }

/-- An order's claim and destination reservation are released, it leaves the queue, and its vehicle stands down (R37, R77, R78, R85). -/
def State.withdraw (s : State) (k : OrderSlot) (o : Order) : State :=
  (((s.unclaim o.roll).release o.dest).leaveQueue k).dismiss o

/-- An order becomes CANCELLED and keeps its slot until its notice is fetched (R37, R80, R85). -/
def State.markCancelled (s : State) (k : OrderSlot) (o : Order) : State :=
  (s.modOrder k fun x => { x with state := .cancelled, vehicle := none, deadline := .none }).post
    (.orderCancelled k) (.order o.number)

/-! ## Feed demand -/

/-- Serves one entry of the feed demand list if it can be served (R84): an automatic FEED order for the roll feed selection yields, to the feed arm; the entry leaves the list. -/
def State.serveDemand (s : State) (n : StandNo) : State :=
  if (s.requirement n).isSome ∧ s.feedArmAvailable n then
    match s.feedChoice n, s.freeOrderSlot with
    | some c, some slot =>
      let s := s.createOrder slot .feed .automatic c.slot c.roll (.lane c.lane)
        (.arm n s.stands[n].feedArm)
      { s with demand := s.demand.filter (· ≠ n) }
    | _, _ => s
  else s

/-- An examination of the feed demand list, from its head to its back (R83). -/
def State.examine (s : State) : State :=
  s.demand.foldl State.serveDemand s

/-- FEED_SHORT is posted for a stand that is still in the list (R82, R153). -/
def State.postShort (s : State) (n : StandNo) : State :=
  if n ∈ s.demand then s.post (.feedShort n) (.metres (s.runningMetres n)) else s

/-- A stand's demand enters the list at the back, unless the stand has an open FEED order or is in the list (R82). -/
def State.appendDemand (s : State) (n : StandNo) : State :=
  if (s.openFeed n).isSome ∨ n ∈ s.demand then s else { s with demand := s.demand ++ [n] }

/-- A demand is raised (R82): it enters the list, the list is examined, and FEED_SHORT is posted when it stayed. -/
def State.raiseDemand (s : State) (n : StandNo) : State :=
  if (s.openFeed n).isSome ∨ n ∈ s.demand then s
  else ((s.appendDemand n).examine).postShort n

/-! ## Pairing -/

/-- The vehicle in the idle list that is PARKED in the aisle of an order's source lane (R70). -/
def State.parkedAtSource (s : State) (o : Order) : Option VehicleNo :=
  match o.source with
  | .lane l =>
    let a := s.aisles[s.working.lanes[l].aisle]
    if a.mode = .parked then a.holder.filter fun v => decide (v ∈ s.idle) else none
  | _ => none

/-- The vehicle a pairing takes: the one parked at the source, else the head of the idle list (R70). -/
def State.pairingVehicle (s : State) (o : Order) : Option VehicleNo :=
  (s.parkedAtSource o).or s.idle.head?

/-- Joins the order of a slot to a vehicle (R70). -/
def State.join (s : State) (k : OrderSlot) (o : Order) (v : VehicleNo) : State :=
  let s := (s.leaveQueue k).leaveIdle v
  let s := s.setOrder k
    (some { o with state := .assigned, vehicle := some v, deadline := loadCounter s.working.fleet.orderLimit })
  (s.modVehicle v fun x => { x with state := .outbound, order := some k }).instruct v
    (.go o.number o.rollTag o.source.goSource o.dest)

/-- One pairing, when the queue and the idle list are non-empty and an outbound place is free (R70). -/
def State.pairOne (s : State) : Option State :=
  match s.waiting with
  | [] => none
  | k :: _ =>
    match s.orders[k] with
    | none => none
    | some o =>
      match s.pairingVehicle o with
      | none => none
      | some v => if 0 < s.outboundFree then some (s.join k o v) else none

/-- Pairing is repeated while its conditions hold, at most `fuel` times (R70). -/
def pairUpTo : Nat → State → State
  | 0, s => s
  | fuel + 1, s =>
    match s.pairOne with
    | none => s
    | some t => pairUpTo fuel t

/-- Pairing takes place (R70); each pairing takes one order from the queue. -/
def State.pair (s : State) : State := pairUpTo s.waiting.length s

end Sys2Proof.Machine
end

