-- ==== Sys2Proof/Machine/Tracker.lean ====
section
/-! DEFINITION. The stand tracker's and the job counter's shared operations: metre steps, mark checks, splicing, promotion, deductions, copy counting, changeover (01, 07, 08). -/

namespace Sys2Proof.Machine

/-! ## Standbys -/

/-- The standby comparison (R139): the roll's grade and width are what the active web plan requires of the stand. -/
def State.matchesPlan (s : State) (n : StandNo) (r : Roll) : Bool :=
  decide (s.requirement n = some r.kind)

/-- The status the comparison gives a standby (R139). -/
def State.standbyStatus (s : State) (n : StandNo) (r : Roll) : ArmStatus :=
  if s.matchesPlan n r then .ready else .mismatch

/-- The arm of a stand's standby place: the other arm of a stand with a running arm (R124). -/
def Stand.standbyArm (st : Stand) : Option Arm := st.running.map Arm.other

/-- "The standby is READY" (R124). -/
def Stand.standbyReady (st : Stand) : Bool :=
  match st.standbyArm with
  | none => false
  | some a => decide ((st.arm a).status = .ready)

/-- A READY arm whose roll no longer matches becomes MISMATCH, with STANDBY_MISMATCH when `notify` is set (R133, R141). -/
def State.demote (s : State) (n : StandNo) (a : Arm) (notify : Bool) : State :=
  let rec_ := s.stands[n].arm a
  match rec_.status, rec_.roll.bind s.roll? with
  | .ready, some r =>
    if s.matchesPlan n r then s
    else
      let s := s.modArm n a fun x => { x with status := .mismatch }
      if notify then s.post (.standbyMismatch n) (.tag r.tag) else s
  | _, _ => s

/-- A stand that leaves SPLICING without a promotion compares its standby anew (R133). -/
def State.compareStandby (s : State) (n : StandNo) (notify : Bool) : State :=
  match s.stands[n].standbyArm with
  | none => s
  | some a => s.demote n a notify

/-- A stand's state. -/
def State.setStandState (s : State) (n : StandNo) (st : StandState) : State :=
  s.modStand n fun x => { x with state := st }

/-- Entry to SPLICING loads the splice window counter (R132). -/
def State.enterSplicing (s : State) (n : StandNo) : State :=
  s.modStand n fun x => { x with state := .splicing, window := s.working.stands[n].spliceWindow }

/-! ## Mark checks -/

/-- The call-up check (R129) on the remaining length `r`. A demand it raises is examined at the raise, with FEED_SHORT posted there (R82), and so before the zero check posts WEB_OUT, also at step 7 of a splice done, after whose end R135 has the list examined: DESIGN CHOICE, assumption log 5. -/
def State.callUpCheck (s : State) (n : StandNo) (r : Nat) : State :=
  let st := s.stands[n]
  if st.callUpMark ≠ 0 ∧ st.callUpRaised = false ∧ r ≤ st.callUpMark then
    let s := (s.modStand n fun x => { x with callUpRaised := true }).post (.callUp n) (.metres r)
    if s.feedArmClear n then s.raiseDemand n else s
  else s

/-- The zero check acts in these states (R130). -/
def StandState.canRunOut : StandState → Bool
  | .loaded | .spliceDue | .splicing | .spliceHeld => true
  | .off | .empty | .webOut => false

/-- The zero check (R130) on the remaining length `r` of the roll with tag `tag`. -/
def State.zeroCheck (s : State) (n : StandNo) (r tag : Nat) : State :=
  let old := s.stands[n].state
  if r = 0 ∧ old.canRunOut then
    let s := s.setStandState n .webOut
    let s := if old = .splicing then s.compareStandby n true else s
    s.post (.webOut n) (.tag tag)
  else s

/-- The splice mark check (R131) on the remaining length `r`. It acts in LOADED, and so not after a zero check that acted. -/
def State.spliceMarkCheck (s : State) (n : StandNo) (r : Nat) : State :=
  let st := s.stands[n]
  if st.state = .loaded ∧ st.spliceMark ≠ 0 ∧ r ≤ st.spliceMark then
    if st.standbyReady then s.enterSplicing n else s.setStandState n .spliceDue
  else s

/-- The mark checks of a stand that has a running roll, in their order (R128). -/
def State.markChecks (s : State) (n : StandNo) : State :=
  match s.runningRoll n with
  | none => s
  | some r =>
    ((s.callUpCheck n r.remaining).zeroCheck n r.remaining r.tag).spliceMarkCheck n r.remaining

/-! ## Metre steps -/

/-- One metre off a roll: the remaining length down by 1, or at 0 the overrun up by 1 (R9 step 1). -/
def Roll.stepped (r : Roll) : Roll :=
  if 0 < r.remaining then { r with remaining := r.remaining - 1 }
  else { r with overrun := satAdd Config.max8 r.overrun 1 }

/-- The splice window expires: SPLICE_HELD, SPLICE_FAILED, and the standby compared anew (R133). -/
def State.windowExpiry (s : State) (n : StandNo) : State :=
  ((s.setStandState n .spliceHeld).post (.spliceFailed n) (.metres (s.runningMetres n))).compareStandby n true

/-- In SPLICING the window counter goes down by 1 and expires at 0 (R9 step 4, R133). -/
def State.countWindow (s : State) (n : StandNo) : State :=
  if s.stands[n].state = .splicing then
    let s := s.modStand n fun x => { x with window := x.window - 1 }
    if s.stands[n].window = 0 then s.windowExpiry n else s
  else s

/-- The paper metres of the ACTIVE job rise by 1 when the stand is a member of its web plan (R9 step 3). -/
def State.countPaper (s : State) (n : StandNo) : State :=
  if (s.requirement n).isSome then
    s.charge fun j => { j with paper := satAdd Config.max32 j.paper 1 }
  else s

/-- A metre step on a stand's running roll (R9). -/
def State.metreStep (s : State) (n : StandNo) : State :=
  match s.runningSlot n with
  | none => s
  | some k => (((s.modRoll k Roll.stepped).markChecks n).countPaper n).countWindow n

/-- A stand takes a length input of `increment` millimetres unless it has no running roll or its tracking hold flag is set (R7, R8). -/
def State.lengthInput (s : State) (n : StandNo) (increment : Nat) : State :=
  let st := s.stands[n]
  if st.trackingHold ∨ (s.runningRoll n).isNone then s
  else
    let sum := st.fraction + increment
    if 1000 ≤ sum then (s.modStand n fun x => { x with fraction := sum - 1000 }).metreStep n
    else s.modStand n fun x => { x with fraction := sum }

/-- A copy event reaches the COPY-source stands, in stand order, with the active job's cutoff; none when no job is ACTIVE (R7). -/
def State.copyStands (s : State) : State :=
  match s.activeSlot with
  | none => s
  | some j =>
    let cutoff := s.jobs[j].cutoff
    (List.finRange 8).foldl
      (fun t n => if s.working.stands[n].source = .copy then t.lengthInput n cutoff else t) s

/-! ## Deductions and charges -/

/-- A deduction removes the lesser of `m` and the remaining length (R13). -/
def State.deduct (s : State) (k : RollSlot) (m : Nat) : State :=
  s.modRoll k fun r => { r with remaining := r.remaining - min m r.remaining }

/-- SPLICE waste (R14). -/
def Job.chargeSplice (m : Nat) (j : Job) : Job :=
  { j with spliceWaste := satAdd Config.max32 j.spliceWaste m }

/-- STUB waste (R14). -/
def Job.chargeStub (m : Nat) (j : Job) : Job :=
  { j with stubWaste := satAdd Config.max32 j.stubWaste m }

/-- STRIP waste (R14). -/
def Job.chargeStrip (m : Nat) (j : Job) : Job :=
  { j with stripWaste := satAdd Config.max32 j.stripWaste m }

/-! ## Promotion and disposal -/

/-- The roll on an arm becomes the running roll (R24): RUNNING, running arm, fraction 0, call-up raised flag clear (R10). -/
def State.promote (s : State) (n : StandNo) (a : Arm) (k : RollSlot) : State :=
  let s := s.modRoll k fun r => { r with state := .running }
  s.modStand n fun st =>
    { st.setArm a { st.arm a with status := .running } with
      running := some a, fraction := 0, callUpRaised := false }

/-- The old running roll is charged to STUB waste and retired; its arm becomes EMPTY (R25, R136). -/
def State.retireOld (s : State) (n : StandNo) (a : Arm) (k : RollSlot) (r : Roll) : State :=
  ((s.charge (Job.chargeStub r.remaining)).eraseRoll k).modArm n a fun _ => ArmRecord.bare

/-- The old running roll becomes a STUB on its arm, and a RETURN order is made for it, or STUB_STRANDED is posted (R136). -/
def State.keepStub (s : State) (n : StandNo) (a : Arm) (k : RollSlot) (r : Roll) : State :=
  let s := s.modRoll k fun x => { x with state := .stub, partRoll := true }
  let s := s.modArm n a fun x => { x with status := .stub }
  match s.putAwayLane r.kind none, s.freeOrderSlot with
  | some l, some slot => s.createOrder slot .returnStub .automatic k r (.arm n a) (.lane l)
  | _, _ => s.post (.stubStranded n) (.tag r.tag)

/-- An accepted splice done (R135): the standby `new` on arm `a.other` takes over from `old` on arm `a`. The demand list is examined at its end; a demand that step 7 raised has been examined at the raise too (DESIGN CHOICE, assumption log 5). -/
def State.spliceDone (s : State) (n : StandNo) (a : Arm) (oldSlot newSlot : RollSlot) (old new : Roll) :
    State :=
  let splicing := decide (s.stands[n].state = .splicing)
  let setting := s.working.stands[n]
  let s := s.promote n a.other newSlot
  let s := (s.deduct newSlot setting.spliceWaste).charge
    (Job.chargeSplice (min setting.spliceWaste new.remaining))
  let s := s.charge fun j => { j with rollsSpliced := satAdd Config.max16 j.rollsSpliced 1 }
  let s := if splicing ∧ setting.stubThreshold < old.remaining then s.keepStub n a oldSlot old
    else s.retireOld n a oldSlot old
  let s := (s.post (.spliceDone n) (.tag new.tag)).setStandState n .loaded
  (s.markChecks n).examine

/-- A roll is dropped on the arm its FEED order reserved (R139). -/
def State.placeStandby (s : State) (n : StandNo) (a : Arm) (k : RollSlot) (r : Roll) : State :=
  let s := s.modRoll k fun x => { x with state := .standby, location := .arm n a }
  let status := s.standbyStatus n r
  let s := s.modArm n a fun _ => ⟨status, some k, none⟩
  if status = .mismatch then s.post (.standbyMismatch n) (.tag r.tag)
  else if s.stands[n].state = .spliceDue ∧ s.stands[n].standbyArm = some a then s.enterSplicing n
  else s

/-! ## Copies and jobs -/

/-- The number k of run waste: the members of the ACTIVE job's web plan whose running arm holds a roll and whose tracking hold flag is clear (R12). -/
def State.wasteStands (s : State) : Nat :=
  ((List.finRange 8).filter fun n =>
    (s.requirement n).isSome && (s.runningRoll n).isSome && !s.stands[n].trackingHold).length

/-- The budget check on the ACTIVE job (R158). -/
def State.budgetCheck (s : State) (j : JobSlot) : State :=
  let job := s.jobs[j]
  if job.budget ≠ 0 ∧ job.budgetReached = false ∧ job.budget ≤ job.reject then
    (s.modJob j fun x => { x with budgetReached := true }).post (.budgetReached j) (.job job.number)
  else s

/-- Run waste of one reject copy: cutoff × k into the waste fraction, whole metres to RUN (R12). -/
def State.chargeRun (s : State) (j : JobSlot) : State :=
  let sum := s.wasteFraction + s.jobs[j].cutoff * s.wasteStands
  { s.modJob j (fun x => { x with runWaste := satAdd Config.max32 x.runWaste (sum / 1000) }) with
    wasteFraction := sum % 1000 }

/-- One copy counted against a job (R155): gross, and good or reject, and startup reject in STARTUP. -/
def Job.countCopy (reject : Bool) (j : Job) : Job :=
  let startup := decide (j.phase = .startup)
  if reject ∨ startup then
    { j with gross := j.gross + 1, reject := j.reject + 1,
             startupReject := if startup then j.startupReject + 1 else j.startupReject }
  else { j with gross := j.gross + 1, good := j.good + 1 }

/-- The job counter takes a copy event with the REJECT level `reject` (R155, R16). -/
def State.countCopy (s : State) (reject : Bool) : State :=
  match s.activeSlot with
  | none => s
  | some j =>
    let job := s.jobs[j]
    if job.countFull ∨ Config.max32 ≤ job.gross then s.modJob j fun x => { x with countFull := true }
    else if reject ∨ job.phase = .startup then
      ((s.chargeRun j).modJob j (Job.countCopy reject)).budgetCheck j
    else s.modJob j (Job.countCopy reject)

/-! ## The changeover -/

/-- Step 4 at one arm: a READY standby that does not match becomes MISMATCH; an unclaimed MISMATCH standby that matches becomes READY, and starts the splice of a stand in SPLICE_DUE (R141). -/
def State.compareArm (s : State) (n : StandNo) (a : Arm) : State :=
  let rec_ := s.stands[n].arm a
  match rec_.status, rec_.roll.bind s.roll? with
  | .ready, _ => s.demote n a true
  | .mismatch, some r =>
    if r.claim = none ∧ s.matchesPlan n r then
      let s := s.modArm n a fun x => { x with status := .ready }
      if s.stands[n].state = .spliceDue ∧ s.stands[n].standbyArm = some a then s.enterSplicing n else s
    else s
  | _, _ => s

/-- Step 4 at one stand; a stand in SPLICING is passed over (R141). Arm A is compared before arm B, and the changeover takes the stands from 0 to 7: DESIGN CHOICE, assumption log 5. -/
def State.compareStand (s : State) (n : StandNo) : State :=
  if s.stands[n].state = .splicing then s else (s.compareArm n .A).compareArm n .B

/-- The roll of an order fits the active web plan at a stand. -/
def State.orderFits (s : State) (o : Order) (n : StandNo) : Bool :=
  match s.roll? o.roll with
  | none => false
  | some r => s.matchesPlan n r

/-- An order is a WAITING FEED order whose roll or stand no longer fits the active web plan; its stand (R85 step 1). -/
def State.outdatedFeed (s : State) (o : Order) : Option StandNo :=
  match o.dest with
  | .arm n _ =>
    if o.kind = .feed ∧ o.state = .waiting ∧ s.orderFits o n = false then some n else none
  | _ => none

/-- Cancels the order of a slot when it is outdated (R85 step 1); answers the stand whose order it was. -/
def State.pruneSlot (s : State) (k : OrderSlot) : State × Option StandNo :=
  match s.orders[k] with
  | none => (s, none)
  | some o =>
    match s.outdatedFeed o with
    | none => (s, none)
    | some n => ((s.withdraw k o).markCancelled k o, some n)

/-- Step 5: the outdated orders are cancelled, in slot order; the stands they were for (R85). -/
def State.pruneOrders (s : State) : State × List StandNo :=
  (List.finRange 32).foldl
    (fun p k => let q := p.1.pruneSlot k; (q.1, match q.2 with | none => p.2 | some n => p.2 ++ [n]))
    (s, [])

/-- What a changeover did, for the answer of the CHANGEOVER request (R153). -/
structure ChangeoverReport where
  active : JobSlot
  closed : Option JobSlot
  cancelled : Nat

/-- Step 1: the ACTIVE slot becomes CLOSED, with JOB_CLOSED (R152). -/
def State.closeJob (s : State) : State :=
  match s.activeSlot with
  | none => s
  | some j => (s.modJob j fun x => { x with state := .closed }).post (.jobClosed j) (.job s.jobs[j].number)

/-- Steps 1 to 3: the job counter's own records (R152). -/
def State.activate (s : State) (staged : JobSlot) : State :=
  { s.closeJob.modJob staged (fun x =>
      { x with state := .active, phase := if s.saleable then .saleable else .startup }) with
    wasteFraction := 0 }

/-- Steps 5 to 7: the outdated feeds cancelled, their stands re-raised in stand order, the list pruned and examined, FEED_SHORT for a re-raised stand still in it (R85, R153). The FEED_SHORT entries are posted in stand-number order: DESIGN CHOICE, assumption log 5. -/
def State.adoptPlan (s : State) : State × Nat :=
  let p := s.pruneOrders
  let again := (List.finRange 8).filter fun n => decide (n ∈ p.2) && (s.requirement n).isSome
  let s := again.foldl State.appendDemand p.1
  let s := { s with demand := s.demand.filter fun n => (s.requirement n).isSome }
  (again.foldl State.postShort s.examine, p.2.length)

/-- A changeover with the STAGED slot given (R152, R153). -/
def State.changeover (s : State) (staged : JobSlot) : State × ChangeoverReport :=
  let closed := s.activeSlot
  let s := s.activate staged
  let s := (List.finRange 8).foldl State.compareStand s
  let p := s.adoptPlan
  (p.1.pair, ⟨staged, closed, p.2⟩)

end Sys2Proof.Machine
end

