-- ==== Sys2Proof/Machine/Resets.lean ====
section
/-! DEFINITION. The floor reset, shared by FLOOR_RESET_N and RESET FLOOR, and the meanings of the two reset lines (R188, R194). -/

namespace Sys2Proof.Machine

/-- The request frame of the chip-select period in progress, or just released, is discarded by a reset when it comes to be judged (R176). -/
def State.spoilsFrame (s : State) : Bool := s.frameSpoiled || s.period.isSome

/-- The port's part of a floor reset (R176): buffer, queue, list and marks are cleared; a period in progress is finished with the bytes already fixed, and its request frame is discarded. -/
def State.resetPort (s : State) : State :=
  { s with
    requests := []
    answers := []
    notices := []
    overrunMark := false
    framingMark := false
    resetPending := false
    period := s.period.map fun p => { p with live := false }
    frameSpoiled := s.spoilsFrame }

/-- A stand at a floor reset in READY (R146): SPLICING goes to SPLICE_HELD with the standby compared without a notice, reservations are lost, the working marks come from the loaded image. -/
def State.resetStand (s : State) (n : StandNo) : State :=
  let s := if s.stands[n].state = .splicing then (s.setStandState n .spliceHeld).compareStandby n false else s
  s.modStand n fun st =>
    { st with
      armA := st.armA.unreserved
      armB := st.armB.unreserved
      callUpMark := s.loaded.stands[n].callUpMark
      spliceMark := s.loaded.stands[n].spliceMark }

/-- A lane at a floor reset: no reservations, and no binding when it has no contents (R60). -/
def Lane.reset (l : Lane) : Lane := { l with reservations := 0 }.unbindIfEmpty

/-- A vehicle at a floor reset: OFFLINE, with its carried roll (R107). -/
def Vehicle.reset (v : Vehicle) : Vehicle := { Vehicle.parkedAway with roll := v.roll }

/-- The dispatcher's, the fleet link's, the arbiter's and the register's part of a floor reset in READY (R41, R60, R86, R107, R122). -/
def State.resetMoves (s : State) : State :=
  { s with
    rolls := s.rolls.map fun p => (p.1, { p.2 with claim := none })
    lanes := vmap Lane.reset s.lanes
    orders := Vector.replicate 32 none
    waiting := []
    idle := []
    demand := []
    vehicles := vmap Vehicle.reset s.vehicles
    lineBytes := []
    received := []
    outbound := []
    finishing := s.sending
    aisles := Vector.replicate 8 Aisle.empty }

/-- The demand of a stand is raised again after a floor reset: a member of the active web plan, call-up raised, feed arm EMPTY (R86). -/
def State.reRaise (s : State) (n : StandNo) : State :=
  let st := s.stands[n]
  if (s.requirement n).isSome ∧ st.callUpRaised ∧ (st.arm st.feedArm).status = .empty then s.raiseDemand n
  else s

/-- A floor reset, by the device state in which it is taken (R194). -/
def State.floorReset (s : State) : State :=
  match s.device with
  | .loading => s
  | .unconfigured => s.resetPort
  | .ready =>
    let s := (List.finRange 8).foldl State.resetStand s
    (List.finRange 8).foldl State.reRaise s.resetMoves.resetPort

/-- POWER_ON_RESET (R188): every record of every block as its chapter states for power-on reset, the strap sampled, LOADING or UNCONFIGURED. A period in progress is lost in both directions (R176): no period remains, and its request frame enters no buffer. -/
def execPowerOnReset (setmem saleable : Bool) (s : State) : Host.Outcome State Fault Refusal :=
  .next { State.powerOn setmem saleable with frameSpoiled := s.spoilsFrame, pending := s.pending }

/-- FLOOR_RESET (R194). -/
def execFloorReset (s : State) : Host.Outcome State Fault Refusal := .next s.floorReset

end Sys2Proof.Machine
end

