-- ==== Sys2Proof/Machine/Port.lean ====
section
/-! DEFINITION. The control port (09): the frames of a chip-select period, the service of the head request, and the port-wide requests. -/

namespace Sys2Proof.Machine

/-! ## Frames -/

/-- A complete request is offered to the request buffer; a full buffer sets the overrun mark (R167). -/
def State.offer (s : State) (r : Request) : State :=
  if s.requests.length < Config.requestPlaces then { s with requests := s.requests ++ [r] }
  else { s with overrunMark := true }

/-- The judgement of a request frame at the release of its period (R165). -/
def State.judgeFrame (s : State) (mosi : List Byte) : State :=
  let len := num mosi 0 2
  if mosi.length < 2 ∨ len = 0 then s
  else if len = 1 ∨ 60 < len ∨ mosi.length < len + 2 then { s with framingMark := true }
  else
    match mosi.drop 2 with
    | code :: tag :: rest => s.offer ⟨code, tag, rest.take (len - 2)⟩
    | _ => s

/-- REQUEST_FRAME (R165, R167); the frame of a period in which a floor or power-on reset was taken is discarded and sets no mark (R176). -/
def execRequestFrame (mosi : List Byte) (s : State) : Host.Outcome State Fault Refusal :=
  .next (if s.frameSpoiled then { s with frameSpoiled := false } else s.judgeFrame mosi)

/-- The assertion of SPI_CS_N fixes the answer frame and forms the status byte (R166, R170). -/
def State.select (s : State) : State :=
  match s.period with
  | some _ => s
  | none =>
    { s with
      frameSpoiled := false
      period := some
        { answer := s.answers.head?
          frame := s.statusByte :: answerBytes s.answers.head?
          showsOverrun := s.overrunMark
          showsFraming := s.framingMark
          live := true } }

/-- The answer of a period is the OK answer of the pending RESET FLOOR (R175). -/
def Answer.isResetFloor (a : Answer) : Bool :=
  decide (a.code = RequestKind.resetFloor.code ∧ a.result = .ok)

/-- The release of SPI_CS_N after `clocked` bytes: the marks the status byte showed are cleared (R167), an answer clocked in full leaves the queue (R166), and a pending floor reset whose answer it was is taken and discards the period's request frame (R175). -/
def State.deselect (s : State) (clocked : Nat) : State :=
  match s.period with
  | none => s
  | some p =>
    let s := { s with
      period := none
      overrunMark := s.overrunMark && !(p.showsOverrun && decide (1 ≤ clocked))
      framingMark := s.framingMark && !(p.showsFraming && decide (1 ≤ clocked)) }
    match p.answer with
    | none => s
    | some a =>
      if p.live ∧ p.frame.length ≤ clocked then
        let s := { s with answers := s.answers.tail }
        if s.resetPending ∧ a.isResetFloor then { s.floorReset with frameSpoiled := true } else s
      else s

/-- ANSWER_FRAME (R166). -/
def execAnswerFrame (edge : SelectEdge) (s : State) : Host.Outcome State Fault Refusal :=
  .next (match edge with | .asserted => s.select | .released clocked => s.deselect clocked)

/-! ## Service of the head request -/

/-- What a request's own rule gives: a refusal, which changes no record, or OK with the records after it and the answer's fields. -/
inductive Reply where
  | refuse (r : Result)
  | ok (s : State) (fields : List Byte)

/-- The port may serve a request of a kind now (R168). -/
def State.canServe (s : State) (queues : Bool) : Bool :=
  decide (s.answers.length < Config.answerPlaces) &&
    (!queues || decide (Config.outboundMargin ≤ s.outboundFree)) && !s.resetPending

/-- An answer is appended to the answer queue with the request's code and frame tag (R168). -/
def State.answer (s : State) (r : Request) (result : Result) (fields : List Byte) : State :=
  { s with answers := s.answers ++ [⟨r.code, r.tag, result, fields⟩] }

/-- A request's answer: its code, its frame tag, the result, and fields only with OK (R168). -/
def State.reply (s : State) (r : Request) : Reply → State
  | .refuse e => s.answer r e []
  | .ok t fields => t.answer r .ok fields

/-- The checks 2 to 4 of R168: the device state, the frame length, the request's own rule. -/
def State.check (s : State) (q : RequestKind) (fields : List Byte) (body : List Byte → State → Reply) :
    Reply :=
  match q.gate s.device with
  | some e => .refuse e
  | none => if fields.length = q.fieldBytes fields then body fields s else .refuse .badField

/-- The service of the head request when it is of kind `q` and R168 lets the port serve it; otherwise the head request waits and nothing changes. -/
def State.serve (s : State) (q : RequestKind) (body : List Byte → State → Reply) : State :=
  match s.requests with
  | [] => s
  | r :: rest =>
    if requestKind? r.code = some q ∧ s.canServe q.queues then
      let t := { s with requests := rest }
      t.reply r (t.check q r.fields body)
    else s

/-- UNKNOWN_REQUEST (R168 check 1): a head request whose code is not in the table. -/
def execUnknownRequest (s : State) : Host.Outcome State Fault Refusal :=
  .next (match s.requests with
    | [] => s
    | r :: rest =>
      if requestKind? r.code = none ∧ s.canServe false then
        { s with requests := rest }.answer r .unknownRequest []
      else s)

/-! ## Port-wide requests -/

/-- The number of occupied order slots (R174). -/
def State.occupiedOrders (s : State) : Nat :=
  ((List.finRange 32).filter fun k => s.orders[k].isSome).length

/-- The status readout (R174, R181). -/
def State.statusReadout (s : State) : List Byte :=
  [s.device.code, flagByte s.store.isSome, flagByte s.pressStop, flagByte s.wasteAlarm, byteOf s.websOut] ++
    beBytes 4 s.sequence ++
    [byteOf s.occupiedOrders, byteOf s.waiting.length, byteOf s.idle.length, byteOf s.demand.length,
      byteOf s.outboundFree, byteOf s.received.length, byteOf s.requests.length, byteOf s.notices.length,
      optByte (s.activeSlot.map Fin.val), optByte (s.stagedSlot.map Fin.val)]

/-- READ STATUS (R174). -/
def readStatus (_fields : List Byte) (s : State) : Reply := .ok s s.statusReadout

/-- READ_STATUS. -/
def execReadStatus (s : State) : Host.Outcome State Fault Refusal :=
  .next (s.serve .readStatus readStatus)

/-- The slot an ORDER_DONE or ORDER_CANCELLED entry frees: it holds a DONE or CANCELLED order (R80, R173). -/
def State.freedBy (s : State) (key : NoticeKey) : Option OrderSlot :=
  match key with
  | .orderDone k | .orderCancelled k =>
    match s.orders[k] with
    | none => none
    | some o => if o.isOpen then none else some k
  | _ => none

/-- FETCH NOTICE (R173). -/
def fetchNotice (_fields : List Byte) (s : State) : Reply :=
  match s.notices with
  | [] => .ok s (0 :: noticeReadout none)
  | e :: rest =>
    let t := { s with notices := rest }
    let u := match s.freedBy e.key with
      | none => t
      | some k => ((t.setOrder k none).examine).pair
    .ok u (byteOf rest.length :: noticeReadout (some e))

/-- FETCH_NOTICE. -/
def execFetchNotice (s : State) : Host.Outcome State Fault Refusal :=
  .next (s.serve .fetchNotice fetchNotice)

/-- RESET FLOOR makes a floor reset pending (R175). -/
def resetFloor (_fields : List Byte) (s : State) : Reply := .ok { s with resetPending := true } []

/-- RESET_FLOOR. -/
def execResetFloor (s : State) : Host.Outcome State Fault Refusal :=
  .next (s.serve .resetFloor resetFloor)

end Sys2Proof.Machine
end

