-- ==== Sys2Proof/Machine/Clock.lean ====
section
/-! DEFINITION. The hall-seconds generator, the order deadlines and the aisle tenure counters (R75, R76, R117, R118). -/

namespace Sys2Proof.Machine

/-- An order's deadline expires: the counter expired, the stalled mark set, ORDER_STALLED posted (R76). -/
def State.expireDeadline (s : State) (k : OrderSlot) (o : Order) : State :=
  (s.setOrder k (some { o with deadline := .expired, stalled := true })).post (.orderStalled k)
    (.order o.number)

/-- A hall second at one slot of the order table: a running counter goes down by 1 and expires at 0 (R76). -/
def State.tickDeadline (s : State) (k : OrderSlot) : State :=
  match s.orders[k] with
  | none => s
  | some o =>
    match o.deadline with
    | .running left =>
      if left ≤ 1 then s.expireDeadline k o
      else s.setOrder k (some { o with deadline := .running (left - 1) })
    | _ => s

/-- AISLE_BLOCKED with the aisle's holder (R118); an aisle with a counter has a holder. -/
def State.postBlocked (s : State) (g : AisleNo) : State :=
  match s.aisles[g].holder with
  | none => s
  | some v => s.post (.aisleBlocked g) (.vehicle v)

/-- An aisle's tenure expires: the counter expired and AISLE_BLOCKED posted, nothing else (R118). -/
def State.expireTenure (s : State) (g : AisleNo) : State :=
  (s.modAisle g fun a => { a with counter := .expired }).postBlocked g

/-- A hall second at one aisle (R117). -/
def State.tickTenure (s : State) (g : AisleNo) : State :=
  match s.aisles[g].counter with
  | .running left =>
    if left ≤ 1 then s.expireTenure g
    else s.modAisle g fun a => { a with counter := .running (left - 1) }
  | _ => s

/-- One hall-second tick: every running deadline counter, by order slot, then every running tenure counter, by aisle (R75). -/
def State.tick (s : State) : State :=
  (List.finRange 8).foldl State.tickTenure ((List.finRange 32).foldl State.tickDeadline s)

/-- One REFCLK edge: the increment is added modulo 2^32, and a carry is a tick (R75). -/
def State.refclk (s : State) : State :=
  let sum := s.hallAccumulator + s.hallIncrement
  if sum < Config.hallModulus then { s with hallAccumulator := sum }
  else { s with hallAccumulator := sum - Config.hallModulus }.tick

/-- REFCLK_EDGE (R75). -/
def execRefclkEdge (s : State) : Host.Outcome State Fault Refusal := .next s.refclk

/-- The number of REFCLK edges up to and including the next one that carries. -/
def State.edgesToCarry (s : State) : Nat :=
  ceilDiv (Config.hallModulus - s.hallAccumulator) s.hallIncrement

/-- A hall second: the REFCLK edges up to and including the next one that carries, of which only that one ticks (R75, assumption log 6). -/
def State.hallSecond (s : State) : State :=
  if s.hallIncrement = 0 then s
  else
    { s with
      hallAccumulator := s.hallAccumulator + s.edgesToCarry * s.hallIncrement - Config.hallModulus }.tick

/-- So many hall seconds. -/
def hallSeconds : Nat → State → State
  | 0, s => s
  | m + 1, s => hallSeconds m s.hallSecond

/-- HALL_SECOND_TICK (R75). -/
def execHallSecondTick (s : State) : Host.Outcome State Fault Refusal := .next s.hallSecond

/-- The hall seconds after which a counter reaches 0; none for one that is not running. -/
def Counter.left : Counter → Nat
  | .running n => max 1 n
  | _ => 0

/-- The hall seconds left to the order of a slot. -/
def State.deadlineLeft (s : State) (k : OrderSlot) : Nat :=
  match s.orders[k] with
  | none => 0
  | some o => o.deadline.left

/-- ORDER_DEADLINE_EXPIRY (R76): the hall seconds up to the one that brings the slot's counter to 0 pass (assumption log 6); with no running counter nothing expires (R79). -/
def execOrderDeadlineExpiry (k : OrderSlot) (s : State) : Host.Outcome State Fault Refusal :=
  .next (hallSeconds (s.deadlineLeft k) s)

/-- TENURE_EXPIRY (R118): the hall seconds up to the one that brings the aisle's counter to 0 pass (assumption log 6); with no running counter nothing expires. -/
def execTenureExpiry (g : AisleNo) (s : State) : Host.Outcome State Fault Refusal :=
  .next (hallSeconds s.aisles[g].counter.left s)

end Sys2Proof.Machine
end

