-- ==== Sys2Proof/Machine/Arbiter.lean ====
section
/-! DEFINITION. The aisle arbiter's shared operations: grant, wait, handover (06_aisle_tenure). -/

namespace Sys2Proof.Machine

/-- An order and its vehicle move together to a new state (R88). -/
def State.advance (s : State) (v : VehicleNo) (vs : VehicleState) (os : OrderState) : State :=
  let s := match s.vehicles[v].order with
    | none => s
    | some k => s.modOrder k fun o => { o with state := os }
  s.modVehicle v fun x => { x with state := vs }

/-- A drive ends: an OUTBOUND vehicle and its order become LOADING, a LADEN one UNLOADING; in LOADING and UNLOADING nothing moves (R71, R73, R111). -/
def State.endDrive (s : State) (v : VehicleNo) : State :=
  match s.vehicles[v].state with
  | .outbound => s.advance v .loading .loading
  | .laden => s.advance v .unloading .unloading
  | _ => s

/-- A GRANT to a vehicle (R111, R112): it holds the aisle, the counter is loaded, the wait of its leg ends and its order moves on. -/
def State.grant (s : State) (g : AisleNo) (v : VehicleNo) (mode : AisleMode) : State :=
  let s := s.modAisle g fun a =>
    { a with holder := some v, mode := mode, counter := loadCounter s.working.fleet.tenureLimit }
  let s := s.instruct v (.grant g)
  (s.modVehicle v fun x => { x with waiting := none }).endDrive v

/-- The class of a vehicle's current order (R110). -/
def State.classOf (s : State) (v : VehicleNo) : OrderClass :=
  match s.vehicles[v].order.bind fun k => s.orders[k] with
  | none => .normal
  | some o => o.kind.cls

/-- A vehicle enters an aisle's waiting list: after the last URGENT entry if its class is URGENT, else at the back; one already there keeps its place (R110). -/
def State.enterWaiting (s : State) (g : AisleNo) (v : VehicleNo) : State :=
  if v ∈ s.aisles[g].waiting then s
  else
    match s.classOf v with
    | .normal => s.modAisle g fun a => { a with waiting := a.waiting ++ [v] }
    | .urgent =>
      let urgent := fun w => decide (s.classOf w = .urgent)
      s.modAisle g fun a =>
        { a with waiting := a.waiting.takeWhile urgent ++ v :: a.waiting.dropWhile urgent }

/-- An arrival is answered WAIT: the vehicle enters the waiting list and waits for the aisle (R94, R111). -/
def State.waitForAisle (s : State) (g : AisleNo) (v : VehicleNo) : State :=
  let s := (s.enterWaiting g v).instruct v (.waitTenure g)
  s.modVehicle v fun x => { x with waiting := some (.tenure g) }

/-- The report kind of AT_PLACE in an ACK (R184). -/
def atPlaceKind : Byte := 0x02

/-- The arbiter answers an arrival at a lane of an aisle from the aisle's mode (R111). -/
def State.arrive (s : State) (g : AisleNo) (v : VehicleNo) : State :=
  let a := s.aisles[g]
  match a.mode with
  | .free => s.grant g v .working
  | .parked =>
    if a.holder = some v then s.grant g v .working
    else
      let s := s.modAisle g fun a =>
        { a with mode := .calledOff, counter := loadCounter s.working.fleet.tenureLimit }
      let s := s.waitForAisle g v
      match a.holder with
      | none => s
      | some w => s.instruct w (.leave g)
  | mode =>
    if a.holder = some v then
      match s.vehicles[v].state with
      | .loading | .unloading => s.instruct v (.ack atPlaceKind)
      | _ => s.grant g v mode
    else s.waitForAisle g v

/-- The holder of an aisle leaves it: the head of the waiting list becomes holder with a GRANT, or the aisle becomes FREE (R112). -/
def State.handOver (s : State) (g : AisleNo) : State :=
  match s.aisles[g].waiting with
  | [] => s.modAisle g fun _ => Aisle.empty
  | w :: rest => (s.modAisle g fun a => { a with waiting := rest }).grant g w .working

/-- Whatever aisle a vehicle holds is released (R98, R113). -/
def State.releaseTenure (s : State) (v : VehicleNo) : State :=
  match s.aisleHeld v with
  | none => s
  | some g => s.handOver g

/-- The vehicle holds the aisle of a lane, in any mode (R119). -/
def State.holdsLane (s : State) (v : VehicleNo) (l : LaneNo) : Bool :=
  decide (s.aisles[s.working.lanes[l].aisle].holder = some v)

end Sys2Proof.Machine
end

