-- ==== Sys2Proof/Machine/Rolls.lean ====
section
/-! DEFINITION. The roll register's requests (02_the_roll_register; COUNT STOCK is R15). -/

namespace Sys2Proof.Machine

/-! ## REGISTER ROLL and DECLARE ROLL -/

/-- The mill figures of a roll lie in their ranges (R1, R4, R5). -/
def figuresValid (tag width core diameter weight : Nat) : Bool :=
  within 1 Config.maxTag tag && within 300 2600 width && within 50 200 core && within 70 1600 diameter &&
    decide (core + 20 ≤ diameter) && within 50 4000 weight

/-- A record is created in a slot: it takes the receipt sequence, and the counter rises by 1, saturating (R20). -/
def State.createRoll (s : State) (k : RollSlot) (r : Roll) : State :=
  { s with rolls := tableSet s.rolls k r, sequence := satAdd Config.max32 s.sequence 1 }

/-- The lowest free roll slot, if there is one (R18). -/
def State.freeRollSlot (s : State) : Option RollSlot :=
  let k := tableFree s.rolls 0
  if k < Config.rollSlots then some k else none

/-- The record REGISTER ROLL creates (R29): lengths by R3, DISCREPANCY by R6, DOCKED. -/
def registeredRoll (s : State) (tag : Nat) (g : GradeCode) (width core diameter weight : Nat) : Roll :=
  let e := s.working.grades[g]
  let ld := registeredLength diameter core e.caliper
  { tag := tag
    grade := g
    width := width
    core := core
    diameter := diameter
    weight := weight
    registered := ld
    remaining := ld
    overrun := 0
    sequence := s.sequence
    state := .docked
    location := .dock
    claim := none
    hold := false
    damaged := false
    discrepancy := discrepant ld (weightLength weight e.grammage width)
    partRoll := false }

/-- REGISTER ROLL (R28, R29). -/
def registerRoll (f : List Byte) (s : State) : Reply :=
  let tag := num f 0 5
  let width := num f 6 2
  let core := byteAt f 8
  let diameter := num f 9 2
  let weight := num f 11 2
  match fin? 16 (byteAt f 5) with
  | none => .refuse .badField
  | some g =>
    if figuresValid tag width core diameter weight = false ∨ s.working.grades[g].defined = false then
      .refuse .badField
    else if (findTag tag s.rolls).isSome then .refuse .duplicate
    else
      match s.freeRollSlot with
      | none => .refuse .full
      | some k =>
        if Config.dockPlaces ≤ s.dock.length then .refuse .full
        else
          let r := registeredRoll s tag g width core diameter weight
          .ok { s.createRoll k r with dock := s.dock ++ [k] }
            (beBytes 2 k ++ beBytes 4 r.sequence ++ beBytes 2 r.registered ++
              [flagByte r.discrepancy, byteOf s.dock.length])

/-- REGISTER_ROLL. -/
def execRegisterRoll (s : State) : Host.Outcome State Fault Refusal :=
  .next (s.serve .registerRoll registerRoll)

/-- The location checks of DECLARE ROLL, in their order (R31). -/
def State.declareRefusal (s : State) (st : RollState) (kind : PaperKind) : Location → Option Result
  | .dock => none
  | .lane l =>
    if s.working.lanes[l].enabled = false then some .badField
    else if s.lanes[l].binding ≠ none ∧ s.lanes[l].binding ≠ some kind then some .wrongState
    else if s.freePlaces l = 0 then some .storeFull
    else none
  | .vehicle v =>
    let x := s.vehicles[v]
    if (x.state ≠ .offline ∧ x.state ≠ .idle) ∨ x.roll.isSome then some .wrongState else none
  | .arm n a =>
    let x := s.stands[n]
    if x.state = .off ∨ (x.arm a).status ≠ .empty then some .wrongState
    else if st = .running then if x.running.isSome then some .wrongState else none
    else if x.running = some a ∨ (x.running = none ∧ (x.arm a.other).status ≠ .empty) then some .wrongState
    else none

/-- The stand state a declared running roll of remaining length `r` gives (R34). -/
def declaredStandState (r spliceMark : Nat) : StandState :=
  if r = 0 then .webOut else if spliceMark ≠ 0 ∧ r ≤ spliceMark then .spliceDue else .loaded

/-- A declared RUNNING roll makes its arm the running arm (R34). -/
def State.placeRunning (s : State) (n : StandNo) (a : Arm) (k : RollSlot) (r : Roll) : State :=
  s.modStand n fun st =>
    { st.setArm a ⟨.running, some k, none⟩ with
      state := declaredStandState r.remaining st.spliceMark
      running := some a
      fraction := 0
      callUpRaised := decide (st.callUpMark ≠ 0 ∧ r.remaining ≤ st.callUpMark) }

/-- A declared roll is placed according to its state (R32, R33, R34). -/
def State.placeDeclared (s : State) (k : RollSlot) (r : Roll) : State :=
  match r.location with
  | .dock => { s with dock := s.dock ++ [k] }
  | .lane l =>
    let t := s.modLane l fun x =>
      { x with contents := x.contents ++ [k], binding := x.binding.or (some r.kind) }
    if s.lanes[l].contents.isEmpty then t.examine.pair else t
  | .vehicle v => (s.modVehicle v fun x => { x with roll := some k }).leaveIdle v
  | .arm n a =>
    match r.state with
    | .running => s.placeRunning n a k r
    | .stub => s.modArm n a fun _ => ⟨.stub, some k, none⟩
    | _ => s.modArm n a fun _ => ⟨s.standbyStatus n r, some k, none⟩

/-- The vehicle of a location is fitted, if the location is a vehicle (R30). -/
def State.locationFitted (s : State) : Location → Bool
  | .vehicle v => decide (v.val < s.working.fleet.fitted)
  | _ => true

/-- DECLARE ROLL (R30 to R34). -/
def declareRoll (f : List Byte) (s : State) : Reply :=
  let tag := num f 0 5
  let width := num f 6 2
  let core := byteAt f 8
  let diameter := num f 9 2
  let weight := num f 11 2
  let registered := num f 13 2
  let remaining := num f 15 2
  let flags := byteAt f 20
  match fin? 16 (byteAt f 5), rollState? (byteAt f 17) with
  | some g, some st =>
    match location? st (byteAt f 18) (byteAt f 19) with
    | none => .refuse .badField
    | some place =>
      if figuresValid tag width core diameter weight = false ∨ s.working.grades[g].defined = false ∨
          registered = 0 ∨ registered < remaining ∨ 15 < flags ∨ s.locationFitted place = false then
        .refuse .badField
      else if (findTag tag s.rolls).isSome then .refuse .duplicate
      else
        match s.freeRollSlot with
        | none => .refuse .full
        | some k =>
          if st = .docked ∧ Config.dockPlaces ≤ s.dock.length then .refuse .full
          else
            match s.declareRefusal st ⟨g, width⟩ place with
            | some e => .refuse e
            | none =>
              let r : Roll :=
                { tag := tag
                  grade := g
                  width := width
                  core := core
                  diameter := diameter
                  weight := weight
                  registered := registered
                  remaining := remaining
                  overrun := 0
                  sequence := s.sequence
                  state := st
                  location := place
                  claim := none
                  hold := flags.testBit 0
                  damaged := flags.testBit 1
                  discrepancy := flags.testBit 2
                  partRoll := flags.testBit 3 || decide (st = .stub) }
              .ok ((s.createRoll k r).placeDeclared k r) (beBytes 2 k ++ beBytes 4 r.sequence)
  | _, _ => .refuse .badField

/-- DECLARE_ROLL. -/
def execDeclareRoll (s : State) : Host.Outcome State Fault Refusal :=
  .next (s.serve .declareRoll declareRoll)

/-! ## READ ROLL -/

/-- A request that names a roll: the reference resolved, or the refusal of R19. -/
def State.withRoll (s : State) (bytes : List Byte) (body : RollSlot → Roll → Reply) : Reply :=
  match rollRef? bytes with
  | none => .refuse .badField
  | some ref =>
    match s.resolve ref with
    | none => .refuse .notFound
    | some p => body p.1 p.2

/-- The place of an entry in a list. -/
def positionIn (k : Nat) (l : List Nat) : Nat := l.findIdx (· = k)

/-- Bytes 25 to 27 of the roll readout (R182). -/
def State.locationBytes (s : State) (k : RollSlot) : Location → List Byte
  | .dock => [0, noneByte, byteOf (positionIn k s.dock)]
  | .lane l => [1, byteOf l, byteOf (positionIn k s.lanes[l].contents)]
  | .vehicle v => [2, byteOf v, noneByte]
  | .arm n a => [3, byteOf n, Arm.code a]

/-- The number of the order of a slot, or 0. -/
def State.numberAt (s : State) : Option OrderSlot → Nat
  | none => 0
  | some k =>
    match s.orders[k] with
    | none => 0
    | some o => o.number

/-- The roll readout, 32 bytes (R35, R182). -/
def State.rollReadout (s : State) (k : RollSlot) (r : Roll) : List Byte :=
  beBytes 2 k ++ beBytes 5 r.tag ++ byteOf r.grade :: beBytes 2 r.width ++ byteOf r.core ::
    beBytes 2 r.diameter ++ beBytes 2 r.weight ++ beBytes 2 r.registered ++ beBytes 2 r.remaining ++
    byteOf r.overrun :: beBytes 4 r.sequence ++ r.state.code :: s.locationBytes k r.location ++
    [r.flags, optByte (r.claim.map Fin.val)] ++ beBytes 2 (s.numberAt r.claim)

/-- READ ROLL (R35). -/
def readRoll (f : List Byte) (s : State) : Reply :=
  s.withRoll f fun k r => .ok s (s.rollReadout k r)

/-- READ_ROLL. -/
def execReadRoll (s : State) : Host.Outcome State Fault Refusal := .next (s.serve .readRoll readRoll)

/-! ## AMEND ROLL -/

/-- The open FEED order of a claim that has not been picked: WAITING, ASSIGNED or LOADING (R37). -/
def State.unpickedFeed (s : State) (claim : Option OrderSlot) : Option (OrderSlot × Order) :=
  claim.bind fun k =>
    match s.orders[k] with
    | none => none
    | some o =>
      if o.kind = .feed ∧ (o.state = .waiting ∨ o.state = .assigned ∨ o.state = .loading) then some (k, o)
      else none

/-- The stand a FEED order delivers to. -/
def Order.stand (o : Order) : Option StandNo :=
  match o.dest with
  | .arm n _ => some n
  | _ => none

/-- A hold cancels an unpicked FEED order (R37): withdrawn, CANCELLED with its notice, and the stand's demand raised again. -/
def State.holdCancel (s : State) (k : OrderSlot) (o : Order) : State :=
  let s := (s.withdraw k o).markCancelled k o
  match o.stand with
  | none => s.examine
  | some n => (s.raiseDemand n).examine

/-- AMEND ROLL (R36, R37). -/
def amendRoll (f : List Byte) (s : State) : Reply :=
  match action? (byteAt f 6), action? (byteAt f 7) with
  | some holdAction, some damagedAction =>
    s.withRoll (f.take 6) fun k r =>
      let hold := holdAction.apply r.hold
      let damaged := damagedAction.apply r.damaged
      let t := s.modRoll k fun x => { x with hold := hold, damaged := damaged }
      let cancelled := if holdAction = .set then s.unpickedFeed r.claim else none
      let u := match cancelled with
        | none => t
        | some p => t.holdCancel p.1 p.2
      let cleared := (holdAction = .clear ∨ damagedAction = .clear) ∧ hold = false ∧ damaged = false
      let w := if cleared then u.examine else u
      .ok w.pair
        ({ r with hold := hold, damaged := damaged }.flags ::
          beBytes 2 (match cancelled with | none => 0 | some p => p.2.number))
  | _, _ => .refuse .badField

/-- AMEND_ROLL. -/
def execAmendRoll (s : State) : Host.Outcome State Fault Refusal := .next (s.serve .amendRoll amendRoll)

/-! ## RETIRE ROLL -/

/-- RETIRE ROLL takes an unclaimed roll that is DOCKED, a lane front, a STUB, or CARRIED on a vehicle without a current order (R38). -/
def State.retirable (s : State) (k : RollSlot) (r : Roll) : Bool :=
  r.claim.isNone &&
    match r.state, r.location with
    | .docked, _ => true
    | .stored, .lane l => decide (s.lanes[l].contents.head? = some k)
    | .stub, _ => true
    | .carried, .vehicle v => s.vehicles[v].order.isNone
    | _, _ => false

/-- A retirement by RETIRE ROLL (R25, R39): the entry released, the slot freed, and the feed demand list examined for a lane front or an arm. -/
def State.retire (s : State) (k : RollSlot) (r : Roll) : State :=
  let t := (s.leavePlace k r.location).eraseRoll k
  match r.location with
  | .lane _ | .arm _ _ => t.examine.pair
  | _ => t.pair

/-- RETIRE ROLL (R38, R39). -/
def retireRoll (f : List Byte) (s : State) : Reply :=
  s.withRoll f fun k r =>
    if s.retirable k r then .ok (s.retire k r) (beBytes 2 k ++ beBytes 5 r.tag) else .refuse .wrongState

/-- RETIRE_ROLL. -/
def execRetireRoll (s : State) : Host.Outcome State Fault Refusal := .next (s.serve .retireRoll retireRoll)

/-! ## COUNT STOCK -/

/-- The rolls COUNT STOCK counts (R15). -/
def State.stock (s : State) (kind : PaperKind) (storedOnly : Bool) : List Roll :=
  (s.rolls.map Prod.snd).filter fun r =>
    decide (r.kind = kind) && (!storedOnly || decide (r.state = .stored))

/-- COUNT STOCK (R15). -/
def countStock (f : List Byte) (s : State) : Reply :=
  let width := num f 1 2
  match fin? 16 (byteAt f 0), flag? (byteAt f 3) with
  | some g, some storedOnly =>
    if within 300 2600 width then
      let found := s.stock ⟨g, width⟩ storedOnly
      .ok s (beBytes 4 found.length ++ beBytes 4 (found.map Roll.remaining).sum)
    else .refuse .badField
  | _, _ => .refuse .badField

/-- COUNT_STOCK. -/
def execCountStock (s : State) : Host.Outcome State Fault Refusal := .next (s.serve .countStock countStock)

end Sys2Proof.Machine
end

