-- ==== Sys2Proof/Machine/Lanes.lean ====
section
/-! DEFINITION. The store map's requests: READ LANE, PUT AWAY, RELOCATE (03_storage_lanes_and_the_dock). -/

namespace Sys2Proof.Machine

/-! ## READ LANE -/

/-- One entry of a lane or dock readout, 14 bytes (R59, R181). -/
def State.entryBytes (s : State) (k : RollSlot) : List Byte :=
  match s.roll? k with
  | none => beBytes 2 k ++ List.replicate 12 0
  | some r =>
    beBytes 2 k ++ beBytes 5 r.tag ++ beBytes 4 r.sequence ++ flagBits [r.hold, r.damaged] ::
      beBytes 2 (s.numberAt r.claim)

/-- The lane readout, or the dock list (R59, R181). A disabled lane, which holds nothing, shows its depth setting as its free places, by the difference of R44: DESIGN CHOICE, assumption log 32. -/
def State.laneReadout (s : State) : Option LaneNo → List Byte
  | none => 0xFE :: List.replicate 8 0 ++ byteOf s.dock.length :: s.dock.flatMap s.entryBytes
  | some l =>
    let setting := s.working.lanes[l]
    let lane := s.lanes[l]
    let bound := match lane.binding with
      | none => [noneByte, 0, 0]
      | some kind => byteOf kind.grade :: beBytes 2 kind.width
    [byteOf l, flagByte setting.enabled, byteOf setting.aisle, byteOf setting.depth] ++ bound ++
      [byteOf lane.reservations, byteOf (s.freePlaces l), byteOf lane.contents.length] ++
      lane.contents.flatMap s.entryBytes

/-- READ LANE (R59). -/
def readLane (f : List Byte) (s : State) : Reply :=
  match selector? (byteAt f 0) with
  | none => .refuse .badField
  | some place => .ok s (s.laneReadout place)

/-- READ_LANE. -/
def execReadLane (s : State) : Host.Outcome State Fault Refusal := .next (s.serve .readLane readLane)

/-! ## Destinations -/

/-- The named lane check (R52); `source` is the source lane of a RELOCATE. -/
def State.namedLaneRefusal (s : State) (l : LaneNo) (kind : PaperKind) (source : Option LaneNo) :
    Option Result :=
  if s.working.lanes[l].enabled = false ∨ source = some l then some .badField
  else if s.lanes[l].binding ≠ none ∧ s.lanes[l].binding ≠ some kind then some .wrongState
  else if s.freePlaces l = 0 then some .storeFull
  else none

/-- The destination lane of a PUT AWAY or RELOCATE: the named lane if it passes R52, or the choice of R51. -/
def State.destinationLane (s : State) (named : Option LaneNo) (kind : PaperKind) (source : Option LaneNo) :
    Except Result LaneNo :=
  match named with
  | some l =>
    match s.namedLaneRefusal l kind source with
    | some e => .error e
    | none => .ok l
  | none =>
    match s.putAwayLane kind source with
    | none => .error .storeFull
    | some l => .ok l

/-! ## PUT AWAY -/

/-- The source of an order that takes a DOCKED roll, or a CARRIED roll from an IDLE vehicle without a current order (R55, R56). -/
def State.looseSource (s : State) (r : Roll) : Option Place :=
  match r.state, r.location with
  | .docked, _ => some .dock
  | .carried, .vehicle v =>
    if s.vehicles[v].state = .idle ∧ s.vehicles[v].order = none then some (.vehicle v) else none
  | _, _ => none

/-- PUT AWAY (R55, R56). -/
def putAway (f : List Byte) (s : State) : Reply :=
  match destination? (byteAt f 6) with
  | none => .refuse .badField
  | some named =>
    s.withRoll (f.take 6) fun k r =>
      match s.looseSource r with
      | none => .refuse .wrongState
      | some source =>
        if r.claim.isSome then .refuse .wrongState
        else
          match s.destinationLane named r.kind none with
          | .error e => .refuse e
          | .ok l =>
            match s.freeOrderSlot with
            | none => .refuse .full
            | some slot =>
              .ok (s.createOrder slot .putaway .request k r source (.lane l)).pair
                (beBytes 2 s.newNumber ++ [byteOf slot, byteOf l])

/-- PUT_AWAY. -/
def execPutAway (s : State) : Host.Outcome State Fault Refusal := .next (s.serve .putAway putAway)

/-! ## RELOCATE -/

/-- Whether an optional roll reference names something else than a roll slot: NOT_FOUND where it names no live roll, WRONG_STATE where it names another roll (R57). -/
def State.referenceRefusal (s : State) (ref : Option RollRef) (k : RollSlot) : Option Result :=
  match ref with
  | none => none
  | some x =>
    match s.resolve x with
    | none => some .notFound
    | some p => if p.1 = k then none else some .wrongState

/-- RELOCATE once its fields are read (R57, R58). -/
def State.relocateFront (s : State) (l : LaneNo) (ref : Option RollRef) (named : Option LaneNo) : Reply :=
  match s.lanes[l].contents with
  | [] => .refuse .notFound
  | k :: _ =>
    match s.referenceRefusal ref k, s.roll? k with
    | some e, _ => .refuse e
    | none, none => .refuse .notFound
    | none, some r =>
      if r.claim.isSome then .refuse .wrongState
      else
        match s.destinationLane named r.kind (some l) with
        | .error e => .refuse e
        | .ok dest =>
          match s.freeOrderSlot with
          | none => .refuse .full
          | some slot =>
            .ok (s.createOrder slot .relocate .request k r (.lane l) (.lane dest)).pair
              (beBytes 2 s.newNumber ++ byteOf slot :: beBytes 2 k ++ beBytes 5 r.tag ++ [byteOf dest])

/-- RELOCATE (R57): the fields first, then a given reference that names no live roll. -/
def relocate (f : List Byte) (s : State) : Reply :=
  match fin? 32 (byteAt f 0), optRollRef? ((f.drop 1).take 6), destination? (byteAt f 7) with
  | some l, some ref, some named =>
    if (ref.map s.resolve) = some none then .refuse .notFound else s.relocateFront l ref named
  | _, _, _ => .refuse .badField

/-- RELOCATE. -/
def execRelocate (s : State) : Host.Outcome State Fault Refusal := .next (s.serve .relocate relocate)

end Sys2Proof.Machine
end

