-- ==== Sys2Proof/Machine/Orders.lean ====
section
/-! DEFINITION. The dispatcher's requests and events: FEED, REMOVE, CANCEL ORDER, ABANDON ORDER, READ ORDER, pairing (04_transport_orders_and_feed_demand). -/

namespace Sys2Proof.Machine

/-! ## FEED -/

/-- A stand of a request, or BAD_FIELD. -/
def withStand (b : Nat) (body : StandNo → Reply) : Reply :=
  match fin? 8 b with
  | none => .refuse .badField
  | some n => body n

/-- FEED is refused with WRONG_STATE for the stand (R66 check 2). -/
def State.feedBlocked (s : State) (n : StandNo) : Bool :=
  decide (s.stands[n].state = .off) || (s.requirement n).isNone || !s.feedArmAvailable n

/-- The lane whose eligible front for a stand is a roll slot (R53, R66). -/
def State.frontLane (s : State) (n : StandNo) (k : RollSlot) : Option LaneNo :=
  (List.finRange 32).find? fun l =>
    match s.eligibleFront n l with
    | none => false
    | some p => decide (p.1 = k)

/-- The order fields of the FEED answer: number, slot, roll slot and tag, or 0, FFh, FFFFh and 0 (R181). -/
def State.feedAnswer (s : State) (slot : Option OrderSlot) : List Byte :=
  match slot.bind fun k => s.orders[k].map fun o => (k, o) with
  | none => beBytes 2 0 ++ noneByte :: [0xFF, 0xFF] ++ beBytes 5 0
  | some (k, o) => beBytes 2 o.number ++ byteOf k :: beBytes 2 o.roll ++ beBytes 5 o.rollTag

/-- FEED that names a roll (R66): a FEED order of origin REQUEST; the stand leaves the feed demand list. -/
def State.feedNamed (s : State) (n : StandNo) (ref : RollRef) : Reply :=
  match s.resolve ref with
  | none => .refuse .notFound
  | some (k, r) =>
    if s.feedBlocked n then .refuse .wrongState
    else
      match s.frontLane n k with
      | none => .refuse .wrongState
      | some l =>
        match s.freeOrderSlot with
        | none => .refuse .full
        | some slot =>
          let t := s.createOrder slot .feed .request k r (.lane l) (.arm n s.stands[n].feedArm)
          let u := { t with demand := t.demand.filter (· ≠ n) }
          .ok u.pair (u.feedAnswer (some slot))

/-- FEED that names no roll raises the stand's demand; for a stand already in the list the list is still examined (R66, R82). -/
def State.feedAny (s : State) (n : StandNo) : Reply :=
  if s.feedBlocked n then .refuse .wrongState
  else
    let t := if n ∈ s.demand then s.examine else s.raiseDemand n
    .ok t.pair (t.feedAnswer (t.openFeed n))

/-- FEED (R66). -/
def feed (f : List Byte) (s : State) : Reply :=
  withStand (byteAt f 0) fun n =>
    match optRollRef? (f.drop 1) with
    | none => .refuse .badField
    | some none => s.feedAny n
    | some (some ref) => s.feedNamed n ref

/-- FEED. -/
def execFeed (s : State) : Host.Outcome State Fault Refusal := .next (s.serve .feed feed)

/-! ## REMOVE -/

/-- The source of a REMOVE order (R62, R67): the dock, a lane front, the arm of a STUB or of a MISMATCH standby, or an IDLE vehicle without a current order. -/
def State.removeSource (s : State) (k : RollSlot) (r : Roll) : Option Place :=
  match r.state, r.location with
  | .stored, .lane l => if s.lanes[l].contents.head? = some k then some (.lane l) else none
  | .stub, .arm n a => some (.arm n a)
  | .standby, .arm n a => if (s.stands[n].arm a).status = .ready then none else some (.arm n a)
  | _, _ => s.looseSource r

/-- REMOVE (R67). -/
def remove (f : List Byte) (s : State) : Reply :=
  s.withRoll f fun k r =>
    if r.claim.isSome then .refuse .wrongState
    else
      match s.removeSource k r with
      | none => .refuse .wrongState
      | some source =>
        match s.freeOrderSlot with
        | none => .refuse .full
        | some slot =>
          .ok (s.createOrder slot .remove .request k r source .exitBay).pair
            (beBytes 2 s.newNumber ++ [byteOf slot])

/-- REMOVE. -/
def execRemove (s : State) : Host.Outcome State Fault Refusal := .next (s.serve .remove remove)

/-! ## CANCEL ORDER and ABANDON ORDER -/

/-- An order named by its number: 0 is BAD_FIELD, an unknown one NOT_FOUND (R77, R78). -/
def State.withOrder (s : State) (number : Nat) (body : OrderSlot → Order → Reply) : Reply :=
  if number = 0 then .refuse .badField
  else
    match s.orderNumbered number with
    | none => .refuse .notFound
    | some k =>
      match s.orders[k] with
      | none => .refuse .notFound
      | some o => body k o

/-- An order ends by CANCEL ORDER or ABANDON ORDER (R77, R78): withdrawn, its slot freed at once, the feed demand list examined. -/
def State.endOrder (s : State) (k : OrderSlot) (o : Order) : State :=
  (((s.withdraw k o).setOrder k none).examine).pair

/-- CANCEL ORDER (R77). -/
def cancelOrder (f : List Byte) (s : State) : Reply :=
  s.withOrder (num f 0 2) fun k o =>
    if o.state = .waiting ∨ o.state = .assigned ∨ o.state = .loading then
      .ok (s.endOrder k o) (beBytes 2 o.number ++ [byteOf k, o.state.code])
    else .refuse .wrongState

/-- CANCEL_ORDER. -/
def execCancelOrder (s : State) : Host.Outcome State Fault Refusal :=
  .next (s.serve .cancelOrder cancelOrder)

/-- ABANDON ORDER (R78). The vehicle keeps the roll, so it does not enter the idle list. -/
def abandonOrder (f : List Byte) (s : State) : Reply :=
  s.withOrder (num f 0 2) fun k o =>
    if o.state = .laden ∨ o.state = .unloading then
      .ok (s.endOrder k o) (beBytes 2 o.number ++ byteOf k :: beBytes 2 o.roll ++ beBytes 5 o.rollTag)
    else .refuse .wrongState

/-- ABANDON_ORDER. -/
def execAbandonOrder (s : State) : Host.Outcome State Fault Refusal :=
  .next (s.serve .abandonOrder abandonOrder)

/-! ## READ ORDER -/

/-- The order readout (R81, R181). -/
def orderReadout (k : OrderSlot) (o : Order) : List Byte :=
  beBytes 2 o.number ++ [byteOf k, o.kind.code, o.kind.cls.code, o.origin.code, o.state.code] ++
    beBytes 2 o.roll ++ beBytes 5 o.rollTag ++ o.source.bytes ++ o.dest.bytes ++
    [optByte (o.vehicle.map Fin.val), flagBits [o.stalled, o.late]] ++ o.deadline.bytes

/-- READ ORDER (R81). -/
def readOrder (f : List Byte) (s : State) : Reply :=
  match s.resolveOrder f with
  | .error e => .refuse e
  | .ok k =>
    match s.orders[k] with
    | none => .refuse .notFound
    | some o => .ok s (orderReadout k o)

/-- READ_ORDER. -/
def execReadOrder (s : State) : Host.Outcome State Fault Refusal := .next (s.serve .readOrder readOrder)

/-- PAIRING (R70). Every event that can bring its conditions about pairs in the same event; this is the pairing on its own. -/
def execPairing (s : State) : Host.Outcome State Fault Refusal := .next s.pair

end Sys2Proof.Machine
end

