-- ==== Sys2Proof/Machine/Fleet.lean ====
section
/-! DEFINITION. The fleet link: the receiver, the reports, the sending of instructions, READ VEHICLE and READ AISLE (05_vehicles_and_the_fleet_link, 06_aisle_tenure). -/

namespace Sys2Proof.Machine

/-! ## The receiver -/

/-- A complete frame is placed in the receive buffer unless its vehicle is not fitted, the buffer is full, or the device state is not READY (R103). -/
def State.takeFrame (s : State) (vehicle : Byte) (kind : Byte) (fields : List Byte) : State :=
  match fin? 6 vehicle.toNat with
  | none => s
  | some v =>
    if v.val < s.working.fleet.fitted ∧ s.received.length < Config.receivePlaces ∧ s.device = .ready then
      { s with received := s.received ++ [⟨v, kind, fields⟩] }
    else s

/-- Looks for complete frames in the bytes received since a start byte (R103). Bytes outside a frame other than 7Eh are ignored; a frame is complete with its check byte; one that fails its length or check sum is dropped and the search goes on from the byte after its start byte. Each round takes at least one byte off, so `fuel` of their number suffices. -/
def scanFrames : Nat → List Byte → State → State
  | 0, bytes, s => { s with lineBytes := bytes }
  | fuel + 1, bytes, s =>
    match bytes with
    | [] => { s with lineBytes := [] }
    | start :: rest =>
      if start ≠ 0x7E then scanFrames fuel rest s
      else
        match rest with
        | [] => { s with lineBytes := bytes }
        | n :: body =>
          if body.length < n.toNat + 1 then { s with lineBytes := bytes }
          else
            let frame := n :: body.take (n.toNat + 1)
            if 2 ≤ n.toNat ∧ n.toNat ≤ 13 ∧ byteSum frame = 0 then
              match body with
              | vehicle :: kind :: tail =>
                scanFrames fuel (body.drop (n.toNat + 1)) (s.takeFrame vehicle kind (tail.take (n.toNat - 2)))
              | _ => scanFrames fuel rest s
            else scanFrames fuel rest s

/-- FLEET_FRAME: bytes arrive on FL_RXD (R103). -/
def execFleetFrame (bytes : List Byte) (s : State) : Host.Outcome State Fault Refusal :=
  .next (scanFrames (s.lineBytes ++ bytes).length (s.lineBytes ++ bytes) s)

/-- INSTRUCTION_SENT: the end of the frame on the line (assumption log 14). The frame a floor reset left to be finished frees no place of the queue (R107); the head instruction's own frame frees its place, and a freed place may pair (R101, R70). -/
def execInstructionSent (s : State) : Host.Outcome State Fault Refusal :=
  .next (match s.finishing with
    | some _ => { s with finishing := none }
    | none => { s with outbound := s.outbound.tail }.pair)

/-! ## Replies -/

/-- The kind byte of a report (R184). -/
def Report.kindByte : Report → Byte
  | .online _ _ => 0x01
  | .atPlace _ => 0x02
  | .picked _ => 0x03
  | .dropped => 0x04
  | .clear => 0x05
  | .park => 0x06
  | .fault _ => 0x07
  | .offline => 0x08

/-- REFUSE and VEHICLE_REFUSED; no other record changes (R90, R91). -/
def State.refuse (s : State) (v : VehicleNo) (kind : Byte) (reason : Reason) : State :=
  (s.instruct v (.refuse kind reason)).post (.vehicleRefused v) (.reason reason)

/-- ACK (R91). -/
def State.ack (s : State) (v : VehicleNo) (kind : Byte) : State := s.instruct v (.ack kind)

/-- The head frame may be taken as a report (R105). -/
def State.canTake (s : State) : Bool := decide (Config.outboundMargin ≤ s.outboundFree)

/-- The taking of the head frame when `want` accepts it and R105 lets it be taken (the report handled whole, then pairing, R70); otherwise the frames wait. -/
def State.take {α : Type} (s : State) (want : FleetFrame → Option α) (body : α → VehicleNo → State → State) : State :=
  match s.received with
  | [] => s
  | f :: rest =>
    match want f with
    | none => s
    | some x => if s.canTake then (body x f.vehicle { s with received := rest }).pair else s

/-- UNKNOWN_REPORT: the head frame has a bad kind, length or field (R185). -/
def execUnknownReport (s : State) : Host.Outcome State Fault Refusal :=
  .next (s.take (fun f => match report? f with | none => some f.kind | some _ => none)
    fun kind v t => t.refuse v kind .badField)

/-! ## ONLINE -/

/-- The tag a vehicle's ONLINE must carry: its carried roll's, or none (R92). -/
def State.carriedTag (s : State) (v : VehicleNo) : Option Nat :=
  (s.vehicles[v].roll.bind s.roll?).map Roll.tag

/-- An IDLE vehicle that carries no roll enters the idle list. -/
def State.idleIfEmpty (s : State) (v : VehicleNo) : State :=
  if s.vehicles[v].state = .idle ∧ s.vehicles[v].roll = none then s.enterIdle v else s

/-- An accepted ONLINE that names a FREE aisle makes the vehicle its parked holder (R120). -/
def State.parkIn (s : State) (v : VehicleNo) : Option AisleNo → State
  | none => s
  | some g => s.modAisle g fun _ => ⟨some v, .parked, [], .none⟩

/-- The aisle an ONLINE names is not FREE (R92 check 2). -/
def State.aisleTaken (s : State) : Option AisleNo → Bool
  | none => false
  | some g => decide (s.aisles[g].mode ≠ .free)

/-- The ONLINE report, by the vehicle's state (R90, R92, R93). -/
def State.reportOnline (tag : Option Nat) (aisle : Option AisleNo) (v : VehicleNo) (s : State) : State :=
  let x := s.vehicles[v]
  match x.state with
  | .offline =>
    if tag ≠ s.carriedTag v then s.refuse v 0x01 .wrongRoll
    else if s.aisleTaken aisle then s.refuse v 0x01 .aisleTaken
    else (((s.modVehicle v fun x => { x with state := .idle }).parkIn v aisle).idleIfEmpty v).ack v 0x01
  | .faulted =>
    if tag ≠ s.carriedTag v then s.refuse v 0x01 .wrongRoll
    else
      let s := s.modVehicle v fun x => { x with state := x.beforeFault.getD .idle, beforeFault := none }
      ((s.ack v 0x01).instruct v (.resume (s.orderNumberOf v))).idleIfEmpty v
  | _ => s.refuse v 0x01 .notAccepted

/-- ONLINE. -/
def execOnline (s : State) : Host.Outcome State Fault Refusal :=
  .next (s.take (fun f => match report? f with | some (.online t g) => some (t, g) | _ => none)
    fun p v t => t.reportOnline p.1 p.2 v)

/-! ## AT_PLACE -/

/-- The place of the vehicle's current leg: the order's source in OUTBOUND and LOADING, its destination in LADEN and UNLOADING (R94). -/
def legPlace (st : VehicleState) (o : Order) : Option Place :=
  match st with
  | .outbound | .loading => some o.source
  | .laden | .unloading => some o.dest
  | _ => none

/-- An arm is RESERVED to the order of a slot (R73). -/
def ArmRecord.reservedTo (r : ArmRecord) (k : OrderSlot) : Bool :=
  decide (r.status = .reserved ∧ r.reservation = some k)

/-- The vehicle waits at a busy arm (R95). -/
def State.waitAtArm (s : State) (v : VehicleNo) (n : StandNo) (a : Arm) : State :=
  (s.instruct v (.waitArm n a)).modVehicle v fun x => { x with waiting := some (.armBusy n a) }

/-- An AT_PLACE at the place of the leg (R71, R73, R94): a lane asks the arbiter, a busy destination arm answers WAIT, every other place ends the drive with ACK. -/
def State.atLegPlace (s : State) (v : VehicleNo) (k : OrderSlot) : Place → State
  | .lane l =>
    let g := s.working.lanes[l].aisle
    match s.aisleHeld v with
    | none => s.arrive g v
    | some h => if h = g then s.arrive g v else s.refuse v 0x02 .tenureHeld
  | .arm n a =>
    if s.vehicles[v].state = .laden ∧ (s.stands[n].arm a).reservedTo k = false then s.waitAtArm v n a
    else (s.endDrive v).ack v 0x02
  | _ => (s.endDrive v).ack v 0x02

/-- The AT_PLACE report, by the vehicle's state (R90, R94). -/
def State.reportAtPlace (p : Place) (v : VehicleNo) (s : State) : State :=
  let x := s.vehicles[v]
  match x.state with
  | .offline | .faulted => s.refuse v 0x02 .notAccepted
  | .idle => s.refuse v 0x02 .noOrder
  | st =>
    match x.order with
    | none => s.refuse v 0x02 .noOrder
    | some k =>
      match s.orders[k] with
      | none => s.refuse v 0x02 .noOrder
      | some o => if legPlace st o = some p then s.atLegPlace v k p else s.refuse v 0x02 .wrongPlace

/-- AT_PLACE. -/
def execAtPlace (s : State) : Host.Outcome State Fault Refusal :=
  .next (s.take (fun f => match report? f with | some (.atPlace p) => some p | _ => none)
    fun p v t => t.reportAtPlace p v)

/-! ## PICKED -/

/-- The reason that refuses a pick at the order's source once the tag matches (R49, R119). -/
def State.pickRefusal (s : State) (v : VehicleNo) (k : RollSlot) : Place → Option Reason
  | .lane l =>
    if s.holdsLane v l = false then some .noTenure
    else if s.lanes[l].contents = [] then some .noOrder
    else if s.lanes[l].contents.head? ≠ some k then some .wrongRoll
    else none
  | _ => none

/-- The picked roll leaves its place (R22): the dock, the lane's front, or the arm, whose waiter is sent RESUME. -/
def State.leaveSource (s : State) (k : RollSlot) : Place → State
  | .dock => s.leaveDock k
  | .lane l => s.leaveLane l
  | .arm n a => s.vacateArm n a
  | _ => s

/-- The feed demand list is examined after a pick from a lane or an arm, not from the dock (R22). -/
def State.examineAfterPick (s : State) : Place → State
  | .lane _ | .arm _ _ => s.examine
  | _ => s

/-- An accepted pick (R22, R72): ACK, the roll CARRIED on the vehicle, the place released, order and vehicle LADEN. -/
def State.pick (s : State) (v : VehicleNo) (o : Order) : State :=
  let s := (s.ack v 0x03).modRoll o.roll fun r => { r with state := .carried, location := .vehicle v }
  let s := (s.leaveSource o.roll o.source).modVehicle v fun x => { x with roll := some o.roll }
  (s.advance v .laden .laden).examineAfterPick o.source

/-- The PICKED report, by the vehicle's state (R72, R90). -/
def State.reportPicked (tag : Nat) (v : VehicleNo) (s : State) : State :=
  let x := s.vehicles[v]
  match x.state with
  | .offline | .faulted => s.refuse v 0x03 .notAccepted
  | .loading =>
    match x.order.bind fun k => s.orders[k] with
    | none => s.refuse v 0x03 .noOrder
    | some o =>
      if (s.roll? o.roll).map Roll.tag ≠ some tag then s.refuse v 0x03 .wrongRoll
      else
        match s.pickRefusal v o.roll o.source with
        | some e => s.refuse v 0x03 e
        | none => s.pick v o
  | _ => s.refuse v 0x03 .noOrder

/-- PICKED. -/
def execPicked (s : State) : Host.Outcome State Fault Refusal :=
  .next (s.take (fun f => match report? f with | some (.picked t) => some t | _ => none)
    fun tag v t => t.reportPicked tag v)

/-! ## DROPPED -/

/-- A drop at a lane needs tenure of the lane's aisle (R74, R119). -/
def State.dropRefused (s : State) (v : VehicleNo) : Place → Bool
  | .lane l => !s.holdsLane v l
  | _ => false

/-- The dropped roll is placed (R74 step 1): at the back of the lane, consuming one reservation; on the reserved arm; or retired at the exit bay. -/
def State.placeDropped (s : State) (k : RollSlot) (r : Roll) : Place → State
  | .lane l =>
    (s.modRoll k fun x => { x with state := .stored, location := .lane l }).modLane l fun x =>
      { x with contents := x.contents ++ [k], reservations := x.reservations - 1 }
  | .arm n a => s.placeStandby n a k r
  | _ => s.eraseRoll k

/-- An accepted drop completes the order (R74): placed, claim released, DONE with ORDER_DONE, the vehicle IDLE in the idle list with ACK, and the feed demand list examined. -/
def State.complete (s : State) (v : VehicleNo) (k : OrderSlot) (o : Order) (r : Roll) : State :=
  let s := s.modVehicle v fun x => { x with roll := none }
  let s := (s.placeDropped o.roll r o.dest).unclaim o.roll
  let late := o.late || decide (o.deadline = .expired)
  let s := s.setOrder k (some { o with state := .done, vehicle := none, late := late, deadline := .none })
  let s := s.post (.orderDone k) (.orderDone o.number late)
  let s := (s.modVehicle v fun x => { x with order := none, state := .idle }).enterIdle v
  (s.ack v 0x04).examine

/-- The DROPPED report, by the vehicle's state (R74, R90). -/
def State.reportDropped (v : VehicleNo) (s : State) : State :=
  let x := s.vehicles[v]
  match x.state with
  | .offline | .faulted => s.refuse v 0x04 .notAccepted
  | .unloading =>
    match x.order with
    | none => s.refuse v 0x04 .noOrder
    | some k =>
      match s.orders[k] with
      | none => s.refuse v 0x04 .noOrder
      | some o =>
        match s.roll? o.roll with
        | none => s.refuse v 0x04 .noOrder
        | some r =>
          if s.dropRefused v o.dest then s.refuse v 0x04 .noTenure else s.complete v k o r
  | _ => s.refuse v 0x04 .noOrder

/-- DROPPED. -/
def execDropped (s : State) : Host.Outcome State Fault Refusal :=
  .next (s.take (fun f => match report? f with | some .dropped => some () | _ => none)
    fun _ v t => t.reportDropped v)

/-! ## CLEAR and PARK -/

/-- The CLEAR report, by the vehicle's state (R90, R96, R113): ACK first, then the handover. -/
def State.reportClear (v : VehicleNo) (s : State) : State :=
  match s.vehicles[v].state with
  | .offline => s.refuse v 0x05 .notAccepted
  | _ =>
    match s.aisleHeld v with
    | none => s.refuse v 0x05 .noTenure
    | some g => (s.ack v 0x05).handOver g

/-- CLEAR. -/
def execClear (s : State) : Host.Outcome State Fault Refusal :=
  .next (s.take (fun f => match report? f with | some .clear => some () | _ => none)
    fun _ v t => t.reportClear v)

/-- A PARK taken from the holder of an aisle (R114): PARKED when no vehicle waits, else CALLED_OFF with LEAVE behind the ACK. -/
def State.parkHolder (s : State) (v : VehicleNo) (g : AisleNo) : State :=
  let t := s.ack v 0x06
  if s.aisles[g].waiting.isEmpty then t.modAisle g fun a => { a with mode := .parked, counter := .none }
  else (t.modAisle g fun a => { a with mode := .calledOff }).instruct v (.leave g)

/-- The PARK report, by the vehicle's state (R90, R96, R114). -/
def State.reportPark (v : VehicleNo) (s : State) : State :=
  match s.vehicles[v].state with
  | .offline | .faulted => s.refuse v 0x06 .notAccepted
  | .idle =>
    match s.aisleHeld v with
    | none => s.refuse v 0x06 .noTenure
    | some g => s.parkHolder v g
  | _ => s.refuse v 0x06 .orderOpen

/-- PARK. -/
def execPark (s : State) : Host.Outcome State Fault Refusal :=
  .next (s.take (fun f => match report? f with | some .park => some () | _ => none)
    fun _ v t => t.reportPark v)

/-! ## FAULT and OFFLINE -/

/-- The order of a faulted vehicle is marked stalled and reported (R76, R97 step 5). -/
def State.stallOrderOf (s : State) (v : VehicleNo) : State :=
  match s.vehicles[v].order with
  | none => s
  | some k =>
    match s.orders[k] with
    | none => s
    | some o => (s.setOrder k (some { o with stalled := true })).post (.orderStalled k) (.order o.number)

/-- The FAULT report, by the vehicle's state (R90, R97). -/
def State.reportFault (code : Nat) (v : VehicleNo) (s : State) : State :=
  match s.vehicles[v].state with
  | .offline => s.refuse v 0x07 .notAccepted
  | .faulted =>
    ((s.modVehicle v fun x => { x with faultCode := code }).post (.vehicleFault v) (.faultCode code)).ack v 0x07
  | before =>
    let s := s.modVehicle v fun x => { x with state := .faulted, beforeFault := some before, faultCode := code }
    let s := ((s.leaveIdle v).endWait v).post (.vehicleFault v) (.faultCode code)
    (s.stallOrderOf v).ack v 0x07

/-- FAULT. -/
def execFault (s : State) : Host.Outcome State Fault Refusal :=
  .next (s.take (fun f => match report? f with | some (.fault c) => some c | _ => none)
    fun code v t => t.reportFault code v)

/-- A taken OFFLINE (R98, R113): OFFLINE, out of the idle list, ACK, and the tenure released as by CLEAR. -/
def State.goOffline (s : State) (v : VehicleNo) : State :=
  let s := s.modVehicle v fun x => { x with state := .offline, beforeFault := none, faultCode := 0 }
  ((s.leaveIdle v).ack v 0x08).releaseTenure v

/-- The OFFLINE report, by the vehicle's state (R90, R98). -/
def State.reportOffline (v : VehicleNo) (s : State) : State :=
  match s.vehicles[v].state with
  | .offline => s.refuse v 0x08 .notAccepted
  | .idle => s.goOffline v
  | .faulted => if s.vehicles[v].order.isSome then s.refuse v 0x08 .orderOpen else s.goOffline v
  | _ => s.refuse v 0x08 .orderOpen

/-- OFFLINE. -/
def execOffline (s : State) : Host.Outcome State Fault Refusal :=
  .next (s.take (fun f => match report? f with | some .offline => some () | _ => none)
    fun _ v t => t.reportOffline v)

/-! ## READ VEHICLE and READ AISLE -/

/-- The waiting reason and place in three bytes (R181, READ VEHICLE). -/
def waitBytes : Option Wait → List Byte
  | none => [0, noneByte, noneByte]
  | some (.tenure g) => [1, byteOf g, 0]
  | some (.armBusy n a) => [2, byteOf n, Arm.code a]

/-- The vehicle readout (R106, R181). The idle list position counts from 0 at the head: DESIGN CHOICE, assumption log 30. -/
def State.vehicleReadout (s : State) (v : VehicleNo) : List Byte :=
  let x := s.vehicles[v]
  let position := if v ∈ s.idle then some (s.idle.findIdx (· = v)) else none
  [byteOf v, flagByte (decide (v.val < s.working.fleet.fitted)), x.state.code,
      match x.beforeFault with | none => noneByte | some st => st.code,
      optByte (x.order.map Fin.val)] ++
    beBytes 2 (s.numberAt x.order) ++ optSlot x.roll ++ beBytes 5 ((s.carriedTag v).getD 0) ++
    waitBytes x.waiting ++ [optByte ((s.aisleHeld v).map Fin.val), optByte position, byteOf x.faultCode]

/-- READ VEHICLE (R106). -/
def readVehicle (f : List Byte) (s : State) : Reply :=
  match fin? 6 (byteAt f 0) with
  | none => .refuse .badField
  | some v => .ok s (s.vehicleReadout v)

/-- READ_VEHICLE. -/
def execReadVehicle (s : State) : Host.Outcome State Fault Refusal :=
  .next (s.serve .readVehicle readVehicle)

/-- A 32-bit field with bit n set for each lane of a list (R181, READ AISLE). -/
def laneBits (lanes : List LaneNo) : List Byte := beBytes 4 (lanes.map fun l => 2 ^ l.val).sum

/-- The aisle readout (R121, R181). -/
def State.aisleReadout (s : State) (g : AisleNo) : List Byte :=
  let a := s.aisles[g]
  let lanes := (List.finRange 32).filter fun l => decide (s.working.lanes[l].aisle = g)
  [byteOf g, a.mode.code, optByte (a.holder.map Fin.val),
      match a.holder with | none => noneByte | some v => s.vehicles[v].state.code] ++
    a.counter.bytes ++ laneBits lanes ++ laneBits (lanes.filter fun l => s.working.lanes[l].enabled) ++
    byteOf a.waiting.length ::
      a.waiting.flatMap fun v : VehicleNo => [byteOf v, (s.classOf v).code] ++ beBytes 2 (s.orderNumberOf v)

/-- READ AISLE (R121). -/
def readAisle (f : List Byte) (s : State) : Reply :=
  match fin? 8 (byteAt f 0) with
  | none => .refuse .badField
  | some g => .ok s (s.aisleReadout g)

/-- READ_AISLE. -/
def execReadAisle (s : State) : Host.Outcome State Fault Refusal := .next (s.serve .readAisle readAisle)

end Sys2Proof.Machine
end

