-- ==== Sys2Proof/Machine/Jobs.lean ====
section
/-! DEFINITION. The job counter's requests and edges (08_jobs_and_spoilage_counts); the copy event stands in Machine/Stands.lean. -/

namespace Sys2Proof.Machine

/-! ## STAGE JOB -/

/-- The web plan of a job: for each stand, what is required of it, or none (R147). -/
abbrev WebPlan := Vector (Option PaperKind) 8

/-- A web-plan entry (R181): a stand, a defined grade and a width in its range (R149). -/
def State.planEntry? (s : State) (bytes : List Byte) : Option (StandNo × PaperKind) :=
  match fin? 8 (byteAt bytes 0), fin? 16 (byteAt bytes 1) with
  | some n, some g =>
    if within 300 2600 (num bytes 2 2) ∧ s.working.grades[g].defined then some (n, ⟨g, num bytes 2 2⟩) else none
  | _, _ => none

/-- So many web-plan entries, of which no two name the same stand (R149). -/
def State.planEntries? (s : State) : Nat → List Byte → WebPlan → Option WebPlan
  | 0, _, plan => some plan
  | count + 1, bytes, plan =>
    match s.planEntry? (bytes.take 4) with
    | none => none
    | some (n, kind) =>
      if plan[n].isSome then none else s.planEntries? count (bytes.drop 4) (plan.set n (some kind))

/-- The job slot a STAGE JOB takes: the STAGED one, else the lowest FREE one (R150). -/
def State.freeJobSlot (s : State) : Option JobSlot :=
  (List.finRange 4).find? fun j => decide (s.jobs[j].state = .free)

/-- A job number is carried by an ACTIVE or CLOSED slot (R149). -/
def State.jobNumberUsed (s : State) (number : Nat) : Bool :=
  (List.finRange 4).any fun j =>
    decide ((s.jobs[j].state = .active ∨ s.jobs[j].state = .closed) ∧ s.jobs[j].number = number)

/-- A web plan names a stand that is OFF (R149). -/
def State.planNamesOff (s : State) (plan : WebPlan) : Bool :=
  (List.finRange 8).any fun n => plan[n].isSome && decide (s.stands[n].state = .off)

/-- The job a STAGE JOB puts into a slot: its number, cutoff, budget and plan over the counts and flags of `j` (R150). -/
def Job.staged (j : Job) (number cutoff budget : Nat) (plan : WebPlan) : Job :=
  { j with state := .staged, number := number, cutoff := cutoff, budget := budget, plan := plan }

/-- STAGE JOB once its fields are read (R149 checks 2 to 4, R150). -/
def State.stage (s : State) (number cutoff budget : Nat) (plan : WebPlan) : Reply :=
  if s.planNamesOff plan then .refuse .wrongState
  else if s.jobNumberUsed number then .refuse .duplicate
  else
    match s.stagedSlot, s.freeJobSlot with
    | some j, _ => .ok (s.modJob j fun x => x.staged number cutoff budget plan) [byteOf j, 1]
    | none, some j => .ok (s.modJob j fun _ => Job.freed.staged number cutoff budget plan) [byteOf j, 0]
    | none, none => .refuse .full

/-- STAGE JOB (R149, R150). -/
def stageJob (f : List Byte) (s : State) : Reply :=
  let number := num f 0 2
  let cutoff := num f 2 2
  let count := byteAt f 8
  if number = 0 ∨ within 300 999 cutoff = false ∨ 8 < count then .refuse .badField
  else
    match s.planEntries? count (f.drop 9) (Vector.replicate 8 none) with
    | none => .refuse .badField
    | some plan => s.stage number cutoff (num f 4 4) plan

/-- STAGE_JOB. -/
def execStageJob (s : State) : Host.Outcome State Fault Refusal := .next (s.serve .stageJob stageJob)

/-! ## The changeover -/

/-- CHANGEOVER (R151 to R153). -/
def changeover (_fields : List Byte) (s : State) : Reply :=
  match s.stagedSlot with
  | none => .refuse .noStaged
  | some staged =>
    let p := s.changeover staged
    .ok p.1 (byteOf staged :: beBytes 2 s.jobs[staged].number ++
      [optByte (p.2.closed.map Fin.val), byteOf p.2.cancelled])

/-- CHANGEOVER. -/
def execChangeover (s : State) : Host.Outcome State Fault Refusal :=
  .next (s.serve .changeover changeover)

/-- The job number of the ACTIVE job, or 0 (R151). -/
def State.activeNumber (s : State) : Nat :=
  match s.activeSlot with
  | none => 0
  | some j => s.jobs[j].number

/-- A pulse on CHANGEOVER in READY (R151): the changeover, or CHANGEOVER_MISSED. -/
def State.pulseChangeover (s : State) : State :=
  match s.stagedSlot with
  | none => s.post .changeoverMissed (.job s.activeNumber)
  | some staged => (s.changeover staged).1

/-- CHANGEOVER_PULSE (R151): ignored outside READY. -/
def execChangeoverPulse (s : State) : Host.Outcome State Fault Refusal :=
  .next (if s.device = .ready then s.pulseChangeover else s)

/-! ## The saleable level -/

/-- The phase follows an edge of SALEABLE; leaving SALEABLE counts a restart (R156). -/
def Job.edge (rising : Bool) (j : Job) : Job :=
  match j.phase, rising with
  | .startup, true => { j with phase := .saleable }
  | .saleable, false => { j with phase := .startup, restarts := satAdd Config.max16 j.restarts 1 }
  | _, _ => j

/-- SALEABLE_EDGE (R156): the level is the pin's in every device state, and the ACTIVE job's phase follows it in READY. -/
def execSaleableEdge (rising : Bool) (s : State) : Host.Outcome State Fault Refusal :=
  let t := { s with saleable := rising }
  .next (if t.device = .ready then t.charge (Job.edge rising) else t)

/-! ## SET BUDGET -/

/-- A job slot of a request, or BAD_FIELD. -/
def withJob (b : Nat) (body : JobSlot → Reply) : Reply :=
  match fin? 4 b with
  | none => .refuse .badField
  | some j => body j

/-- The answer fields of SET BUDGET (R160, R181). -/
def Job.budgetAnswer (j : Job) : List Byte :=
  j.state.code :: beBytes 4 j.budget ++ beBytes 4 j.reject ++ [flagByte j.budgetReached]

/-- A new budget of the ACTIVE job (R160): a budget of 0 or above the rejects clears the flag, and the budget check follows (R158). -/
def State.newBudget (s : State) (j : JobSlot) (budget : Nat) : State :=
  (s.modJob j fun x =>
    { x with budget := budget
             budgetReached := x.budgetReached && decide (budget ≠ 0 ∧ budget ≤ x.reject) }).budgetCheck j

/-- SET BUDGET (R160). -/
def setBudget (f : List Byte) (s : State) : Reply :=
  withJob (byteAt f 0) fun j =>
    let budget := num f 1 4
    match s.jobs[j].state with
    | .staged =>
      let t := s.modJob j fun x => { x with budget := budget }
      .ok t t.jobs[j].budgetAnswer
    | .active =>
      let t := s.newBudget j budget
      .ok t t.jobs[j].budgetAnswer
    | .free | .closed => .refuse .wrongState

/-- SET_BUDGET. -/
def execSetBudget (s : State) : Host.Outcome State Fault Refusal := .next (s.serve .setBudget setBudget)

/-! ## READ JOB and RETIRE JOB -/

/-- The web-plan entries of a readout, one for each member stand (R161, R181). They stand in stand-number order: DESIGN CHOICE, assumption log 31. -/
def planBytes (plan : WebPlan) : List Byte :=
  (List.finRange 8).flatMap fun n =>
    match plan[n] with
    | none => []
    | some kind => byteOf n.val :: byteOf kind.grade :: beBytes 2 kind.width

/-- The job readout (R161, R181): a FREE slot's state alone; the waste fraction and k for the ACTIVE slot, 0 for another. -/
def State.jobReadout (s : State) (j : JobSlot) : List Byte :=
  let job := s.jobs[j]
  if job.state = .free then [byteOf j, job.state.code]
  else
    let phase := if job.state = .staged then noneByte else job.phase.code
    let live := decide (job.state = .active)
    [byteOf j, job.state.code] ++ beBytes 2 job.number ++ beBytes 2 job.cutoff ++ beBytes 4 job.budget ++
      phase :: beBytes 4 job.gross ++ beBytes 4 job.good ++ beBytes 4 job.reject ++
      beBytes 4 job.startupReject ++ beBytes 2 job.restarts ++ beBytes 4 job.paper ++
      beBytes 4 job.runWaste ++ beBytes 4 job.spliceWaste ++ beBytes 4 job.stubWaste ++
      beBytes 4 job.stripWaste ++ beBytes 2 job.rollsSpliced ++
      flagBits [job.budgetReached, job.countFull] :: beBytes 2 (if live then s.wasteFraction else 0) ++
      [byteOf (if live then s.wasteStands else 0), byteOf ((planBytes job.plan).length / 4)] ++
      planBytes job.plan

/-- READ JOB (R161). -/
def readJob (f : List Byte) (s : State) : Reply :=
  withJob (byteAt f 0) fun j => .ok s (s.jobReadout j)

/-- READ_JOB. -/
def execReadJob (s : State) : Host.Outcome State Fault Refusal := .next (s.serve .readJob readJob)

/-- The notice list holds a JOB_CLOSED entry for a slot (R162). -/
def State.closeUnfetched (s : State) (j : JobSlot) : Bool :=
  s.notices.any fun e => decide (e.key = .jobClosed j)

/-- RETIRE JOB (R162). -/
def retireJob (f : List Byte) (s : State) : Reply :=
  withJob (byteAt f 0) fun j =>
    let job := s.jobs[j]
    if job.state = .closed ∧ s.closeUnfetched j = false then
      .ok (s.modJob j fun _ => Job.freed)
        (beBytes 2 job.number ++ beBytes 4 job.gross ++ beBytes 4 job.good ++ beBytes 4 job.reject)
    else .refuse .wrongState

/-- RETIRE_JOB. -/
def execRetireJob (s : State) : Host.Outcome State Fault Refusal := .next (s.serve .retireJob retireJob)

end Sys2Proof.Machine
end

