-- ==== Sys2Proof/Machine/Stands.lean ====
section
/-! DEFINITION. The stand tracker's requests and pulses (07_reelstands_and_run_out_tracking), and the copy event, which the job counter and the stands take together (R7, R155). -/

namespace Sys2Proof.Machine

/-! ## READ STAND -/

/-- The millimetres one input of a stand's length source brings, if it brings any: no copy input counts while no job is ACTIVE (R7, R11). -/
def State.inputIncrement (s : State) (n : StandNo) : Option Nat :=
  match s.working.stands[n].source with
  | .roller => some s.working.stands[n].rollerIncrement
  | .copy => s.activeSlot.map fun j => s.jobs[j].cutoff

/-- The copies to splice of the stand readout (R11). -/
def State.copiesLeft (s : State) (n : StandNo) : Nat :=
  match s.runningRoll n, s.inputIncrement n with
  | some r, some increment =>
    copiesToSplice r.remaining s.stands[n].spliceMark s.stands[n].fraction increment
  | _, _ => 0

/-- The 17 bytes of one arm in the stand readout (R181). -/
def State.armBytes (s : State) (a : ArmRecord) : List Byte :=
  let roll := a.roll.bind s.roll?
  let paper := match roll with
    | none => beBytes 5 0 ++ noneByte :: beBytes 2 0 ++ beBytes 2 0
    | some r => beBytes 5 r.tag ++ byteOf r.grade :: beBytes 2 r.width ++ beBytes 2 r.remaining
  a.status.code :: optSlot a.roll ++ paper ++ beBytes 2 (s.numberAt a.reservation) ++
    beBytes 2 (s.numberAt (roll.bind Roll.claim))

/-- The stand readout, 66 bytes (R144, R181). -/
def State.standReadout (s : State) (n : StandNo) : List Byte :=
  let st := s.stands[n]
  let setting := s.working.stands[n]
  let overrun := match s.runningRoll n with | none => 0 | some r => r.overrun
  [byteOf n, st.state.code, optArm st.running, flagByte (s.spliceCommand n)] ++
    s.armBytes st.armA ++ s.armBytes st.armB ++
    [Arm.code st.feedArm, flagByte (decide (n ∈ s.demand))] ++ beBytes 2 (s.numberAt (s.openFeed n)) ++
    setting.source.code :: beBytes 2 setting.rollerIncrement ++
    beBytes 2 st.callUpMark ++ beBytes 2 st.spliceMark ++
    beBytes 2 setting.callUpMark ++ beBytes 2 setting.spliceMark ++
    [byteOf setting.spliceWindow, byteOf setting.spliceWaste] ++ beBytes 2 setting.stubThreshold ++
    [flagBits [st.callUpRaised, st.trackingHold], byteOf st.window] ++ beBytes 2 st.fraction ++
    byteOf overrun :: beBytes 4 (s.copiesLeft n)

/-- READ STAND (R144). -/
def readStand (f : List Byte) (s : State) : Reply :=
  withStand (byteAt f 0) fun n => .ok s (s.standReadout n)

/-- READ_STAND. -/
def execReadStand (s : State) : Host.Outcome State Fault Refusal := .next (s.serve .readStand readStand)

/-! ## HOLD TRACKING and RELEASE TRACKING -/

/-- The tracking hold flag of a stand that is not OFF takes a value; the answer shows it (R127). -/
def State.setHold (s : State) (b : Nat) (hold : Bool) : Reply :=
  withStand b fun n =>
    if s.stands[n].state = .off then .refuse .wrongState
    else .ok (s.modStand n fun st => { st with trackingHold := hold }) [flagByte hold]

/-- HOLD TRACKING (R127). -/
def holdTracking (f : List Byte) (s : State) : Reply := s.setHold (byteAt f 0) true

/-- HOLD_TRACKING. -/
def execHoldTracking (s : State) : Host.Outcome State Fault Refusal :=
  .next (s.serve .holdTracking holdTracking)

/-- RELEASE TRACKING (R127). -/
def releaseTracking (f : List Byte) (s : State) : Reply := s.setHold (byteAt f 0) false

/-- RELEASE_TRACKING. -/
def execReleaseTracking (s : State) : Host.Outcome State Fault Refusal :=
  .next (s.serve .releaseTracking releaseTracking)

/-! ## SPLICE NOW -/

/-- The states in which SPLICE NOW is taken (R134). -/
def StandState.spliceable : StandState → Bool
  | .loaded | .spliceDue | .spliceHeld => true
  | .off | .empty | .splicing | .webOut => false

/-- SPLICE NOW (R134). -/
def spliceNow (f : List Byte) (s : State) : Reply :=
  withStand (byteAt f 0) fun n =>
    if s.stands[n].state.spliceable ∧ s.stands[n].standbyReady then
      .ok (s.enterSplicing n) [byteOf s.working.stands[n].spliceWindow]
    else .refuse .wrongState

/-- SPLICE_NOW. -/
def execSpliceNow (s : State) : Host.Outcome State Fault Refusal := .next (s.serve .spliceNow spliceNow)

/-! ## THREAD -/

/-- The arm THREAD promotes at a stand in EMPTY: the named arm when it is READY, else, without a name, the READY arm, arm A first (R138). -/
def Stand.threadArm (st : Stand) (named : Option Arm) : Option Arm :=
  match named with
  | some a => if (st.arm a).status = .ready then some a else none
  | none =>
    if st.armA.status = .ready then some .A else if st.armB.status = .ready then some .B else none

/-- The answer fields of THREAD: the arm threaded or none, and the tag of the retired roll or 0 (R138). -/
def threadAnswer (a : Option Arm) (tag : Nat) : List Byte := optArm a :: beBytes 5 tag

/-- THREAD at a stand in EMPTY (R138): promotion, LOADED, the mark checks. -/
def State.threadEmpty (s : State) (n : StandNo) (named : Option Arm) : Reply :=
  match s.stands[n].threadArm named with
  | none => .refuse .wrongState
  | some a =>
    match (s.stands[n].arm a).roll with
    | none => .refuse .wrongState
    | some k =>
      let t := ((s.promote n a k).setStandState n .loaded).markChecks n
      .ok t.pair (threadAnswer (some a) 0)

/-- THREAD out of WEB_OUT with a READY standby `k` on arm `a.other` (R138): the old roll on arm `a` is retired, the standby promoted, LOADED, the mark checks, the feed demand list examined. A demand that the mark checks raise has been examined at the raise too (DESIGN CHOICE, assumption log 5). -/
def State.threadStandby (s : State) (n : StandNo) (a : Arm) (oldSlot : RollSlot) (old : Roll) (k : RollSlot) :
    State :=
  let s := (s.promote n a.other k).retireOld n a oldSlot old
  ((s.setStandState n .loaded).markChecks n).examine

/-- THREAD out of WEB_OUT without a READY standby (R138): the old roll on arm `a` is retired and the stand is EMPTY. -/
def State.threadOff (s : State) (n : StandNo) (a : Arm) (oldSlot : RollSlot) (old : Roll) : State :=
  ((s.retireOld n a oldSlot old).modStand n fun st =>
    { st with state := .empty, running := none, callUpRaised := false, fraction := 0 }).examine

/-- The running arm of a stand, with its roll. -/
structure Running where
  arm : Arm
  slot : RollSlot
  roll : Roll

/-- The running arm of a stand, with its roll. -/
def State.runningArm (s : State) (n : StandNo) : Option Running :=
  match s.stands[n].running, s.runningSlot n, s.runningRoll n with
  | some a, some k, some r => some ⟨a, k, r⟩
  | _, _, _ => none

/-- The READY standby of a stand. -/
def State.readyStandby (s : State) (n : StandNo) : Option (RollSlot × Roll) :=
  if s.stands[n].standbyReady then
    s.stands[n].standbyArm.bind fun a =>
      (s.stands[n].arm a).roll.bind fun k => (s.roll? k).map fun r => (k, r)
  else none

/-- THREAD at a stand in WEB_OUT (R138). -/
def State.threadWebOut (s : State) (n : StandNo) (named : Option Arm) : Reply :=
  match s.runningArm n with
  | none => .refuse .wrongState
  | some old =>
    match s.readyStandby n, named with
    | some (k, _), named =>
      if named = none ∨ named = some old.arm.other then
        .ok (s.threadStandby n old.arm old.slot old.roll k).pair
          (threadAnswer (some old.arm.other) old.roll.tag)
      else .refuse .wrongState
    | none, none => .ok (s.threadOff n old.arm old.slot old.roll).pair (threadAnswer none old.roll.tag)
    | none, some _ => .refuse .wrongState

/-- THREAD (R138). A field out of its range is BAD_FIELD in every state of the stand: assumption log 8. -/
def thread (f : List Byte) (s : State) : Reply :=
  withStand (byteAt f 0) fun n =>
    match optArm? (byteAt f 1) with
    | none => .refuse .badField
    | some named =>
      match s.stands[n].state with
      | .empty => s.threadEmpty n named
      | .webOut => s.threadWebOut n named
      | _ => .refuse .wrongState

/-- THREAD. -/
def execThread (s : State) : Host.Outcome State Fault Refusal := .next (s.serve .thread thread)

/-! ## STRIP and SET MARKS -/

/-- A taken STRIP (R142): the deduction, its charge, and the mark checks when the arm is the running arm. -/
def State.strip (s : State) (n : StandNo) (a : Arm) (k : RollSlot) (r : Roll) (m : Nat) : State :=
  let t := (s.deduct k m).charge (Job.chargeStrip (min m r.remaining))
  if s.stands[n].running = some a then (t.markChecks n).pair else t

/-- STRIP (R142). A field out of its range is BAD_FIELD at a stand in OFF too: assumption log 8. -/
def strip (f : List Byte) (s : State) : Reply :=
  let m := num f 2 2
  withStand (byteAt f 0) fun n =>
    match arm? (byteAt f 1) with
    | none => .refuse .badField
    | some a =>
      if m = 0 then .refuse .badField
      else if s.stands[n].state = .off then .refuse .wrongState
      else
        match (s.stands[n].arm a).roll with
        | none => .refuse .wrongState
        | some k =>
          match s.roll? k with
          | none => .refuse .wrongState
          | some r =>
            .ok (s.strip n a k r m) (beBytes 2 (min m r.remaining) ++ beBytes 2 (r.remaining - min m r.remaining))

/-- STRIP. -/
def execStrip (s : State) : Host.Outcome State Fault Refusal := .next (s.serve .strip strip)

/-- A call-up mark and a splice mark agree: both non-zero, the splice mark is at or below the call-up mark (R143, R187). -/
def marksAgree (callUp splice : Nat) : Bool := decide (callUp ≠ 0 ∧ splice ≠ 0 → splice ≤ callUp)

/-- SET MARKS (R143). Marks that disagree are BAD_FIELD at a stand in OFF too: assumption log 8. -/
def setMarks (f : List Byte) (s : State) : Reply :=
  let callUp := num f 1 2
  let splice := num f 3 2
  withStand (byteAt f 0) fun n =>
    if marksAgree callUp splice = false then .refuse .badField
    else if s.stands[n].state = .off then .refuse .wrongState
    else
      let t := (s.modStand n fun st => { st with callUpMark := callUp, spliceMark := splice }).markChecks n
      .ok t.pair [t.stands[n].state.code, flagByte t.stands[n].callUpRaised]

/-- SET_MARKS. -/
def execSetMarks (s : State) : Host.Outcome State Fault Refusal := .next (s.serve .setMarks setMarks)

/-! ## Pulses -/

/-- COPY_EVENT (R7, R155): taken in READY; the job counter first, then the COPY-source stands (assumption log 5). -/
def execCopyEvent (reject : Bool) (s : State) : Host.Outcome State Fault Refusal :=
  .next (if s.device = .ready then ((s.countCopy reject).copyStands).pair else s)

/-- ROLLER_PULSE (R7, R125): taken in READY by a ROLLER-source stand. -/
def execRollerPulse (n : StandNo) (s : State) : Host.Outcome State Fault Refusal :=
  .next (if s.device = .ready ∧ s.working.stands[n].source = .roller then
      (s.lengthInput n s.working.stands[n].rollerIncrement).pair
    else s)

/-- Metre steps of a stand while it is in SPLICING, at most `fuel` of them. -/
def splicingSteps (n : StandNo) : Nat → State → State
  | 0, s => s
  | fuel + 1, s => if s.stands[n].state = .splicing then splicingSteps n fuel (s.metreStep n) else s

/-- SPLICE_WINDOW_EXPIRY (R133): the metre steps of a stand in SPLICING up to the one that brings its window counter to 0 (assumption log 6); a held stand takes none (R127), and a roll that reaches 0 first ends in WEB_OUT instead. -/
def execSpliceWindowExpiry (n : StandNo) (s : State) : Host.Outcome State Fault Refusal :=
  .next (if s.device = .ready ∧ s.stands[n].trackingHold = false then
      (splicingSteps n (max 1 s.stands[n].window) s).pair
    else s)

/-- A splice done that is not accepted (R137). -/
def State.spliceUnexpected (s : State) (n : StandNo) : State :=
  s.post (.spliceUnexpected n) (.standState s.stands[n].state)

/-- A splice done is accepted in SPLICING and in WEB_OUT with a READY standby; throughout SPLICING the standby is READY (R132, R135). -/
def State.takeSplice (s : State) (n : StandNo) : State :=
  if s.stands[n].state = .splicing ∨ s.stands[n].state = .webOut then
    match s.runningArm n, s.readyStandby n with
    | some old, some (k, r) => (s.spliceDone n old.arm old.slot k old.roll r).pair
    | _, _ => s.spliceUnexpected n
  else s.spliceUnexpected n

/-- SPLICED_PULSE (R135, R137): taken in READY. -/
def execSplicedPulse (n : StandNo) (s : State) : Host.Outcome State Fault Refusal :=
  .next (if s.device = .ready then s.takeSplice n else s)

end Sys2Proof.Machine
end

