-- ==== Sys2Proof/Machine/Settings.lean ====
section
/-! DEFINITION. The settings unit (10_settings_memory_and_start_up): validity, the settings image, the load, the SET requests, COMMIT, RELOAD and STORE SETTINGS. -/

namespace Sys2Proof.Machine

/-! ## Validity -/

/-- The grade fields lie in their ranges; those of an undefined grade are not looked at (R186). -/
def GradeEntry.inRange (g : GradeEntry) : Bool :=
  !g.defined || (within 20 400 g.grammage && within 40 400 g.caliper)

/-- The lane fields lie in their ranges (R186). -/
def LaneSetting.inRange (l : LaneSetting) : Bool := within 0 20 l.depth

/-- The stand fields lie in their ranges (R186). -/
def StandSetting.inRange (n : StandSetting) : Bool :=
  within 1 999 n.rollerIncrement && within 0 Config.max16 n.callUpMark && within 0 Config.max16 n.spliceMark &&
    within 1 255 n.spliceWindow && within 0 255 n.spliceWaste && within 0 5000 n.stubThreshold

/-- The fleet fields lie in their ranges (R186). -/
def FleetSetting.inRange (f : FleetSetting) : Bool :=
  within 1 6 f.fitted && (decide (f.orderLimit = 0) || within 30 3600 f.orderLimit) &&
    (decide (f.tenureLimit = 0) || within 10 600 f.tenureLimit) && within 1 Config.max32 f.increment

/-- An enabled lane has a depth of 1 or more (R187). -/
def LaneSetting.deepEnough (l : LaneSetting) : Bool := !l.enabled || decide (1 ≤ l.depth)

/-- A set of settings is valid (R187). -/
def Settings.valid (t : Settings) : Bool :=
  t.grades.toList.all GradeEntry.inRange &&
    t.lanes.toList.all (fun l => l.inRange && l.deepEnough) &&
    t.stands.toList.all (fun n => n.inRange && marksAgree n.callUpMark n.spliceMark) &&
    t.fleet.inRange

/-! ## The settings image -/

/-- The signature and the length bytes of the image (R189). -/
def imageHead : List Byte := [0xA7, 0x5C, 0x01, 0x19]

/-- A grade entry of the image, 5 bytes (R189). -/
def GradeEntry.bytes (g : GradeEntry) : List Byte :=
  flagByte g.defined :: beBytes 2 g.grammage ++ beBytes 2 g.caliper

/-- A lane entry of the image, 3 bytes (R189). -/
def LaneSetting.bytes (l : LaneSetting) : List Byte :=
  [flagByte l.enabled, byteOf l.aisle.val, byteOf l.depth]

/-- A stand entry of the image, 12 bytes (R189). -/
def StandSetting.bytes (n : StandSetting) : List Byte :=
  flagByte n.enabled :: n.source.code :: beBytes 2 n.rollerIncrement ++ beBytes 2 n.callUpMark ++
    beBytes 2 n.spliceMark ++ byteOf n.spliceWindow :: byteOf n.spliceWaste :: beBytes 2 n.stubThreshold

/-- The fleet entry of the image, 9 bytes (R189). -/
def FleetSetting.bytes (f : FleetSetting) : List Byte :=
  byteOf f.fitted :: beBytes 2 f.orderLimit ++ beBytes 2 f.tenureLimit ++ beBytes 4 f.increment

/-- The settings image, 285 bytes (R189), which a load reads and a store writes in the order of `Settings.storeWrites` (R193). -/
def Settings.image (t : Settings) : List Byte :=
  imageHead ++ t.grades.toList.flatMap GradeEntry.bytes ++ t.lanes.toList.flatMap LaneSetting.bytes ++
    t.stands.toList.flatMap StandSetting.bytes ++ t.fleet.bytes

/-- A grade entry read: the fields of an undefined grade are held as 0 (R186, R190). -/
def gradeEntry? (b : List Byte) : Option GradeEntry :=
  (flag? (byteAt b 0)).map fun defined =>
    if defined then ⟨true, num b 1 2, num b 3 2⟩ else ⟨false, 0, 0⟩

/-- A lane entry read (R189, R190). -/
def laneEntry? (b : List Byte) : Option LaneSetting :=
  match flag? (byteAt b 0), fin? 8 (byteAt b 1) with
  | some enabled, some g => some ⟨enabled, g, byteAt b 2⟩
  | _, _ => none

/-- A stand entry read (R189, R190). -/
def standEntry? (b : List Byte) : Option StandSetting :=
  match flag? (byteAt b 0), source? (byteAt b 1) with
  | some enabled, some source =>
    some ⟨enabled, source, num b 2 2, num b 4 2, num b 6 2, byteAt b 8, byteAt b 9, num b 10 2⟩
  | _, _ => none

/-- The fleet entry read (R189, R190). -/
def fleetEntry (b : List Byte) : FleetSetting := ⟨byteAt b 0, num b 1 2, num b 3 2, num b 5 4⟩

/-- `n` entries of `size` bytes read in order. -/
def entries? {α : Type} (size : Nat) (read : List Byte → Option α) : Nat → List Byte → Option (List α)
  | 0, _ => some []
  | n + 1, b =>
    match read (b.take size), entries? size read n (b.drop size) with
    | some x, some xs => some (x :: xs)
    | _, _ => none

/-- A list of the right length as a table. -/
def vector? {α : Type} (n : Nat) (l : List α) : Option (Vector α n) :=
  if h : l.length = n then some ⟨l.toArray, by simpa using h⟩ else none

/-- A table of `n` entries of `size` bytes. -/
def table? {α : Type} (n size : Nat) (read : List Byte → Option α) (b : List Byte) : Option (Vector α n) :=
  (entries? size read n b).bind (vector? n)

/-- The settings an image holds: signature, length and codes as R189 asks, and valid by R187. -/
def image? (b : List Byte) : Option Settings :=
  if b.length = Config.imageBytes ∧ b.take 4 = imageHead then
    match table? 16 5 gradeEntry? (b.drop 4), table? 32 3 laneEntry? (b.drop 84),
        table? 8 12 standEntry? (b.drop 180) with
    | some grades, some lanes, some stands =>
      let t : Settings := ⟨grades, lanes, stands, fleetEntry (b.drop 276)⟩
      if t.valid then some t else none
    | _, _, _ => none
  else none

/-! ## The load -/

/-- The state an enabled setting gives a stand outside READY (R125). -/
def StandSetting.startState (n : StandSetting) : StandState := if n.enabled then .empty else .off

/-- A stand when a loaded image comes into force (R189): EMPTY with its working marks, or OFF. -/
def Stand.start (st : Stand) (n : StandSetting) : Stand :=
  if n.enabled then { st with state := .empty, callUpMark := n.callUpMark, spliceMark := n.spliceMark }
  else { st with state := .off }

/-- A load that succeeds (R189). -/
def State.putInForce (s : State) (t : Settings) : State :=
  let s := (List.finRange 8).foldl (fun s n => s.modStand n fun st => st.start t.stands[n]) s
  { s with working := t, loaded := t, hallIncrement := t.fleet.increment, device := .ready }

/-- The settings a read of the memory yields (R189). -/
def readSettings? : MemoryRead → Option Settings
  | .noAck => none
  | .image bytes => image? bytes

/-- SETTINGS_LOAD (R189, R192): the load in progress in LOADING ends; a failed one changes the device state alone. -/
def execSettingsLoad (read : MemoryRead) (s : State) : Host.Outcome State Fault Refusal :=
  .next (if s.device = .loading then
      match readSettings? read with
      | none => { s with device := .unconfigured }
      | some t => s.putInForce t
    else s)

/-! ## The bus of the settings memory -/

/-- What the part does on SM_SCL and SM_SDA, byte by byte (R189, R193). -/
inductive BusEvent where
  /-- The memory's bus address, for reading or for writing. -/
  | addressed (device : BitVec 7) (reading : Bool)
  /-- A byte the part sends. -/
  | sent (b : Byte)
  /-- A repeated start. -/
  | repeatedStart
  /-- A byte the memory sends, which the part acknowledges or not. -/
  | received (b : Byte) (acknowledged : Bool)
  /-- A stop condition. -/
  | stop
  deriving DecidableEq, Repr

/-- The bus address of the settings memory (R189). -/
def memoryDevice : BitVec 7 := 0x50

/-- The bus address for writing and the two bytes of a memory address, high byte first, which begin a read and a write (R189, R193). -/
def busHead (address : Nat) : List BusEvent :=
  .addressed memoryDevice false :: (beBytes 2 address).map .sent

/-- The bytes of a read in sequence: the part acknowledges every one but the last (R189). -/
def receivedBytes : List Byte → List BusEvent
  | [] => []
  | [b] => [.received b false]
  | b :: bs => .received b true :: receivedBytes bs

/-- The bus cycle of a load that reads these bytes (R189), which names no stop condition at its end. -/
def loadEvents (bytes : List Byte) : List BusEvent :=
  busHead 0 ++ .repeatedStart :: .addressed memoryDevice true :: receivedBytes bytes

/-! ## The store -/

/-- One write of a store: the memory address of its first byte, and its data bytes (R193). -/
structure BusWrite where
  /-- The memory address of the first data byte. -/
  address : Nat
  /-- The data bytes. -/
  data : List Byte
  deriving DecidableEq, Repr

/-- A write on the bus: the bus address for writing, the two address bytes of the write's first byte, its data bytes, and a stop condition (R193). -/
def BusWrite.events (w : BusWrite) : List BusEvent :=
  busHead w.address ++ w.data.map .sent ++ [.stop]

/-- The bytes of a memory that programs a write. -/
def BusWrite.into (memory : List Byte) (w : BusWrite) : List Byte :=
  memory.take w.address ++ w.data ++ memory.drop (w.address + w.data.length)

/-- `n` page writes of 16 bytes from a memory address on; the last takes the bytes that are left (R193). -/
def pageWrites : Nat → Nat → List Byte → List BusWrite
  | 0, _, _ => []
  | n + 1, address, bytes => ⟨address, bytes.take 16⟩ :: pageWrites n (address + 16) (bytes.drop 16)

/-- The writes of a store in their order (R193): the image in 18 page writes with 00h 00h in place of the signature, then the two signature bytes. -/
def Settings.storeWrites (t : Settings) : List BusWrite :=
  pageWrites 18 0 ([0x00, 0x00] ++ t.image.drop 2) ++ [⟨0, t.image.take 2⟩]

/-- The writes that the store in flight makes, each begun once the memory acknowledges after the one before (R193); none when no store is in flight. How far a store has come is told by no row of the table, which ends a store only: assumption log 27. -/
def State.storeWrites (s : State) : List BusWrite :=
  match s.store with
  | none => []
  | some t => t.storeWrites

/-- The store in flight ends with an outcome (R193); nothing ends when none is in flight. -/
def State.endStore (s : State) (o : StoreOutcome) : State :=
  if s.store.isSome then { s with store := none }.post .settingsStored (.outcome o) else s

/-- SETTINGS_STORE_END (R193): the signature write acknowledged, or a byte or bus address not acknowledged. -/
def execSettingsStoreEnd (acknowledged : Bool) (s : State) : Host.Outcome State Fault Refusal :=
  .next (s.endStore (if acknowledged then .ok else .noAck))

/-- STORE_TIMEOUT (R193). -/
def execStoreTimeout (s : State) : Host.Outcome State Fault Refusal := .next (s.endStore .timeout)

/-! ## SET requests -/

/-- SET GRADE (R190). -/
def setGrade (f : List Byte) (s : State) : Reply :=
  match fin? 16 (byteAt f 0), gradeEntry? (f.drop 1) with
  | some g, some e =>
    if e.inRange then .ok { s with working := { s.working with grades := s.working.grades.set g e } } []
    else .refuse .badField
  | _, _ => .refuse .badField

/-- SET_GRADE. -/
def execSetGrade (s : State) : Host.Outcome State Fault Refusal := .next (s.serve .setGrade setGrade)

/-- SET LANE (R190). -/
def setLane (f : List Byte) (s : State) : Reply :=
  match fin? 32 (byteAt f 0), laneEntry? (f.drop 1) with
  | some l, some e =>
    if e.inRange then .ok { s with working := { s.working with lanes := s.working.lanes.set l e } } []
    else .refuse .badField
  | _, _ => .refuse .badField

/-- SET_LANE. -/
def execSetLane (s : State) : Host.Outcome State Fault Refusal := .next (s.serve .setLane setLane)

/-- SET STAND (R190): the stand becomes EMPTY or OFF (R125). -/
def setStand (f : List Byte) (s : State) : Reply :=
  match fin? 8 (byteAt f 0), standEntry? (f.drop 1) with
  | some n, some e =>
    if e.inRange then
      let t := { s with working := { s.working with stands := s.working.stands.set n e } }
      .ok (t.setStandState n e.startState) []
    else .refuse .badField
  | _, _ => .refuse .badField

/-- SET_STAND. -/
def execSetStand (s : State) : Host.Outcome State Fault Refusal := .next (s.serve .setStand setStand)

/-- SET FLEET (R190). -/
def setFleet (f : List Byte) (s : State) : Reply :=
  let e := fleetEntry f
  if e.inRange then .ok { s with working := { s.working with fleet := e } } [] else .refuse .badField

/-- SET_FLEET. -/
def execSetFleet (s : State) : Host.Outcome State Fault Refusal := .next (s.serve .setFleet setFleet)

/-! ## COMMIT, RELOAD and STORE -/

/-- A stand at COMMIT SETTINGS (R191): an enabled one takes its working marks. -/
def Stand.commit (st : Stand) (n : StandSetting) : Stand :=
  if n.enabled then { st with callUpMark := n.callUpMark, spliceMark := n.spliceMark } else st

/-- COMMIT SETTINGS of valid settings (R191). -/
def State.commit (s : State) : State :=
  let t := (List.finRange 8).foldl (fun t n => t.modStand n fun st => st.commit s.working.stands[n]) s
  { t with loaded := s.working, hallIncrement := s.working.fleet.increment, device := .ready }

/-- COMMIT SETTINGS (R191). -/
def commitSettings (_fields : List Byte) (s : State) : Reply :=
  if s.working.valid then .ok s.commit [] else .refuse .badField

/-- COMMIT_SETTINGS. -/
def execCommitSettings (s : State) : Host.Outcome State Fault Refusal :=
  .next (s.serve .commitSettings commitSettings)

/-- RELOAD and STORE SETTINGS are refused without a memory, and while a store is in flight (R192, R193). -/
def State.memoryRefusal (s : State) : Option Result :=
  if s.setmem = false then some .wrongState else if s.store.isSome then some .busy else none

/-- RELOAD SETTINGS (R192). -/
def reloadSettings (_fields : List Byte) (s : State) : Reply :=
  match s.memoryRefusal with
  | some e => .refuse e
  | none => .ok { s with device := .loading } []

/-- RELOAD_SETTINGS. -/
def execReloadSettings (s : State) : Host.Outcome State Fault Refusal :=
  .next (s.serve .reloadSettings reloadSettings)

/-- STORE SETTINGS (R193). -/
def storeSettings (_fields : List Byte) (s : State) : Reply :=
  match s.memoryRefusal with
  | some e => .refuse e
  | none => .ok { s with store := some s.working } []

/-- STORE_SETTINGS. -/
def execStoreSettings (s : State) : Host.Outcome State Fault Refusal :=
  .next (s.serve .storeSettings storeSettings)

end Sys2Proof.Machine
end

