-- ==== Sys2Proof/Machine/Dispatch.lean ====
section
/-! DEFINITION. The meaning of every command, one arm each. -/

namespace Sys2Proof.Machine

/-- A command's effect on everything but the queue of waiting commands. -/
def exec (i : Instr) (s : State) : Host.Outcome State Fault Refusal :=
  match i with
  | .powerOnReset setmem saleable => Sys2Proof.Machine.execPowerOnReset setmem saleable s
  | .floorReset => Sys2Proof.Machine.execFloorReset s
  | .settingsLoad read => Sys2Proof.Machine.execSettingsLoad read s
  | .settingsStoreEnd acknowledged => Sys2Proof.Machine.execSettingsStoreEnd acknowledged s
  | .storeTimeout => Sys2Proof.Machine.execStoreTimeout s
  | .hallSecondTick => Sys2Proof.Machine.execHallSecondTick s
  | .orderDeadlineExpiry slot => Sys2Proof.Machine.execOrderDeadlineExpiry slot s
  | .tenureExpiry aisle => Sys2Proof.Machine.execTenureExpiry aisle s
  | .requestFrame mosi => Sys2Proof.Machine.execRequestFrame mosi s
  | .answerFrame edge => Sys2Proof.Machine.execAnswerFrame edge s
  | .unknownRequest => Sys2Proof.Machine.execUnknownRequest s
  | .readStatus => Sys2Proof.Machine.execReadStatus s
  | .fetchNotice => Sys2Proof.Machine.execFetchNotice s
  | .resetFloor => Sys2Proof.Machine.execResetFloor s
  | .registerRoll => Sys2Proof.Machine.execRegisterRoll s
  | .declareRoll => Sys2Proof.Machine.execDeclareRoll s
  | .readRoll => Sys2Proof.Machine.execReadRoll s
  | .amendRoll => Sys2Proof.Machine.execAmendRoll s
  | .retireRoll => Sys2Proof.Machine.execRetireRoll s
  | .readLane => Sys2Proof.Machine.execReadLane s
  | .putAway => Sys2Proof.Machine.execPutAway s
  | .relocate => Sys2Proof.Machine.execRelocate s
  | .countStock => Sys2Proof.Machine.execCountStock s
  | .feed => Sys2Proof.Machine.execFeed s
  | .remove => Sys2Proof.Machine.execRemove s
  | .cancelOrder => Sys2Proof.Machine.execCancelOrder s
  | .abandonOrder => Sys2Proof.Machine.execAbandonOrder s
  | .readOrder => Sys2Proof.Machine.execReadOrder s
  | .readVehicle => Sys2Proof.Machine.execReadVehicle s
  | .readAisle => Sys2Proof.Machine.execReadAisle s
  | .readStand => Sys2Proof.Machine.execReadStand s
  | .holdTracking => Sys2Proof.Machine.execHoldTracking s
  | .releaseTracking => Sys2Proof.Machine.execReleaseTracking s
  | .spliceNow => Sys2Proof.Machine.execSpliceNow s
  | .thread => Sys2Proof.Machine.execThread s
  | .strip => Sys2Proof.Machine.execStrip s
  | .setMarks => Sys2Proof.Machine.execSetMarks s
  | .stageJob => Sys2Proof.Machine.execStageJob s
  | .changeover => Sys2Proof.Machine.execChangeover s
  | .setBudget => Sys2Proof.Machine.execSetBudget s
  | .readJob => Sys2Proof.Machine.execReadJob s
  | .retireJob => Sys2Proof.Machine.execRetireJob s
  | .setGrade => Sys2Proof.Machine.execSetGrade s
  | .setLane => Sys2Proof.Machine.execSetLane s
  | .setStand => Sys2Proof.Machine.execSetStand s
  | .setFleet => Sys2Proof.Machine.execSetFleet s
  | .commitSettings => Sys2Proof.Machine.execCommitSettings s
  | .reloadSettings => Sys2Proof.Machine.execReloadSettings s
  | .storeSettings => Sys2Proof.Machine.execStoreSettings s
  | .fleetFrame bytes => Sys2Proof.Machine.execFleetFrame bytes s
  | .unknownReport => Sys2Proof.Machine.execUnknownReport s
  | .online => Sys2Proof.Machine.execOnline s
  | .atPlace => Sys2Proof.Machine.execAtPlace s
  | .picked => Sys2Proof.Machine.execPicked s
  | .dropped => Sys2Proof.Machine.execDropped s
  | .clear => Sys2Proof.Machine.execClear s
  | .park => Sys2Proof.Machine.execPark s
  | .fault => Sys2Proof.Machine.execFault s
  | .offline => Sys2Proof.Machine.execOffline s
  | .instructionSent => Sys2Proof.Machine.execInstructionSent s
  | .pairing => Sys2Proof.Machine.execPairing s
  | .copyEvent reject => Sys2Proof.Machine.execCopyEvent reject s
  | .rollerPulse stand => Sys2Proof.Machine.execRollerPulse stand s
  | .spliceWindowExpiry stand => Sys2Proof.Machine.execSpliceWindowExpiry stand s
  | .splicedPulse stand => Sys2Proof.Machine.execSplicedPulse stand s
  | .saleableEdge rising => Sys2Proof.Machine.execSaleableEdge rising s
  | .changeoverPulse => Sys2Proof.Machine.execChangeoverPulse s
  | .refclkEdge => Sys2Proof.Machine.execRefclkEdge s

end Sys2Proof.Machine
end

