-- ==== Sys2Proof/Safety.lean ====
section
/-! DEFINITION. The terms the statements use: when a request is served and a report taken, how it is answered, and the invariants every step keeps. -/

namespace Sys2Proof.Machine

/-! ## Requests and reports -/

/-- The command that serves a request of a kind. -/
def RequestKind.command : RequestKind → Instr
  | .readStatus => .readStatus
  | .fetchNotice => .fetchNotice
  | .resetFloor => .resetFloor
  | .registerRoll => .registerRoll
  | .declareRoll => .declareRoll
  | .readRoll => .readRoll
  | .amendRoll => .amendRoll
  | .retireRoll => .retireRoll
  | .readLane => .readLane
  | .putAway => .putAway
  | .relocate => .relocate
  | .countStock => .countStock
  | .feed => .feed
  | .remove => .remove
  | .cancelOrder => .cancelOrder
  | .abandonOrder => .abandonOrder
  | .readOrder => .readOrder
  | .readVehicle => .readVehicle
  | .readAisle => .readAisle
  | .readStand => .readStand
  | .holdTracking => .holdTracking
  | .releaseTracking => .releaseTracking
  | .spliceNow => .spliceNow
  | .thread => .thread
  | .strip => .strip
  | .setMarks => .setMarks
  | .stageJob => .stageJob
  | .changeover => .changeover
  | .setBudget => .setBudget
  | .readJob => .readJob
  | .retireJob => .retireJob
  | .setGrade => .setGrade
  | .setLane => .setLane
  | .setStand => .setStand
  | .setFleet => .setFleet
  | .commitSettings => .commitSettings
  | .reloadSettings => .reloadSettings
  | .storeSettings => .storeSettings

/-- The head request has this code, frame tag and fields, and nothing R168 names holds the port back. -/
abbrev State.Heads (s : State) (q : RequestKind) (tag : Byte) (fields : List Byte) (rest : List Request) :
    Prop :=
  s.requests = ⟨q.code, tag, fields⟩ :: rest ∧ s.answers.length < 4 ∧ s.resetPending = false ∧
    (q.queues = true → 4 ≤ s.outboundFree)

/-- The head request is served: nothing holds the port back (R168), and the device state serves it (R169). -/
abbrev State.Serves (s : State) (q : RequestKind) (tag : Byte) (fields : List Byte) (rest : List Request) :
    Prop :=
  s.Heads q tag fields rest ∧ q.gate s.device = none

/-- The head request has left the buffer (R168). -/
def State.unqueued (s : State) (rest : List Request) : State := { s with requests := rest }

/-- OK is appended to the answer queue with the answer's fields (R168). -/
def State.okAnswer (s : State) (q : RequestKind) (tag : Byte) (out : List Byte) : State :=
  { s with answers := s.answers ++ [⟨q.code, tag, .ok, out⟩] }

/-- A refusal is appended to the answer queue: no fields (R168). -/
def State.refusal (s : State) (q : RequestKind) (tag : Byte) (e : Result) : State :=
  { s with answers := s.answers ++ [⟨q.code, tag, e, []⟩] }

/-- Six bytes name a live roll by its slot, or by a tag no other roll carries (R19). -/
abbrev State.Names (s : State) (ref : List Byte) (k : Nat) (r : Roll) : Prop :=
  s.roll? k = some r ∧ ((ref = 1 :: beBytes 5 k ∧ k < 1024) ∨
    (ref = 0 :: beBytes 5 r.tag ∧ 1 ≤ r.tag ∧ r.tag ≤ 9999999999 ∧ ∀ p ∈ s.rolls, p.2.tag = r.tag → p.1 = k))

/-- The head frame of the receive buffer is this report, and it may be taken (R105). -/
abbrev State.Takes (s : State) (v : VehicleNo) (kind : Byte) (fields : List Byte) (rest : List FleetFrame) :
    Prop :=
  s.received = ⟨v, kind, fields⟩ :: rest ∧ 4 ≤ s.outboundFree

/-- The head frame has left the receive buffer (R105). -/
def State.untaken (s : State) (rest : List FleetFrame) : State := { s with received := rest }

/-- A report is refused (R90, R91): REFUSE and VEHICLE_REFUSED with the reason, and pairing as after every report. -/
def State.reportRefused (s : State) (v : VehicleNo) (kind : Byte) (rest : List FleetFrame) (e : Reason) : State :=
  State.pair { s with
    received := rest
    outbound := s.outbound ++ [⟨v, .refuse kind e⟩]
    notices := postInto s.notices (.vehicleRefused v) (.reason e) }

/-- A vehicle holds the tenure of one aisle and of no other (R109). -/
abbrev State.HoldsOnly (s : State) (v : VehicleNo) (g : AisleNo) : Prop :=
  ∀ h : AisleNo, s.aisles[h].holder = some v ↔ h = g

/-- A vehicle holds no tenure (R109). -/
abbrev State.HoldsNone (s : State) (v : VehicleNo) : Prop :=
  ∀ h : AisleNo, s.aisles[h].holder ≠ some v

/-- The call-up check has nothing to do at a remaining length (R129). -/
abbrev Stand.CallUpQuiet (st : Stand) (r : Nat) : Prop :=
  st.callUpMark = 0 ∨ st.callUpRaised = true ∨ st.callUpMark < r

/-- The splice mark check has nothing to do at a remaining length (R131). -/
abbrev Stand.SpliceQuiet (st : Stand) (r : Nat) : Prop :=
  st.state ≠ .loaded ∨ st.spliceMark = 0 ∨ st.spliceMark < r

/-! ## Invariants -/

/-- R16, R147, R148: in every slot good plus reject is gross and startup reject is at most reject; one slot at most is ACTIVE and one at most STAGED. -/
def State.JobsLegal (s : State) : Prop :=
  (∀ j : JobSlot, s.jobs[j].good + s.jobs[j].reject = s.jobs[j].gross ∧
    s.jobs[j].startupReject ≤ s.jobs[j].reject ∧ s.jobs[j].gross ≤ Config.max32) ∧
  ∀ i j : JobSlot, s.jobs[i].state = s.jobs[j].state →
    s.jobs[i].state = .active ∨ s.jobs[i].state = .staged → i = j

/-- R104, R167, R168, R172: the buffers hold at most their places, no two notices have the same key, and counts are 1 to 255. -/
def State.PortLegal (s : State) : Prop :=
  s.requests.length ≤ 4 ∧ s.answers.length ≤ 4 ∧ s.received.length ≤ 8 ∧
    (s.notices.map Notice.key).Nodup ∧ ∀ e ∈ s.notices, 1 ≤ e.count ∧ e.count ≤ 255

/-- R75, R186, R187: the settings in force in READY and the loaded image are valid; the generator's increment and accumulator stay in their ranges. -/
def State.SettingsLegal (s : State) : Prop :=
  (s.device = .ready → s.working.valid = true) ∧ s.loaded.valid = true ∧
    1 ≤ s.hallIncrement ∧ s.hallIncrement ≤ Config.max32 ∧ s.hallAccumulator < Config.hallModulus

/-- R8, R12: every fraction accumulator stays below a metre, as increments and cutoffs do. -/
def State.FractionsLegal (s : State) : Prop :=
  (∀ n : StandNo, s.stands[n].fraction < 1000 ∧ 1 ≤ s.working.stands[n].rollerIncrement ∧
    s.working.stands[n].rollerIncrement ≤ 999) ∧
  s.wasteFraction < 1000 ∧ ∀ j : JobSlot, s.jobs[j].cutoff ≤ 999

/-- R17 to R20, R42: slots rise below 1024, tags are in range and unlike, no roll holds more than its registered length, overruns and sequences keep their ranges, and the dock list holds at most 16 rolls. -/
def State.RegisterLegal (s : State) : Prop :=
  tableWf Config.rollSlots s.rolls = true ∧ (s.rolls.map fun p => p.2.tag).Nodup ∧
  (∀ p ∈ s.rolls, 1 ≤ p.2.tag ∧ p.2.tag ≤ Config.maxTag ∧ p.2.remaining ≤ p.2.registered ∧
    p.2.overrun ≤ 255 ∧ p.2.sequence ≤ Config.max32) ∧
  s.sequence ≤ Config.max32 ∧ s.dock.length ≤ 16

end Sys2Proof.Machine
end

