-- ==== Sys2Proof/Certificates/Slice0/Obligations.lean ====
section
/-! DEFINITION. The statements for the provers. -/

open Sys2Proof Sys2Proof.Machine

/-! ## The machine -/

/-- A step takes the command at the front of the queue and runs its meaning with the queue's rest; on an empty queue the block idles, which is the model's choice (assumption log 11). -/
def Obligations.StepRunsFrontCommand : Prop :=
  (∀ (c : Instr) (rest : List Instr) (s : State),
    step { s with pending := c :: rest } = exec c { s with pending := rest }) ∧
  ∀ s : State, s.pending = [] → step s = .next s

/-- R188, R40, R60, R75, R86, R107, R122, R145, R163, R176: POWER_ON_RESET leaves every record as its chapter states for power-on reset, whatever the records were. A chip-select period in progress is lost in both directions: no period remains, and its request frame is discarded. The queue of waiting commands, which is the model's own, is kept: the model's choice (assumption log 28). -/
def Obligations.PowerOnClearsEveryRecord : Prop :=
  ∀ (setmem saleable : Bool) (s : State), ∃ t, exec (.powerOnReset setmem saleable) s = .next t ∧
    t.device = (if setmem then .loading else .unconfigured) ∧ t.setmem = setmem ∧ t.saleable = saleable ∧
    t.working = Settings.default ∧ t.loaded = Settings.default ∧ t.store = none ∧ t.hallIncrement = 268 ∧
    t.hallAccumulator = 0 ∧
    t.rolls = [] ∧ t.sequence = 0 ∧ t.dock = [] ∧ (∀ l : LaneNo, t.lanes[l] = ⟨none, [], 0⟩) ∧
    (∀ k : OrderSlot, t.orders[k] = none) ∧ t.nextNumber = 1 ∧ t.waiting = [] ∧ t.idle = [] ∧
    t.demand = [] ∧ (∀ v : VehicleNo, t.vehicles[v] = ⟨.offline, none, none, none, none, 0⟩) ∧
    t.lineBytes = [] ∧ t.received = [] ∧ t.outbound = [] ∧ t.finishing = none ∧
    (∀ g : AisleNo, t.aisles[g] = ⟨none, .free, [], .none⟩) ∧
    (∀ n : StandNo, t.stands[n] =
      ⟨.off, none, ⟨.empty, none, none⟩, ⟨.empty, none, none⟩, 0, 0, false, false, 0, 0⟩) ∧
    (∀ j : JobSlot, t.jobs[j].state = .free) ∧ t.wasteFraction = 0 ∧
    t.requests = [] ∧ t.answers = [] ∧ t.notices = [] ∧ t.overrunMark = false ∧ t.framingMark = false ∧
    t.resetPending = false ∧ t.period = none ∧
    (s.period ≠ none → ∀ mosi, exec (.requestFrame mosi) t = .next { t with frameSpoiled := false }) ∧
    (s.period = none → s.frameSpoiled = false → t.frameSpoiled = false) ∧
    t.attention = false ∧ t.pressStop = false ∧ t.wasteAlarm = false ∧
    (∀ n : StandNo, t.spliceCommand n = false) ∧ t.pending = s.pending

/-! ## Invariants -/

/-- The five invariants of Sys2Proof/Safety.lean hold after power-on reset, and so at State.reset. The levels at State.reset are the model's choice (assumption log 1). -/
def Obligations.InvariantsHoldAfterPowerOn : Prop :=
  (∀ setmem saleable : Bool,
    (State.powerOn setmem saleable).JobsLegal ∧ (State.powerOn setmem saleable).PortLegal ∧
    (State.powerOn setmem saleable).SettingsLegal ∧ (State.powerOn setmem saleable).FractionsLegal ∧
    (State.powerOn setmem saleable).RegisterLegal) ∧
  State.reset.JobsLegal ∧ State.reset.PortLegal ∧ State.reset.SettingsLegal ∧ State.reset.FractionsLegal ∧
    State.reset.RegisterLegal

/-- R16, R148: every step keeps good plus reject equal to gross in every job slot, and at most one slot ACTIVE and one STAGED. -/
def Obligations.StepKeepsJobsLegal : Prop :=
  ∀ s t : State, s.JobsLegal → step s = .next t → t.JobsLegal

/-- R104, R167, R168, R172: every step keeps the request buffer, answer queue and receive buffer within their places and no two notices of the same key. -/
def Obligations.StepKeepsPortLegal : Prop :=
  ∀ s t : State, s.PortLegal → step s = .next t → t.PortLegal

/-- R75, R187: every step keeps the settings in force in READY and the loaded image valid, and the hall-seconds generator in range. -/
def Obligations.StepKeepsSettingsLegal : Prop :=
  ∀ s t : State, s.SettingsLegal → step s = .next t → t.SettingsLegal

/-- R8, R12: every step keeps every fraction accumulator and the waste fraction below 1,000 mm. -/
def Obligations.StepKeepsFractionsLegal : Prop :=
  ∀ s t : State, s.FractionsLegal → step s = .next t → t.FractionsLegal

/-- R17 to R20, R42: every step keeps the roll register legal: slots below 1,024 in order, tags in range and unlike, no remaining length above the registered one, overruns and sequences in range, and at most 16 rolls on the dock. -/
def Obligations.StepKeepsRegisterLegal : Prop :=
  ∀ s t : State, s.RegisterLegal → step s = .next t → t.RegisterLegal

/-! ## The control port -/

/-- R165, R167: what the release of a chip-select period makes of its request frame. The order of a period's commands is the model's (assumption log 3). -/
def Obligations.RequestFrameJudged : Prop :=
  ∀ s : State, s.frameSpoiled = false →
    (∀ mosi, mosi.length < 2 ∨ num mosi 0 2 = 0 → exec (.requestFrame mosi) s = .next s) ∧
    (∀ mosi, 2 ≤ mosi.length → num mosi 0 2 = 1 ∨ 60 < num mosi 0 2 →
      exec (.requestFrame mosi) s = .next { s with framingMark := true }) ∧
    (∀ mosi, 2 ≤ mosi.length → 2 ≤ num mosi 0 2 → num mosi 0 2 ≤ 60 → mosi.length < num mosi 0 2 + 2 →
      exec (.requestFrame mosi) s = .next { s with framingMark := true }) ∧
    (∀ (code tag : Byte) (fields extra : List Byte), fields.length ≤ 58 →
      (s.requests.length < 4 →
        exec (.requestFrame (beBytes 2 (fields.length + 2) ++ code :: tag :: (fields ++ extra))) s =
          .next { s with requests := s.requests ++ [⟨code, tag, fields⟩] }) ∧
      (4 ≤ s.requests.length →
        exec (.requestFrame (beBytes 2 (fields.length + 2) ++ code :: tag :: (fields ++ extra))) s =
          .next { s with overrunMark := true }))

/-- R166, R170, R179: the assertion of SPI_CS_N fixes the answer of the period and forms its status byte; each byte clocked gets a byte of that frame back, and 00h once the frame has been sent. The order of a period's commands is the model's (assumption log 3). -/
def Obligations.AnswerFrameFixedAtSelect : Prop :=
  (∀ s : State, s.period = none → ∃ status : Byte,
    exec (.answerFrame .asserted) s = .next { s with
      frameSpoiled := false
      period := some
        { answer := s.answers.head?
          frame := status :: (match s.answers.head? with
            | none => [0, 0]
            | some a => beBytes 2 (3 + a.fields.length) ++ a.code :: a.tag :: a.result.code :: a.fields)
          showsOverrun := s.overrunMark
          showsFraming := s.framingMark
          live := true } } ∧
    (status.getLsbD 0 = true ↔ s.answers ≠ []) ∧ (status.getLsbD 1 = true ↔ 2 ≤ s.answers.length) ∧
    (status.getLsbD 2 = true ↔ s.notices ≠ []) ∧ (status.getLsbD 3 = s.overrunMark) ∧
    (status.getLsbD 4 = s.framingMark) ∧ (status.getLsbD 5 = true ↔ 4 ≤ s.requests.length) ∧
    (status.getLsbD 6 = true ↔ s.device = .ready) ∧ (status.getLsbD 7 = true ↔ s.device = .loading) ∧
    (s.attention = true ↔ s.answers ≠ [] ∨ s.notices ≠ [])) ∧
  ∀ (s : State) (p : Period) (clocked i : Nat), s.period = some p → i < clocked →
    (s.miso clocked).length = clocked ∧
    (s.miso clocked)[i]? = some (if i < p.frame.length then p.frame.getD i 0 else 0)

/-- R166, R167: at the release of SPI_CS_N an answer clocked in full leaves the queue, one cut short stays, and the marks that the clocked status byte showed are cleared. The order of a period's commands is the model's (assumption log 3). -/
def Obligations.AnswerLeavesWhenClockedInFull : Prop :=
  ∀ (s : State) (p : Period) (clocked : Nat), s.period = some p → 1 ≤ clocked →
    (p.answer = none → exec (.answerFrame (.released clocked)) s = .next { s with
      period := none
      overrunMark := s.overrunMark && !p.showsOverrun
      framingMark := s.framingMark && !p.showsFraming }) ∧
    (clocked < p.frame.length → exec (.answerFrame (.released clocked)) s = .next { s with
      period := none
      overrunMark := s.overrunMark && !p.showsOverrun
      framingMark := s.framingMark && !p.showsFraming }) ∧
    (p.answer ≠ none → p.live = true → p.frame.length ≤ clocked → s.resetPending = false →
      exec (.answerFrame (.released clocked)) s = .next { s with
        period := none
        answers := s.answers.tail
        overrunMark := s.overrunMark && !p.showsOverrun
        framingMark := s.framingMark && !p.showsFraming })

/-- R175, R176: RESET FLOOR answers OK and makes a reset pending; the reset is taken at the release of the period in which its answer was clocked in full, and that period's request frame is discarded without a mark. The order of a period's commands is the model's (assumption log 3). -/
def Obligations.ResetFloorTakenAtItsAnswer : Prop :=
  (∀ (s : State) (tag : Byte) (rest : List Request), s.Serves .resetFloor tag [] rest →
    exec .resetFloor s =
      .next ({ s.unqueued rest with resetPending := true }.okAnswer .resetFloor tag [])) ∧
  ∀ (s : State) (p : Period) (tag : Byte) (fields mosi : List Byte) (clocked : Nat),
    s.period = some p → p.answer = some ⟨0x03, tag, .ok, fields⟩ → p.live = true → 1 ≤ clocked →
    p.frame.length ≤ clocked → s.resetPending = true →
    let t := State.floorReset { s with
      period := none
      answers := s.answers.tail
      overrunMark := s.overrunMark && !p.showsOverrun
      framingMark := s.framingMark && !p.showsFraming }
    exec (.answerFrame (.released clocked)) s = .next { t with frameSpoiled := true } ∧
    exec (.requestFrame mosi) { t with frameSpoiled := true } = .next { t with frameSpoiled := false }

/-- R168, R169, R178: for every request of the table, the device state that does not serve it answers NOT_READY or WRONG_STATE, and otherwise a wrong length answers BAD_FIELD; no other record changes. -/
def Obligations.DeviceStateGatesEveryRequest : Prop :=
  ∀ (q : RequestKind) (s : State) (tag : Byte) (fields : List Byte) (rest : List Request),
    s.Heads q tag fields rest →
    (s.device = .loading → q ≠ .readStatus →
      exec q.command s = .next ((s.unqueued rest).refusal q tag .notReady)) ∧
    (s.device = .unconfigured →
      q ∉ [.readStatus, .fetchNotice, .resetFloor, .storeSettings, .setGrade, .setLane, .setStand, .setFleet,
        .commitSettings, .reloadSettings] →
      exec q.command s = .next ((s.unqueued rest).refusal q tag .notReady)) ∧
    (s.device = .ready →
      q ∈ [.setGrade, .setLane, .setStand, .setFleet, .commitSettings, .reloadSettings] →
      exec q.command s = .next ((s.unqueued rest).refusal q tag .wrongState)) ∧
    ((q = .readStatus ∨
        (s.device = .ready ∧
          q ∉ [.setGrade, .setLane, .setStand, .setFleet, .commitSettings, .reloadSettings]) ∨
        (s.device = .unconfigured ∧
          q ∈ [.fetchNotice, .resetFloor, .storeSettings, .setGrade, .setLane, .setStand, .setFleet,
            .commitSettings, .reloadSettings])) →
      fields.length ≠ q.fieldBytes fields →
      exec q.command s = .next ((s.unqueued rest).refusal q tag .badField))

/-- R168: a head request waits, and nothing changes, while the answer queue is full, a RESET FLOOR is pending, or a PUT AWAY, RELOCATE, REMOVE, AMEND ROLL, RETIRE ROLL, CANCEL ORDER or ABANDON ORDER, which can queue instructions, finds fewer than 4 outbound places; a code that is not in the table is answered UNKNOWN_REQUEST. -/
def Obligations.HeadRequestWaitsOrIsUnknown : Prop :=
  (∀ (q : RequestKind) (s : State),
    4 ≤ s.answers.length ∨ s.resetPending = true ∨
      (q ∈ [.putAway, .relocate, .remove, .amendRoll, .retireRoll, .cancelOrder, .abandonOrder] ∧
        s.outboundFree < 4) →
    exec q.command s = .next s) ∧
  (∀ s : State, 4 ≤ s.answers.length ∨ s.resetPending = true → exec .unknownRequest s = .next s) ∧
  ∀ (s : State) (code tag : Byte) (fields : List Byte) (rest : List Request),
    s.requests = ⟨code, tag, fields⟩ :: rest → s.answers.length < 4 → s.resetPending = false →
    (∀ q : RequestKind, q.code ≠ code) →
    exec .unknownRequest s = .next { s with
      requests := rest
      answers := s.answers ++ [⟨code, tag, .unknownRequest, []⟩] }

/-- R174, R181: READ STATUS is served in every device state, answers the 19 bytes of the status readout and changes no record. -/
def Obligations.ReadStatusAnswersReadout : Prop :=
  ∀ (s : State) (tag : Byte) (rest : List Request), s.Heads .readStatus tag [] rest →
    exec .readStatus s = .next ((s.unqueued rest).okAnswer .readStatus tag
      ([s.device.code, flagByte s.store.isSome,
        flagByte (decide (∃ n : StandNo, s.stands[n].state = .webOut)), flagByte s.wasteAlarm,
        byteOf ((List.finRange 8).countP fun n => decide (s.stands[n].state = .webOut))] ++
        beBytes 4 s.sequence ++
        [byteOf ((List.finRange 32).countP fun k => s.orders[k].isSome), byteOf s.waiting.length,
          byteOf s.idle.length, byteOf s.demand.length, byteOf (32 - s.outbound.length),
          byteOf s.received.length, byteOf rest.length, byteOf s.notices.length,
          (match s.activeSlot with | none => 0xFF | some j => byteOf j.val),
          (match s.stagedSlot with | none => 0xFF | some j => byteOf j.val)]))

/-- R80, R173: FETCH NOTICE removes the head entry; an ORDER_DONE or ORDER_CANCELLED entry whose slot holds a DONE or CANCELLED order frees that slot, and the feed demand list is examined. That pairing ends the event is the model's reading (assumption log 4). -/
def Obligations.FetchNoticeRemovesHead : Prop :=
  (∀ (s : State) (tag : Byte) (rest : List Request), s.Serves .fetchNotice tag [] rest → s.notices = [] →
    ∃ out : List Byte, exec .fetchNotice s = .next ((s.unqueued rest).okAnswer .fetchNotice tag out) ∧
      out.length = 10 ∧ out.take 2 = [0, 0]) ∧
  (∀ (s : State) (tag : Byte) (rest : List Request) (e : Notice) (es : List Notice),
    s.Serves .fetchNotice tag [] rest → s.notices = e :: es →
    (∀ k : OrderSlot, e.key = .orderDone k ∨ e.key = .orderCancelled k →
      ∀ o, s.orders[k] = some o → o.isOpen = true) →
    exec .fetchNotice s = .next ({ s.unqueued rest with notices := es }.okAnswer .fetchNotice tag
      (byteOf es.length :: e.key.code :: e.key.object :: byteOf e.count :: e.detail.bytes))) ∧
  ∀ (s : State) (tag : Byte) (rest : List Request) (e : Notice) (es : List Notice) (k : OrderSlot) (o : Order),
    s.Serves .fetchNotice tag [] rest → s.notices = e :: es →
    e.key = .orderDone k ∨ e.key = .orderCancelled k → s.orders[k] = some o →
    o.state = .done ∨ o.state = .cancelled →
    exec .fetchNotice s =
      .next ((({ s.unqueued rest with notices := es, orders := s.orders.set k none }.examine).pair).okAnswer
        .fetchNotice tag
        (byteOf es.length :: e.key.code :: e.key.object :: byteOf e.count :: e.detail.bytes))

/-! ## The roll register -/

/-- R28: the checks of REGISTER ROLL in their order, for every value its fields can hold; a refused request changes nothing but the two queues. -/
def Obligations.RegisterRollRefusals : Prop :=
  ∀ (s : State) (tag : Byte) (rest : List Request) (t g w d D W : Nat),
    s.Serves .registerRoll tag
      (beBytes 5 t ++ byteOf g :: (beBytes 2 w ++ byteOf d :: (beBytes 2 D ++ beBytes 2 W))) rest →
    t < 256 ^ 5 → g < 256 → w < 65536 → d < 256 → D < 65536 → W < 65536 →
    tableWf 1024 s.rolls = true →
    let bad := t = 0 ∨ 9999999999 < t ∨ 15 < g ∨
      (∃ x : GradeCode, x.val = g ∧ s.working.grades[x].defined = false) ∨ w < 300 ∨ 2600 < w ∨ d < 50 ∨
      200 < d ∨ D < 70 ∨ 1600 < D ∨ D < d + 20 ∨ W < 50 ∨ 4000 < W
    (bad → exec .registerRoll s = .next ((s.unqueued rest).refusal .registerRoll tag .badField)) ∧
    (¬ bad → (∃ p ∈ s.rolls, p.2.tag = t) →
      exec .registerRoll s = .next ((s.unqueued rest).refusal .registerRoll tag .duplicate)) ∧
    (¬ bad → (∀ p ∈ s.rolls, p.2.tag ≠ t) → (∀ k < 1024, s.roll? k ≠ none) ∨ 16 ≤ s.dock.length →
      exec .registerRoll s = .next ((s.unqueued rest).refusal .registerRoll tag .full))

/-- R3, R5, R6, R18, R20, R29: a REGISTER ROLL that passes its checks creates the DOCKED record in the lowest free slot, with its lengths and its DISCREPANCY flag, and leaves every other record. -/
def Obligations.RegisterRollCreatesRecord : Prop :=
  ∀ (s : State) (tag : Byte) (rest : List Request) (t w d D W k : Nat) (g : GradeCode),
    s.Serves .registerRoll tag
      (beBytes 5 t ++ byteOf g.val :: (beBytes 2 w ++ byteOf d :: (beBytes 2 D ++ beBytes 2 W))) rest →
    1 ≤ t → t ≤ 9999999999 → 300 ≤ w → w ≤ 2600 → 50 ≤ d → d ≤ 200 → 70 ≤ D → D ≤ 1600 → d + 20 ≤ D →
    50 ≤ W → W ≤ 4000 → s.working.grades[g].defined = true → (∀ p ∈ s.rolls, p.2.tag ≠ t) →
    tableWf 1024 s.rolls = true → k < 1024 → s.roll? k = none → (∀ j < k, s.roll? j ≠ none) →
    s.dock.length < 16 →
    let ld := 355 * (D * D - d * d) / (452 * s.working.grades[g].caliper)
    let lw := min 65535 (W * 1000000 / (s.working.grades[g].grammage * w))
    let r : Roll :=
      { tag := t, grade := g, width := w, core := d, diameter := D, weight := W, registered := ld,
        remaining := ld, overrun := 0, sequence := s.sequence, state := .docked, location := .dock,
        claim := none, hold := false, damaged := false,
        discrepancy := decide (ld < 8 * ((ld : Int) - lw).natAbs), partRoll := false }
    exec .registerRoll s = .next ({ s.unqueued rest with
        rolls := tableSet s.rolls k r
        sequence := min 4294967295 (s.sequence + 1)
        dock := s.dock ++ [k] }.okAnswer .registerRoll tag
      (beBytes 2 k ++ beBytes 4 s.sequence ++ beBytes 2 ld ++
        [flagByte r.discrepancy, byteOf s.dock.length])) ∧
    tableGet (tableSet s.rolls k r) k = some r ∧
    ∀ j, j ≠ k → tableGet (tableSet s.rolls k r) j = tableGet s.rolls j

/-- R32, R33: a DECLARE ROLL that passes its checks creates the record as declared: on the dock, at the back of a lane, on a vehicle, or on an arm as a standby, READY or MISMATCH by the plan, or as a STUB with PART_ROLL set. R34: one of state RUNNING makes the named arm the running arm, with the stand's state from the remaining length and no notice. R31: the records that would name the roll refuse it with BAD_FIELD, WRONG_STATE or STORE_FULL, and R30 a full dock with FULL. That pairing ends the event is the model's reading (assumption log 4). -/
def Obligations.DeclareRollRebuildsRecord : Prop :=
  ∀ (s : State) (tag : Byte) (rest : List Request) (t w d D W registered remaining k flags : Nat) (g : GradeCode)
    (st : RollState) (place : Location) (index arm : Byte),
    s.Serves .declareRoll tag
      (beBytes 5 t ++ byteOf g.val :: (beBytes 2 w ++ byteOf d :: (beBytes 2 D ++ (beBytes 2 W ++
        (beBytes 2 registered ++ (beBytes 2 remaining ++ [st.code, index, arm, byteOf flags])))))) rest →
    1 ≤ t → t ≤ 9999999999 → 300 ≤ w → w ≤ 2600 → 50 ≤ d → d ≤ 200 → 70 ≤ D → D ≤ 1600 → d + 20 ≤ D →
    50 ≤ W → W ≤ 4000 → s.working.grades[g].defined = true → 1 ≤ registered → registered ≤ 65535 →
    remaining ≤ registered → flags < 16 → (∀ p ∈ s.rolls, p.2.tag ≠ t) → tableWf 1024 s.rolls = true →
    k < 1024 → s.roll? k = none → (∀ j < k, s.roll? j ≠ none) →
    let r : Roll :=
      { tag := t, grade := g, width := w, core := d, diameter := D, weight := W, registered := registered,
        remaining := remaining, overrun := 0, sequence := s.sequence, state := st, location := place,
        claim := none, hold := flags.testBit 0, damaged := flags.testBit 1, discrepancy := flags.testBit 2,
        partRoll := flags.testBit 3 }
    let created : State := { s.unqueued rest with
      rolls := tableSet s.rolls k r
      sequence := min 4294967295 (s.sequence + 1) }
    let out := beBytes 2 k ++ beBytes 4 s.sequence
    let refused := fun e : Result => (s.unqueued rest).refusal .declareRoll tag e
    (st = .docked → place = .dock → index = 0xFF → arm = 0xFF →
      (s.dock.length < 16 →
        exec .declareRoll s = .next ({ created with dock := s.dock ++ [k] }.okAnswer .declareRoll tag out)) ∧
      (16 ≤ s.dock.length → exec .declareRoll s = .next (refused .full))) ∧
    (∀ l : LaneNo, st = .stored → place = .lane l → index = byteOf l.val → arm = 0xFF →
      (s.working.lanes[l].enabled = false → exec .declareRoll s = .next (refused .badField)) ∧
      (s.working.lanes[l].enabled = true →
        (s.lanes[l].binding ≠ none → s.lanes[l].binding ≠ some ⟨g, w⟩ →
          exec .declareRoll s = .next (refused .wrongState)) ∧
        ((s.lanes[l].binding = none ∨ s.lanes[l].binding = some ⟨g, w⟩) →
          (s.working.lanes[l].depth ≤ s.lanes[l].contents.length + s.lanes[l].reservations →
            exec .declareRoll s = .next (refused .storeFull)) ∧
          (s.lanes[l].contents.length + s.lanes[l].reservations < s.working.lanes[l].depth →
            let stored := created.modLane l fun x =>
              { x with contents := x.contents ++ [k], binding := some ⟨g, w⟩ }
            (s.lanes[l].contents ≠ [] →
              exec .declareRoll s = .next (stored.okAnswer .declareRoll tag out)) ∧
            (s.lanes[l].contents = [] →
              exec .declareRoll s = .next (stored.examine.pair.okAnswer .declareRoll tag out)))))) ∧
    (∀ v : VehicleNo, st = .carried → place = .vehicle v → index = byteOf v.val → arm = 0xFF →
      v.val < s.working.fleet.fitted →
      (s.vehicles[v].state = .offline ∨ s.vehicles[v].state = .idle → s.vehicles[v].roll = none →
        exec .declareRoll s = .next ({ created with
          vehicles := s.vehicles.set v { s.vehicles[v] with roll := some k }
          idle := s.idle.filter fun u => u ≠ v }.okAnswer .declareRoll tag out)) ∧
      ((s.vehicles[v].state ≠ .offline ∧ s.vehicles[v].state ≠ .idle) ∨ s.vehicles[v].roll ≠ none →
        exec .declareRoll s = .next (refused .wrongState))) ∧
    ∀ (n : StandNo) (a : Arm), place = .arm n a → index = byteOf n.val → arm = Arm.code a →
      let x := s.stands[n]
      (st = .running →
        (x.state ≠ .off → (x.arm a).status = .empty → x.running = none →
          exec .declareRoll s = .next ((created.modStand n fun x =>
            { x.setArm a ⟨.running, some k, none⟩ with
              state := if remaining = 0 then .webOut
                else if x.spliceMark ≠ 0 ∧ remaining ≤ x.spliceMark then .spliceDue else .loaded
              running := some a
              fraction := 0
              callUpRaised := decide (x.callUpMark ≠ 0 ∧ remaining ≤ x.callUpMark) }).okAnswer
            .declareRoll tag out)) ∧
        (x.state = .off ∨ (x.arm a).status ≠ .empty ∨ x.running ≠ none →
          exec .declareRoll s = .next (refused .wrongState))) ∧
      (st = .standby ∨ st = .stub →
        (x.state ≠ .off → (x.arm a).status = .empty → x.running ≠ some a →
          x.running ≠ none ∨ (x.arm a.other).status = .empty →
          (st = .standby → exec .declareRoll s = .next ((created.modStand n fun x => x.setArm a
              ⟨if s.requirement n = some ⟨g, w⟩ then .ready else .mismatch, some k, none⟩).okAnswer
            .declareRoll tag out)) ∧
          (st = .stub → exec .declareRoll s = .next ((State.modStand { created with
              rolls := tableSet s.rolls k { r with partRoll := true } } n fun x =>
                x.setArm a ⟨.stub, some k, none⟩).okAnswer .declareRoll tag out))) ∧
        (x.state = .off ∨ (x.arm a).status ≠ .empty ∨ x.running = some a ∨
            (x.running = none ∧ (x.arm a.other).status ≠ .empty) →
          exec .declareRoll s = .next (refused .wrongState)))

/-- R36: AMEND ROLL, naming the roll by its slot or by its tag, applies a leave, set or clear to HOLD and to DAMAGED together and answers the flags afterwards with order number 0, unless it sets HOLD on the roll of an unpicked FEED order; a clear that leaves both flags clear has the feed demand list examined, and an action that is none of the three is refused with BAD_FIELD. That pairing ends the event is the model's reading (assumption log 4). -/
def Obligations.AmendRollSetsFlags : Prop :=
  ∀ (s : State) (tag : Byte) (rest : List Request) (k : Nat) (r : Roll) (ref : List Byte) (h d : Nat),
    s.Serves .amendRoll tag (ref ++ [byteOf h, byteOf d]) rest → h < 256 → d < 256 →
    s.Names ref k r →
    let acted := fun (action : Nat) (old : Bool) => if action = 1 then true else if action = 2 then false else old
    let hold := acted h r.hold
    let damaged := acted d r.damaged
    let t := (s.unqueued rest).modRoll k fun x => { x with hold := hold, damaged := damaged }
    (2 < h ∨ 2 < d → exec .amendRoll s = .next ((s.unqueued rest).refusal .amendRoll tag .badField)) ∧
    (h ≤ 2 → d ≤ 2 →
      (h = 1 → ∀ (c : OrderSlot) (o : Order), r.claim = some c → s.orders[c] = some o →
        o.kind ≠ .feed ∨ (o.state ≠ .waiting ∧ o.state ≠ .assigned ∧ o.state ≠ .loading)) →
      ∃ flags : Byte,
        ((h = 2 ∨ d = 2) ∧ hold = false ∧ damaged = false →
          exec .amendRoll s = .next ((t.examine.pair).okAnswer .amendRoll tag [flags, 0, 0])) ∧
        (¬ ((h = 2 ∨ d = 2) ∧ hold = false ∧ damaged = false) →
          exec .amendRoll s = .next ((t.pair).okAnswer .amendRoll tag [flags, 0, 0])) ∧
        flags.getLsbD 0 = hold ∧ flags.getLsbD 1 = damaged ∧
        flags.getLsbD 2 = r.discrepancy ∧ flags.getLsbD 3 = r.partRoll)

/-- R37: AMEND ROLL that sets HOLD on the roll of a FEED order in WAITING, ASSIGNED or LOADING cancels the order: its slot holds it as CANCELLED with ORDER_CANCELLED posted, the roll is held and unclaimed, a vehicle it had is sent STAND_DOWN, and the answer carries its number. -/
def Obligations.HoldCancelsUnpickedFeed : Prop :=
  ∀ (s : State) (tag : Byte) (rest : List Request) (k : Nat) (r : Roll) (c : OrderSlot) (o : Order),
    s.Serves .amendRoll tag (1 :: (beBytes 5 k ++ [1, 0])) rest → k < 1024 → s.roll? k = some r →
    r.claim = some c → s.orders[c] = some o → o.roll = k → o.kind = .feed →
    o.state = .waiting ∨ o.state = .assigned ∨ o.state = .loading →
    ∃ (t : State) (flags : Byte), exec .amendRoll s = .next (t.okAnswer .amendRoll tag (flags :: beBytes 2 o.number)) ∧
      t.orders[c] = some { o with state := .cancelled, vehicle := none, deadline := .none } ∧
      t.roll? k = some { r with hold := true, claim := none } ∧
      c ∉ t.waiting ∧
      (∃ e ∈ t.notices, e.key = .orderCancelled c ∧ e.detail = .order o.number) ∧
      ∀ v, o.vehicle = some v → (⟨v, .standDown o.number⟩ : Instruction) ∈ t.outbound

/-- R25, R38, R39: RETIRE ROLL of an unclaimed roll frees its slot. The dock list closes up behind a DOCKED roll; behind a lane front the next roll is the front, and an empty lane without reservations is unbound; the arm of a STUB is EMPTY, or RESERVED to the FEED order whose reservation rode with it, and a vehicle that waits there is sent RESUME; a vehicle without an order carries nothing, and in IDLE enters the idle list. After a lane or an arm the feed demand list is examined. A claimed roll, a STANDBY, a RUNNING roll, a STORED roll behind the front and a roll on a vehicle with an order are refused with WRONG_STATE. That pairing ends the event is the model's reading (assumption log 4). -/
def Obligations.RetireRollFreesSlot : Prop :=
  ∀ (s : State) (tag : Byte) (rest : List Request) (k : Nat) (r : Roll),
    s.Serves .retireRoll tag (1 :: beBytes 5 k) rest → k < 1024 → s.roll? k = some r →
    let out := beBytes 2 k ++ beBytes 5 r.tag
    let freed : State := { s.unqueued rest with rolls := tableErase s.rolls k }
    (tableGet (tableErase s.rolls k) k = none ∧
      ∀ j, j ≠ k → tableGet (tableErase s.rolls k) j = tableGet s.rolls j) ∧
    (r.claim = none →
      (r.state = .docked → r.location = .dock →
        exec .retireRoll s = .next (({ freed with dock := s.dock.filter (fun j => j ≠ k) }.pair).okAnswer
          .retireRoll tag out)) ∧
      (∀ (l : LaneNo) (tail : List Nat), r.state = .stored → r.location = .lane l →
        s.lanes[l].contents = k :: tail →
        exec .retireRoll s = .next ((State.pair (State.examine { freed with
            lanes := s.lanes.set l { s.lanes[l] with
              contents := tail
              binding := if tail = [] ∧ s.lanes[l].reservations = 0 then none
                else s.lanes[l].binding } })).okAnswer .retireRoll tag out)) ∧
      (∀ (n : StandNo) (a : Arm), r.state = .stub → r.location = .arm n a →
        let emptied := s.stands.set n (s.stands[n].setArm a
          { status := if (s.stands[n].arm a).reservation = none then .empty else .reserved
            roll := none
            reservation := (s.stands[n].arm a).reservation })
        ((∀ w : VehicleNo, s.vehicles[w].waiting ≠ some (.armBusy n a)) →
          exec .retireRoll s = .next ((State.pair (State.examine { freed with stands := emptied })).okAnswer
            .retireRoll tag out)) ∧
        ∀ (w : VehicleNo) (c : OrderSlot) (q : Order),
          (∀ u : VehicleNo, s.vehicles[u].waiting = some (.armBusy n a) ↔ u = w) →
          s.vehicles[w].order = some c → s.orders[c] = some q →
          exec .retireRoll s = .next ((State.pair (State.examine { freed with
              stands := emptied
              vehicles := s.vehicles.set w { s.vehicles[w] with waiting := none }
              outbound := s.outbound ++ [⟨w, .resume q.number⟩] })).okAnswer .retireRoll tag out)) ∧
      ∀ v : VehicleNo, r.state = .carried → r.location = .vehicle v → s.vehicles[v].order = none →
        exec .retireRoll s = .next ((State.pair { freed with
            vehicles := s.vehicles.set v { s.vehicles[v] with roll := none }
            idle := if s.vehicles[v].state = .idle then s.idle ++ [v] else s.idle }).okAnswer
          .retireRoll tag out)) ∧
    (r.claim ≠ none ∨ r.state = .standby ∨ r.state = .running ∨
        (∃ l : LaneNo, r.state = .stored ∧ r.location = .lane l ∧ s.lanes[l].contents.head? ≠ some k) ∨
        (∃ v : VehicleNo, r.state = .carried ∧ r.location = .vehicle v ∧ s.vehicles[v].order ≠ none) →
      exec .retireRoll s = .next ((s.unqueued rest).refusal .retireRoll tag .wrongState))

/-- R15: COUNT STOCK answers the number of live rolls of a grade and width, STORED ones alone when asked, and the sum of their remaining lengths. -/
def Obligations.CountStockCountsRolls : Prop :=
  ∀ (s : State) (tag : Byte) (rest : List Request) (g : GradeCode) (w : Nat) (storedOnly : Bool),
    s.Serves .countStock tag (byteOf g.val :: (beBytes 2 w ++ [flagByte storedOnly])) rest →
    300 ≤ w → w ≤ 2600 →
    let counted := s.rolls.filter fun p =>
      decide (p.2.grade = g ∧ p.2.width = w ∧ (storedOnly = true → p.2.state = .stored))
    exec .countStock s = .next ((s.unqueued rest).okAnswer .countStock tag
      (beBytes 4 counted.length ++ beBytes 4 (counted.map fun p => p.2.remaining).sum))

/-! ## Readouts -/

/-- R35, R59, R81, R182: READ ROLL, READ LANE and READ ORDER answer their readouts, of which the length and the main fields are stated, and change nothing but the two queues. That a disabled lane shows its depth as its free places is the model's choice (assumption log 32). -/
def Obligations.ReadersOfRollsLanesAndOrders : Prop :=
  (∀ (s : State) (tag : Byte) (rest : List Request) (k : Nat) (r : Roll),
    s.Serves .readRoll tag (1 :: beBytes 5 k) rest → k < 1024 → s.roll? k = some r →
    ∃ out : List Byte, exec .readRoll s = .next ((s.unqueued rest).okAnswer .readRoll tag out) ∧
      out.length = 32 ∧ num out 0 2 = k ∧ num out 2 5 = r.tag % 256 ^ 5 ∧ num out 7 1 = r.grade.val ∧
      num out 8 2 = r.width % 65536 ∧ num out 15 2 = r.registered % 65536 ∧
      num out 17 2 = r.remaining % 65536 ∧ num out 19 1 = r.overrun % 256 ∧
      num out 20 4 = r.sequence % 256 ^ 4 ∧ num out 24 1 = r.state.code.toNat ∧
      num out 29 1 = (match r.claim with | none => 255 | some c => c.val)) ∧
  (∀ (s : State) (tag : Byte) (rest : List Request) (l : LaneNo),
    s.Serves .readLane tag [byteOf l.val] rest →
    ∃ out : List Byte, exec .readLane s = .next ((s.unqueued rest).okAnswer .readLane tag out) ∧
      out.length = 10 + 14 * s.lanes[l].contents.length ∧ num out 0 1 = l.val ∧
      num out 1 1 = (if s.working.lanes[l].enabled then 1 else 0) ∧ num out 2 1 = s.working.lanes[l].aisle.val ∧
      num out 3 1 = s.working.lanes[l].depth % 256 ∧
      num out 4 1 = (match s.lanes[l].binding with | none => 255 | some b => b.grade.val) ∧
      num out 7 1 = s.lanes[l].reservations % 256 ∧
      num out 8 1 = (s.working.lanes[l].depth - s.lanes[l].contents.length - s.lanes[l].reservations) % 256 ∧
      num out 9 1 = s.lanes[l].contents.length % 256) ∧
  (∀ (s : State) (tag : Byte) (rest : List Request), s.Serves .readLane tag [0xFE] rest →
    ∃ out : List Byte, exec .readLane s = .next ((s.unqueued rest).okAnswer .readLane tag out) ∧
      out.length = 10 + 14 * s.dock.length ∧ num out 0 1 = 254 ∧ num out 1 8 = 0 ∧
      num out 9 1 = s.dock.length % 256) ∧
  ∀ (s : State) (tag : Byte) (rest : List Request) (k : OrderSlot) (o : Order),
    s.Serves .readOrder tag (1 :: beBytes 2 k.val) rest → s.orders[k] = some o →
    ∃ out : List Byte, exec .readOrder s = .next ((s.unqueued rest).okAnswer .readOrder tag out) ∧
      out.length = 22 ∧ num out 0 2 = o.number % 65536 ∧ num out 2 1 = k.val ∧
      num out 3 1 = o.kind.code.toNat ∧ num out 4 1 = o.kind.cls.code.toNat ∧
      num out 6 1 = o.state.code.toNat ∧ num out 7 2 = o.roll % 65536 ∧
      num out 18 1 = (match o.vehicle with | none => 255 | some v => v.val)

/-- R106, R121, R144, R161: READ VEHICLE, READ AISLE, READ STAND and READ JOB answer their readouts, of which the length and the main fields are stated, and change nothing but the two queues. -/
def Obligations.ReadersOfVehiclesAislesStandsAndJobs : Prop :=
  (∀ (s : State) (tag : Byte) (rest : List Request) (v : VehicleNo),
    s.Serves .readVehicle tag [byteOf v.val] rest →
    ∃ out : List Byte, exec .readVehicle s = .next ((s.unqueued rest).okAnswer .readVehicle tag out) ∧
      out.length = 20 ∧ num out 0 1 = v.val ∧
      num out 1 1 = (if v.val < s.working.fleet.fitted then 1 else 0) ∧
      num out 2 1 = s.vehicles[v].state.code.toNat ∧
      num out 4 1 = (match s.vehicles[v].order with | none => 255 | some k => k.val) ∧
      num out 19 1 = s.vehicles[v].faultCode % 256) ∧
  (∀ (s : State) (tag : Byte) (rest : List Request) (g : AisleNo),
    s.Serves .readAisle tag [byteOf g.val] rest →
    ∃ out : List Byte, exec .readAisle s = .next ((s.unqueued rest).okAnswer .readAisle tag out) ∧
      out.length = 15 + 4 * s.aisles[g].waiting.length ∧ num out 0 1 = g.val ∧
      num out 1 1 = s.aisles[g].mode.code.toNat ∧
      num out 2 1 = (match s.aisles[g].holder with | none => 255 | some v => v.val) ∧
      num out 4 2 = (match s.aisles[g].counter with
        | .none => 65535 | .expired => 0 | .running left => left % 65536) ∧
      num out 14 1 = s.aisles[g].waiting.length % 256) ∧
  (∀ (s : State) (tag : Byte) (rest : List Request) (n : StandNo),
    s.Serves .readStand tag [byteOf n.val] rest →
    ∃ out : List Byte, exec .readStand s = .next ((s.unqueued rest).okAnswer .readStand tag out) ∧
      out.length = 66 ∧ num out 0 1 = n.val ∧ num out 1 1 = s.stands[n].state.code.toNat ∧
      num out 2 1 = (match s.stands[n].running with | none => 255 | some .A => 0 | some .B => 1) ∧
      num out 3 1 = (if s.stands[n].state = .splicing then 1 else 0) ∧
      num out 4 1 = s.stands[n].armA.status.code.toNat ∧ num out 21 1 = s.stands[n].armB.status.code.toNat ∧
      num out 45 2 = s.stands[n].callUpMark % 65536 ∧ num out 47 2 = s.stands[n].spliceMark % 65536 ∧
      num out 58 1 = s.stands[n].window % 256 ∧ num out 59 2 = s.stands[n].fraction % 65536) ∧
  (∀ (s : State) (tag : Byte) (rest : List Request) (j : JobSlot),
    s.Serves .readJob tag [byteOf j.val] rest →
    (s.jobs[j].state = .free → exec .readJob s =
      .next ((s.unqueued rest).okAnswer .readJob tag [byteOf j.val, 0])) ∧
    (s.jobs[j].state ≠ .free →
      ∃ out : List Byte, exec .readJob s = .next ((s.unqueued rest).okAnswer .readJob tag out) ∧
        out.length = 56 + 4 * ((List.finRange 8).countP fun n => s.jobs[j].plan[n].isSome) ∧
        num out 0 1 = j.val ∧ num out 1 1 = s.jobs[j].state.code.toNat ∧
        num out 2 2 = s.jobs[j].number % 65536 ∧ num out 4 2 = s.jobs[j].cutoff % 65536 ∧
        num out 6 4 = s.jobs[j].budget % 256 ^ 4 ∧ num out 11 4 = s.jobs[j].gross % 256 ^ 4 ∧
        num out 15 4 = s.jobs[j].good % 256 ^ 4 ∧ num out 19 4 = s.jobs[j].reject % 256 ^ 4))

/-! ## The store map and the dispatcher -/

/-- R51: put-away selection takes, of the enabled lanes other than the excluded one, the bound lane of the grade and width with the fewest free places but at least one, the lower number first; else the lowest unbound lane; else none. -/
def Obligations.PutAwaySelectionFillsFullestLane : Prop :=
  ∀ (s : State) (kind : PaperKind) (without : Option LaneNo),
    let usable : LaneNo → Prop := fun l => s.working.lanes[l].enabled = true ∧ without ≠ some l
    let roomy : LaneNo → Prop := fun l => usable l ∧ s.lanes[l].binding = some kind ∧ 0 < s.freePlaces l
    (∀ l, s.putAwayLane kind without = some l → (∃ m, roomy m) →
      roomy l ∧ ∀ m, roomy m → s.freePlaces l < s.freePlaces m ∨
        (s.freePlaces l = s.freePlaces m ∧ l ≤ m)) ∧
    (∀ l, s.putAwayLane kind without = some l → (∀ m, ¬ roomy m) →
      usable l ∧ s.lanes[l].binding = none ∧ ∀ m, usable m → s.lanes[m].binding = none → l ≤ m) ∧
    (s.putAwayLane kind without = none ↔
      (∀ m, ¬ roomy m) ∧ ∀ m, usable m → s.lanes[m].binding ≠ none)

/-- R53, R54: feed selection takes the eligible lane front with the smallest receipt sequence, of two with the same one the lower lane; none only when no front is eligible. -/
def Obligations.FeedSelectionTakesOldestFront : Prop :=
  ∀ (s : State) (n : StandNo),
    let eligible : LaneNo → Nat → Roll → Prop := fun l k r =>
      s.working.lanes[l].enabled = true ∧ s.lanes[l].contents.head? = some k ∧ s.roll? k = some r ∧
        r.state = .stored ∧ r.hold = false ∧ r.damaged = false ∧ r.claim = none ∧
        s.requirement n = some ⟨r.grade, r.width⟩
    (∀ c, s.feedChoice n = some c → eligible c.lane c.slot c.roll ∧
      ∀ l k r, eligible l k r → c.roll.sequence < r.sequence ∨
        (c.roll.sequence = r.sequence ∧ c.lane ≤ l)) ∧
    (s.feedChoice n = none → ∀ l k r, ¬ eligible l k r)

/-- R61: while a slot of the order table is free, the number a new order takes is 1 to 65,535 and no order of the table carries it. -/
def Obligations.NewOrderNumberIsUnused : Prop :=
  ∀ s : State, 1 ≤ s.nextNumber → s.nextNumber ≤ 65535 → (∃ k : OrderSlot, s.orders[k] = none) →
    1 ≤ s.newNumber ∧ s.newNumber ≤ 65535 ∧
    ∀ (k : OrderSlot) (o : Order), s.orders[k] = some o → o.number ≠ s.newNumber

/-- R26, R45, R47, R61, R64, R65, R68: the creation of an order is one event, which takes its number from the next-number counter and advances it. From a place the order is WAITING in the queue, behind the last URGENT order or at the back; from a vehicle it is LADEN with GO queued. Its roll is claimed, its destination reserved, and no other record changes. That the counter skips a number in use at the creation that would take it, and not before, is the model's reading (assumption log 12). -/
def Obligations.OrderCreationIsOneEvent : Prop :=
  ∀ (s : State) (c : OrderSlot) (kind : OrderKind) (origin : OrderOrigin) (k : Nat) (r : Roll)
    (source dest : Place) (lanes : Vector Lane 32) (stands : Vector Stand 8),
    let number := s.newNumber
    let o : Order :=
      { number := number, kind := kind, origin := origin, roll := k, rollTag := r.tag, source := source,
        dest := dest, vehicle := none, state := .waiting, stalled := false, late := false, deadline := .none }
    let limit := s.working.fleet.orderLimit
    ((dest = .exitBay ∧ lanes = s.lanes ∧ stands = s.stands) ∨
      (∃ l : LaneNo, dest = .lane l ∧ stands = s.stands ∧ lanes = s.lanes.set l { s.lanes[l] with
        reservations := s.lanes[l].reservations + 1
        binding := s.lanes[l].binding.or (some ⟨r.grade, r.width⟩) }) ∨
      (∃ (n : StandNo) (a : Arm), dest = .arm n a ∧ lanes = s.lanes ∧
        stands = s.stands.set n (s.stands[n].setArm a { s.stands[n].arm a with
          reservation := some c
          status := if (s.stands[n].arm a).status = .empty then .reserved else (s.stands[n].arm a).status }))) →
    ((∀ v, source ≠ .vehicle v) →
      let orders := s.orders.set c (some o)
      let urgent := fun i : OrderSlot => orders[i].any fun x => decide (x.kind = .feed ∨ x.kind = .returnStub)
      s.createOrder c kind origin k r source dest = { s with
        orders := orders
        nextNumber := if 65535 ≤ number then 1 else number + 1
        rolls := tableModify s.rolls k fun x => { x with claim := some c }
        lanes := lanes
        stands := stands
        waiting := if kind = .feed ∨ kind = .returnStub
          then s.waiting.takeWhile urgent ++ c :: s.waiting.dropWhile urgent else s.waiting ++ [c] }) ∧
    (∀ v : VehicleNo, source = .vehicle v →
      s.createOrder c kind origin k r source dest = { s with
        orders := s.orders.set c (some { o with
          vehicle := some v
          state := .laden
          deadline := if limit = 0 then .none else .running limit })
        nextNumber := if 65535 ≤ number then 1 else number + 1
        rolls := tableModify s.rolls k fun x => { x with claim := some c }
        lanes := lanes
        stands := stands
        vehicles := s.vehicles.set v { s.vehicles[v] with state := .laden, order := some c }
        outbound := s.outbound ++ [⟨v, .go number r.tag .dock dest⟩] })

/-- R52, R55, R56: PUT AWAY of an unclaimed roll on the dock or on an idle vehicle creates its PUTAWAY order, to the named lane when that passes its checks or to the lane put-away selection yields. A destination that is no lane and no choice, and a lane that is not enabled, are refused with BAD_FIELD, a lane bound to other paper with WRONG_STATE, one without a free place and a choice without a lane with STORE_FULL, a claimed roll with WRONG_STATE, and a full order table with FULL. That pairing ends the event is the model's reading (assumption log 4). -/
def Obligations.PutAwayCreatesOrder : Prop :=
  ∀ (s : State) (tag dest : Byte) (rest : List Request) (k : Nat) (r : Roll) (source : Place),
    s.Serves .putAway tag (1 :: (beBytes 5 k ++ [dest])) rest → k < 1024 → s.roll? k = some r →
    ((r.state = .docked ∧ source = .dock) ∨
      ∃ v : VehicleNo, r.state = .carried ∧ r.location = .vehicle v ∧ s.vehicles[v].state = .idle ∧
        s.vehicles[v].order = none ∧ source = .vehicle v) →
    let refused := fun e : Result => (s.unqueued rest).refusal .putAway tag e
    let fits := fun l : LaneNo => s.lanes[l].binding = none ∨ s.lanes[l].binding = some ⟨r.grade, r.width⟩
    let chosen := fun l : LaneNo =>
      (dest = byteOf l.val ∧ s.working.lanes[l].enabled = true ∧ fits l ∧ 0 < s.freePlaces l) ∨
        (dest = 0xFE ∧ s.putAwayLane ⟨r.grade, r.width⟩ none = some l)
    (32 ≤ dest.toNat → dest ≠ 0xFE → exec .putAway s = .next (refused .badField)) ∧
    (dest = 0xFE ∨ dest.toNat < 32 → r.claim ≠ none → exec .putAway s = .next (refused .wrongState)) ∧
    (r.claim = none →
      (∀ l : LaneNo, dest = byteOf l.val →
        (s.working.lanes[l].enabled = false → exec .putAway s = .next (refused .badField)) ∧
        (s.working.lanes[l].enabled = true → ¬ fits l → exec .putAway s = .next (refused .wrongState)) ∧
        (s.working.lanes[l].enabled = true → fits l → s.freePlaces l = 0 →
          exec .putAway s = .next (refused .storeFull))) ∧
      (dest = 0xFE → s.putAwayLane ⟨r.grade, r.width⟩ none = none →
        exec .putAway s = .next (refused .storeFull)) ∧
      ∀ l : LaneNo, chosen l →
        ((∀ c : OrderSlot, s.orders[c] ≠ none) → exec .putAway s = .next (refused .full)) ∧
        ∀ c : OrderSlot, s.orders[c] = none → (∀ b, b < c → s.orders[b] ≠ none) →
          exec .putAway s =
            .next ((((s.unqueued rest).createOrder c .putaway .request k r source (.lane l)).pair).okAnswer
              .putAway tag (beBytes 2 s.newNumber ++ [byteOf c.val, byteOf l.val])))

/-- R52, R57, R58: RELOCATE of an unclaimed lane front creates its order, to the named lane when that passes its checks or to the lane put-away selection yields without the source lane; a roll reference may be given. An empty source lane and a reference to no live roll are refused with NOT_FOUND, a reference to another roll, a claimed front and a lane bound to other paper with WRONG_STATE, a destination that is no lane and no choice, the source lane itself and a lane that is not enabled with BAD_FIELD, a lane without a free place and a choice without a lane with STORE_FULL, a full order table with FULL. R67: REMOVE of an unclaimed roll that may be removed creates its order; a claimed roll, a READY standby, a RUNNING roll, a roll behind its lane front and one on a vehicle that is not IDLE or has an order are refused with WRONG_STATE, a full order table with FULL. That a bad destination is BAD_FIELD also where the reference names no live roll is the model's reading (assumption log 8). That pairing ends the event is the model's reading (assumption log 4). -/
def Obligations.RelocateAndRemoveCreateOrders : Prop :=
  (∀ (s : State) (tag dest : Byte) (rest : List Request) (l : LaneNo) (ref : List Byte),
    s.Serves .relocate tag (byteOf l.val :: (ref ++ [dest])) rest →
    let refused := fun e : Result => (s.unqueued rest).refusal .relocate tag e
    (32 ≤ dest.toNat → dest ≠ 0xFE → exec .relocate s = .next (refused .badField)) ∧
    (dest = 0xFE ∨ dest.toNat < 32 →
      (∀ j, ref = 1 :: beBytes 5 j → j < 1024 → s.roll? j = none →
        exec .relocate s = .next (refused .notFound)) ∧
      (∀ t, ref = 0 :: beBytes 5 t → 1 ≤ t → t ≤ 9999999999 → (∀ p ∈ s.rolls, p.2.tag ≠ t) →
        exec .relocate s = .next (refused .notFound)) ∧
      (ref = [0xFF, 0, 0, 0, 0, 0] ∨ (∃ (j : Nat) (q : Roll), s.Names ref j q) →
        s.lanes[l].contents = [] → exec .relocate s = .next (refused .notFound)) ∧
      ∀ (k : Nat) (r : Roll), s.lanes[l].contents.head? = some k → s.roll? k = some r →
        let fits := fun m : LaneNo => s.lanes[m].binding = none ∨ s.lanes[m].binding = some ⟨r.grade, r.width⟩
        let chosen := fun m : LaneNo =>
          (dest = byteOf m.val ∧ m ≠ l ∧ s.working.lanes[m].enabled = true ∧ fits m ∧ 0 < s.freePlaces m) ∨
            (dest = 0xFE ∧ s.putAwayLane ⟨r.grade, r.width⟩ (some l) = some m)
        (∀ (j : Nat) (q : Roll), s.Names ref j q → j ≠ k →
          exec .relocate s = .next (refused .wrongState)) ∧
        (ref = [0xFF, 0, 0, 0, 0, 0] ∨ s.Names ref k r →
          (r.claim ≠ none → exec .relocate s = .next (refused .wrongState)) ∧
          (r.claim = none →
            (∀ m : LaneNo, dest = byteOf m.val →
              (m = l ∨ s.working.lanes[m].enabled = false → exec .relocate s = .next (refused .badField)) ∧
              (m ≠ l → s.working.lanes[m].enabled = true →
                (¬ fits m → exec .relocate s = .next (refused .wrongState)) ∧
                (fits m → s.freePlaces m = 0 → exec .relocate s = .next (refused .storeFull)))) ∧
            (dest = 0xFE → s.putAwayLane ⟨r.grade, r.width⟩ (some l) = none →
              exec .relocate s = .next (refused .storeFull)) ∧
            ∀ m : LaneNo, chosen m →
              ((∀ c : OrderSlot, s.orders[c] ≠ none) → exec .relocate s = .next (refused .full)) ∧
              ∀ c : OrderSlot, s.orders[c] = none → (∀ b, b < c → s.orders[b] ≠ none) →
                exec .relocate s =
                  .next ((((s.unqueued rest).createOrder c .relocate .request k r (.lane l) (.lane m)).pair).okAnswer
                    .relocate tag (beBytes 2 s.newNumber ++ byteOf c.val :: (beBytes 2 k ++ beBytes 5 r.tag ++
                      [byteOf m.val]))))))) ∧
  ∀ (s : State) (tag : Byte) (rest : List Request) (ref : List Byte) (k : Nat) (r : Roll) (source : Place),
    s.Serves .remove tag ref rest → s.Names ref k r →
    (r.claim = none →
      ((r.state = .docked ∧ source = .dock) ∨
        (∃ l : LaneNo, r.state = .stored ∧ r.location = .lane l ∧ s.lanes[l].contents.head? = some k ∧
          source = .lane l) ∨
        (∃ (n : StandNo) (a : Arm), r.state = .stub ∧ r.location = .arm n a ∧ source = .arm n a) ∨
        (∃ (n : StandNo) (a : Arm), r.state = .standby ∧ r.location = .arm n a ∧
          (s.stands[n].arm a).status = .mismatch ∧ source = .arm n a) ∨
        ∃ v : VehicleNo, r.state = .carried ∧ r.location = .vehicle v ∧ s.vehicles[v].state = .idle ∧
          s.vehicles[v].order = none ∧ source = .vehicle v) →
      ((∀ c : OrderSlot, s.orders[c] ≠ none) →
        exec .remove s = .next ((s.unqueued rest).refusal .remove tag .full)) ∧
      ∀ c : OrderSlot, s.orders[c] = none → (∀ b, b < c → s.orders[b] ≠ none) →
        exec .remove s =
          .next ((((s.unqueued rest).createOrder c .remove .request k r source .exitBay).pair).okAnswer
            .remove tag (beBytes 2 s.newNumber ++ [byteOf c.val]))) ∧
    (r.claim ≠ none ∨ r.state = .running ∨
        (∃ (n : StandNo) (a : Arm), r.state = .standby ∧ r.location = .arm n a ∧
          (s.stands[n].arm a).status = .ready) ∨
        (∃ l : LaneNo, r.state = .stored ∧ r.location = .lane l ∧ s.lanes[l].contents.head? ≠ some k) ∨
        (∃ v : VehicleNo, r.state = .carried ∧ r.location = .vehicle v ∧
          (s.vehicles[v].state ≠ .idle ∨ s.vehicles[v].order ≠ none)) →
      exec .remove s = .next ((s.unqueued rest).refusal .remove tag .wrongState))

/-- R66, R82: FEED naming an eligible lane front creates a FEED order of origin REQUEST and takes the stand from the feed demand list; FEED naming no roll raises the stand's demand and answers the order the examination made, or 0; a stand that is OFF or outside the active web plan is refused with WRONG_STATE. That pairing ends the event is the model's reading (assumption log 4). -/
def Obligations.FeedCreatesOrderOrRaisesDemand : Prop :=
  (∀ (s : State) (tag : Byte) (rest : List Request) (n : StandNo) (l : LaneNo) (k : Nat) (r : Roll)
    (c : OrderSlot),
    s.Serves .feed tag (byteOf n.val :: 1 :: beBytes 5 k) rest → k < 1024 → s.roll? k = some r →
    s.stands[n].state ≠ .off → s.feedArmAvailable n = true → s.requirement n = some ⟨r.grade, r.width⟩ →
    s.working.lanes[l].enabled = true → s.lanes[l].contents.head? = some k →
    (∀ m : LaneNo, s.lanes[m].contents.head? = some k → m = l) →
    r.state = .stored → r.hold = false → r.damaged = false → r.claim = none →
    s.orders[c] = none → (∀ b, b < c → s.orders[b] ≠ none) →
    let t := (s.unqueued rest).createOrder c .feed .request k r (.lane l) (.arm n s.stands[n].feedArm)
    exec .feed s = .next (({ t with demand := t.demand.filter fun m => m ≠ n }.pair).okAnswer .feed tag
      (beBytes 2 s.newNumber ++ byteOf c.val :: (beBytes 2 k ++ beBytes 5 r.tag)))) ∧
  (∀ (s : State) (tag : Byte) (rest : List Request) (n : StandNo),
    s.Serves .feed tag [byteOf n.val, 0xFF, 0, 0, 0, 0, 0] rest →
    s.stands[n].state ≠ .off → s.feedArmAvailable n = true → s.requirement n ≠ none → n ∉ s.demand →
    let t := State.examine { s.unqueued rest with demand := s.demand ++ [n] }
    (n ∈ t.demand → t.openFeed n = none →
      exec .feed s = .next (((t.post (.feedShort n) (.metres (t.runningMetres n))).pair).okAnswer .feed tag
        [0, 0, 0xFF, 0xFF, 0xFF, 0, 0, 0, 0, 0])) ∧
    (∀ (c : OrderSlot) (o : Order), n ∉ t.demand → t.openFeed n = some c → t.orders[c] = some o →
      exec .feed s = .next ((t.pair).okAnswer .feed tag
        (beBytes 2 o.number ++ byteOf c.val :: (beBytes 2 o.roll ++ beBytes 5 o.rollTag))))) ∧
  ∀ (s : State) (tag : Byte) (rest : List Request) (n : StandNo),
    s.Serves .feed tag [byteOf n.val, 0xFF, 0, 0, 0, 0, 0] rest →
    s.stands[n].state = .off ∨ s.requirement n = none ∨ s.feedArmAvailable n = false →
    exec .feed s = .next ((s.unqueued rest).refusal .feed tag .wrongState)

/-- R83, R84: an examination leaves no entry of the feed demand list that can be served, gives every stand that left the list an open FEED order, adds no entry, and changes no job, vehicle, aisle, notice or instruction. -/
def Obligations.ExaminationServesAllItCan : Prop :=
  ∀ s : State,
    (∀ n ∈ s.examine.demand, s.examine.requirement n = none ∨ s.examine.feedArmAvailable n = false ∨
      s.examine.feedChoice n = none ∨ s.examine.freeOrderSlot = none) ∧
    (∀ n ∈ s.demand, n ∉ s.examine.demand → s.examine.openFeed n ≠ none) ∧
    s.examine.demand.Sublist s.demand ∧ s.examine.jobs = s.jobs ∧ s.examine.vehicles = s.vehicles ∧
    s.examine.aisles = s.aisles ∧ s.examine.notices = s.notices ∧ s.examine.outbound = s.outbound

/-- R70: PAIRING joins a lone waiting order to the idle vehicle parked in its source aisle, else to the head of the idle list, with GO queued; and when it ends, the queue or the idle list is empty or no outbound place is free. That PAIRING is also a command of its own is the model's reading (assumption log 4). -/
def Obligations.PairingJoinsOrderToVehicle : Prop :=
  (∀ (s : State) (k : OrderSlot) (o : Order) (v : VehicleNo),
    s.waiting = [k] → s.orders[k] = some o → s.outbound.length < 32 → v ∈ s.idle →
    ((∃ l : LaneNo, o.source = .lane l ∧ s.aisles[s.working.lanes[l].aisle].mode = .parked ∧
        s.aisles[s.working.lanes[l].aisle].holder = some v) ∨
      (s.idle.head? = some v ∧ ∀ l : LaneNo, o.source = .lane l →
        s.aisles[s.working.lanes[l].aisle].mode ≠ .parked ∨
        ∀ w ∈ s.idle, s.aisles[s.working.lanes[l].aisle].holder ≠ some w)) →
    (∀ w, o.source ≠ .vehicle w) →
    exec .pairing s = .next { s with
      waiting := []
      idle := s.idle.filter fun w => w ≠ v
      orders := s.orders.set k (some { o with
        state := .assigned
        vehicle := some v
        deadline := if s.working.fleet.orderLimit = 0 then .none else .running s.working.fleet.orderLimit })
      vehicles := s.vehicles.set v { s.vehicles[v] with state := .outbound, order := some k }
      outbound := s.outbound ++ [⟨v, .go o.number o.rollTag o.source o.dest⟩] }) ∧
  ∀ s : State, (∀ k ∈ s.waiting, s.orders[k] ≠ none) →
    ∃ t, exec .pairing s = .next t ∧ (t.waiting = [] ∨ t.idle = [] ∨ 32 ≤ t.outbound.length) ∧
      t.rolls = s.rolls ∧ t.lanes = s.lanes ∧ t.stands = s.stands ∧ t.jobs = s.jobs ∧ t.aisles = s.aisles ∧
      t.demand = s.demand ∧ t.notices = s.notices ∧ t.dock = s.dock

/-- R77, R78: CANCEL ORDER of an order in WAITING, ASSIGNED or LOADING and ABANDON ORDER of one in LADEN or UNLOADING release what it holds, free its slot at once without a notice, and have the feed demand list examined; every other state is refused with WRONG_STATE, and by both requests number 0 with BAD_FIELD and an unknown number with NOT_FOUND. That pairing ends the event is the model's reading (assumption log 4). -/
def Obligations.CancelAndAbandonFreeTheSlot : Prop :=
  ∀ (s : State) (tag : Byte) (rest : List Request) (number : Nat), number ≤ 65535 →
    (∀ (c : OrderSlot) (o : Order), s.orders[c] = some o → o.number = number → 1 ≤ number →
      (∀ (b : OrderSlot) (x : Order), s.orders[b] = some x → x.number = number → b = c) →
      let t := (((s.unqueued rest).unclaim o.roll).release o.dest).leaveQueue c
      let freed := fun u : State => (u.setOrder c none).examine.pair
      (s.Serves .cancelOrder tag (beBytes 2 number) rest →
        o.state = .waiting ∨ o.state = .assigned ∨ o.state = .loading →
        (o.vehicle = none → exec .cancelOrder s = .next ((freed t).okAnswer .cancelOrder tag
          (beBytes 2 number ++ [byteOf c.val, o.state.code]))) ∧
        ∀ v, o.vehicle = some v →
          exec .cancelOrder s = .next ((freed (t.standDown v number)).okAnswer .cancelOrder tag
            (beBytes 2 number ++ [byteOf c.val, o.state.code]))) ∧
      (s.Serves .abandonOrder tag (beBytes 2 number) rest → o.state = .laden ∨ o.state = .unloading →
        ∀ v, o.vehicle = some v →
          exec .abandonOrder s = .next ((freed (t.standDown v number)).okAnswer .abandonOrder tag
            (beBytes 2 number ++ byteOf c.val :: (beBytes 2 o.roll ++ beBytes 5 o.rollTag)))) ∧
      (s.Serves .cancelOrder tag (beBytes 2 number) rest →
        o.state = .laden ∨ o.state = .unloading ∨ o.state = .done ∨ o.state = .cancelled →
        exec .cancelOrder s = .next ((s.unqueued rest).refusal .cancelOrder tag .wrongState)) ∧
      (s.Serves .abandonOrder tag (beBytes 2 number) rest → o.state ≠ .laden → o.state ≠ .unloading →
        exec .abandonOrder s = .next ((s.unqueued rest).refusal .abandonOrder tag .wrongState))) ∧
    (s.Serves .cancelOrder tag (beBytes 2 number) rest →
      (number = 0 → exec .cancelOrder s = .next ((s.unqueued rest).refusal .cancelOrder tag .badField)) ∧
      (1 ≤ number → (∀ (b : OrderSlot) (x : Order), s.orders[b] = some x → x.number ≠ number) →
        exec .cancelOrder s = .next ((s.unqueued rest).refusal .cancelOrder tag .notFound))) ∧
    (s.Serves .abandonOrder tag (beBytes 2 number) rest →
      (number = 0 → exec .abandonOrder s = .next ((s.unqueued rest).refusal .abandonOrder tag .badField)) ∧
      (1 ≤ number → (∀ (b : OrderSlot) (x : Order), s.orders[b] = some x → x.number ≠ number) →
        exec .abandonOrder s = .next ((s.unqueued rest).refusal .abandonOrder tag .notFound)))

/-- R45, R47, R65, R99: what an ended order held is released: one reservation of its lane, whose binding goes with the last, or its arm, RESERVED becoming EMPTY; and its vehicle is sent STAND_DOWN, leaves its wait and is IDLE, in the idle list unless it carries a roll. -/
def Obligations.EndedOrderReleasesPlaceAndVehicle : Prop :=
  ∀ s : State,
    (∀ l : LaneNo, 1 ≤ s.lanes[l].reservations →
      s.release (.lane l) = s.modLane l fun x =>
        { x with
          reservations := x.reservations - 1
          binding := if x.contents = [] ∧ x.reservations = 1 then none else x.binding }) ∧
    (∀ (n : StandNo) (a : Arm),
      s.release (.arm n a) = s.modArm n a fun x =>
        { x with reservation := none, status := if x.status = .reserved then .empty else x.status }) ∧
    s.release .exitBay = s ∧
    ∀ (v : VehicleNo) (number : Nat) (g : AisleNo),
      s.vehicles[v].state ≠ .faulted → s.vehicles[v].waiting = none ∨ s.vehicles[v].waiting = some (.tenure g) →
      s.standDown v number = { s with
        outbound := s.outbound ++ [⟨v, .standDown number⟩]
        vehicles := s.vehicles.set v { s.vehicles[v] with state := .idle, order := none, waiting := none }
        idle := if s.vehicles[v].roll = none then s.idle ++ [v] else s.idle
        aisles := if s.vehicles[v].waiting = none then s.aisles
          else s.aisles.set g { s.aisles[g] with waiting := s.aisles[g].waiting.filter fun w => w ≠ v } }

/-! ## The fleet link -/

/-- R103, R184: a complete frame with a good check sum from a fitted vehicle enters the receive buffer in READY, and is discarded otherwise; a frame with a bad length or check sum is dropped; and the bytes of the line may arrive in any pieces. R101: the frame of an instruction is such a frame, of at most 13 bytes, and the end of the head instruction's own frame takes it from the queue, frees its place and may pair. R107: a frame that a floor reset left to be finished ends before it, and its end changes nothing else. That pairing ends the event (assumption log 4) and that this frame is on the line ahead of the queue's head (assumption log 14) are the model's readings. -/
def Obligations.FleetLinkFramesAndQueue : Prop :=
  (∀ (s : State) (v : VehicleNo) (kind check : Byte) (fields : List Byte), s.lineBytes = [] →
    fields.length ≤ 11 → byteOf (fields.length + 2) + byteOf v.val + kind + fields.sum + check = 0 →
    let frame := 0x7E :: byteOf (fields.length + 2) :: byteOf v.val :: kind :: (fields ++ [check])
    (s.device = .ready → v.val < s.working.fleet.fitted → s.received.length < 8 →
      exec (.fleetFrame frame) s = .next { s with received := s.received ++ [⟨v, kind, fields⟩] }) ∧
    (s.device ≠ .ready ∨ s.working.fleet.fitted ≤ v.val ∨ 8 ≤ s.received.length →
      exec (.fleetFrame frame) s = .next s)) ∧
  (∀ (s : State) (n : Nat) (body : List Byte), s.lineBytes = [] → n < 256 → n ≠ 0x7E → body.length = n + 1 →
    0x7E ∉ body → n < 2 ∨ 13 < n ∨ byteOf n + body.sum ≠ 0 →
    exec (.fleetFrame (0x7E :: byteOf n :: body)) s = .next s) ∧
  (∀ (s t : State) (bytes more : List Byte), exec (.fleetFrame bytes) s = .next t →
    exec (.fleetFrame more) t = exec (.fleetFrame (bytes ++ more)) s) ∧
  (∀ i : Instruction, ∃ (body : List Byte) (check : Byte),
    i.frame = 0x7E :: byteOf body.length :: (body ++ [check]) ∧
    byteOf body.length + body.sum + check = 0 ∧ body.head? = some (byteOf i.vehicle.val) ∧
    2 ≤ body.length ∧ body.length ≤ 13) ∧
  (∀ s : State, s.finishing = none →
    exec .instructionSent s = .next (State.pair { s with outbound := s.outbound.tail }) ∧
    (s.waiting = [] ∨ s.idle = [] → exec .instructionSent s = .next { s with outbound := s.outbound.tail })) ∧
  ∀ (s : State) (i : Instruction), s.finishing = some i →
    exec .instructionSent s = .next { s with finishing := none }

/-- R90, R91, R185: a report of an unknown kind, a wrong length or a field out of its range is refused with BAD_FIELD; every report but ONLINE from an OFFLINE vehicle, and AT_PLACE, PICKED, DROPPED and PARK from a FAULTED one, with NOT_ACCEPTED; AT_PLACE from an IDLE vehicle, and DROPPED from one in IDLE, OUTBOUND, LOADING or LADEN, with NO_ORDER. R105: while fewer than 4 outbound places are free, the frames wait. That pairing ends the event is the model's reading (assumption log 4). -/
def Obligations.BadReportsRefused : Prop :=
  (∀ (s : State) (v : VehicleNo) (kind : Byte) (fields : List Byte) (rest : List FleetFrame),
    s.Takes v kind fields rest →
    (kind = 0 ∨ 8 < kind.toNat ∨ ((kind = 4 ∨ kind = 5 ∨ kind = 6 ∨ kind = 8) ∧ fields ≠ []) ∨
        (kind = 1 ∧ (fields.length ≠ 7 ∨ 3 < num fields 0 1 ∨ (2 ≤ num fields 0 1 ∧ 7 < num fields 6 1) ∨
          (num fields 0 1 % 2 = 1 ∧ (num fields 1 5 = 0 ∨ 9999999999 < num fields 1 5)))) ∨
        (kind = 2 ∧ (fields.length ≠ 2 ∨ 4 < num fields 0 1 ∨ (num fields 0 1 = 1 ∧ 31 < num fields 1 1) ∨
          ((num fields 0 1 = 2 ∨ num fields 0 1 = 3) ∧ 7 < num fields 1 1))) ∨
        (kind = 3 ∧ (fields.length ≠ 5 ∨ num fields 0 5 = 0 ∨ 9999999999 < num fields 0 5)) ∨
        (kind = 7 ∧ (fields.length ≠ 1 ∨ num fields 0 1 = 0)) →
      exec .unknownReport s = .next (s.reportRefused v kind rest .badField)) ∧
    (let x := s.vehicles[v].state
     (∀ p : Place, (∀ w, p ≠ .vehicle w) → kind = 2 → fields = p.bytes →
       (x = .offline ∨ x = .faulted → exec .atPlace s = .next (s.reportRefused v kind rest .notAccepted)) ∧
       (x = .idle → exec .atPlace s = .next (s.reportRefused v kind rest .noOrder))) ∧
     (kind = 3 → fields.length = 5 → 1 ≤ num fields 0 5 → num fields 0 5 ≤ 9999999999 →
       x = .offline ∨ x = .faulted → exec .picked s = .next (s.reportRefused v kind rest .notAccepted)) ∧
     (kind = 4 → fields = [] →
       (x = .offline ∨ x = .faulted → exec .dropped s = .next (s.reportRefused v kind rest .notAccepted)) ∧
       (x = .idle ∨ x = .outbound ∨ x = .loading ∨ x = .laden →
         exec .dropped s = .next (s.reportRefused v kind rest .noOrder))) ∧
     (kind = 5 → fields = [] → x = .offline →
       exec .clear s = .next (s.reportRefused v kind rest .notAccepted)) ∧
     (kind = 6 → fields = [] → x = .offline ∨ x = .faulted →
       exec .park s = .next (s.reportRefused v kind rest .notAccepted)) ∧
     (kind = 7 → fields.length = 1 → 1 ≤ num fields 0 1 → x = .offline →
       exec .fault s = .next (s.reportRefused v kind rest .notAccepted)) ∧
     (kind = 8 → fields = [] → x = .offline →
       exec .offline s = .next (s.reportRefused v kind rest .notAccepted)))) ∧
  ∀ (s : State) (c : Instr),
    c ∈ [Instr.unknownReport, .online, .atPlace, .picked, .dropped, .clear, .park, .fault, .offline] →
    s.received = [] ∨ s.outboundFree < 4 → exec c s = .next s

/-- R92, R120: ONLINE from an OFFLINE vehicle with the tag of the roll it carries, or without one when it carries none, makes it IDLE with ACK, in the idle list unless it carries a roll, and PARKED in a FREE aisle it names; a wrong or missing tag and a taken aisle are refused, the tag first. R93: ONLINE from a FAULTED vehicle with the right tag restores its state, with ACK and RESUME, whatever aisle it names. From every other state it is refused. That pairing ends the event is the model's reading (assumption log 4). -/
def Obligations.OnlineBringsVehicleBack : Prop :=
  ∀ (s : State) (v : VehicleNo) (rest : List FleetFrame) (presence aisle : Byte) (tagBytes : List Byte),
    s.Takes v 1 (presence :: (tagBytes ++ [aisle])) rest → tagBytes.length = 5 → presence.toNat ≤ 3 →
    (2 ≤ presence.toNat → aisle.toNat < 8) →
    (presence.toNat % 2 = 1 → ∃ t, tagBytes = beBytes 5 t ∧ 1 ≤ t ∧ t ≤ 9999999999) →
    let x := s.vehicles[v]
    let right := (x.roll = none ∧ presence.toNat % 2 = 0) ∨
      ∃ (k : Nat) (r : Roll), x.roll = some k ∧ s.roll? k = some r ∧ presence.toNat % 2 = 1 ∧ tagBytes = beBytes 5 r.tag ∧
        r.tag ≤ 9999999999
    let wrong := (x.roll = none ∧ presence.toNat % 2 = 1) ∨
      ∃ (k : Nat) (r : Roll), x.roll = some k ∧ s.roll? k = some r ∧
        (presence.toNat % 2 = 0 ∨ ∃ t, tagBytes = beBytes 5 t ∧ t ≤ 9999999999 ∧ t ≠ r.tag)
    (x.state = .offline ∨ x.state = .faulted → wrong →
      exec .online s = .next (s.reportRefused v 1 rest .wrongRoll)) ∧
    (x.state = .offline → right →
      let back : State := { s with
        received := rest
        vehicles := s.vehicles.set v { x with state := .idle }
        idle := if x.roll = none then s.idle ++ [v] else s.idle
        outbound := s.outbound ++ [⟨v, .ack 1⟩] }
      (presence.toNat < 2 → exec .online s = .next back.pair) ∧
      ∀ g : AisleNo, 2 ≤ presence.toNat → aisle = byteOf g.val →
        (s.aisles[g].mode = .free → exec .online s = .next (State.pair { back with
          aisles := s.aisles.set g ⟨some v, .parked, [], .none⟩ })) ∧
        (s.aisles[g].mode ≠ .free → exec .online s = .next (s.reportRefused v 1 rest .aisleTaken))) ∧
    (∀ (before : VehicleState) (number : Nat), x.state = .faulted → right → x.beforeFault = some before →
      ((x.order = none ∧ number = 0) ∨
        ∃ (c : OrderSlot) (o : Order), x.order = some c ∧ s.orders[c] = some o ∧ number = o.number) →
      exec .online s = .next (State.pair { s with
        received := rest
        vehicles := s.vehicles.set v { x with state := before, beforeFault := none }
        idle := if before = .idle ∧ x.roll = none then s.idle ++ [v] else s.idle
        outbound := s.outbound ++ [⟨v, .ack 1⟩, ⟨v, .resume number⟩] })) ∧
    (x.state ≠ .offline → x.state ≠ .faulted →
      exec .online s = .next (s.reportRefused v 1 rest .notAccepted))

/-- R97: FAULT stops the vehicle, ends its wait, takes it from the idle list, posts VEHICLE_FAULT and marks its order stalled with ORDER_STALLED; a second one renews the code. R98, R112, R113: OFFLINE from a vehicle without an order ends its service and its tenure, the aisle becoming FREE or going to the head of its waiting list with GRANT behind the ACK; with an order it is refused with ORDER_OPEN. That pairing ends the event is the model's reading (assumption log 4). -/
def Obligations.FaultAndOfflineReports : Prop :=
  (∀ (s : State) (v : VehicleNo) (rest : List FleetFrame) (code : Nat) (aisles : Vector Aisle 8),
    s.Takes v 7 [byteOf code] rest → 1 ≤ code → code ≤ 255 →
    let x := s.vehicles[v]
    let told := postInto s.notices (.vehicleFault v) (.faultCode code)
    (x.state = .faulted → exec .fault s = .next (State.pair { s with
      received := rest
      vehicles := s.vehicles.set v { x with faultCode := code }
      notices := told
      outbound := s.outbound ++ [⟨v, .ack 7⟩] })) ∧
    (x.state ≠ .faulted → x.state ≠ .offline →
      ((x.waiting = none ∧ aisles = s.aisles) ∨
        (∃ (n : StandNo) (a : Arm), x.waiting = some (.armBusy n a) ∧ aisles = s.aisles) ∨
        ∃ g : AisleNo, x.waiting = some (.tenure g) ∧ aisles = s.aisles.set g
          { s.aisles[g] with waiting := s.aisles[g].waiting.filter fun w => w ≠ v }) →
      let stopped : State := { s with
        received := rest
        vehicles := s.vehicles.set v { x with
          state := .faulted, beforeFault := some x.state, faultCode := code, waiting := none }
        idle := s.idle.filter fun w => w ≠ v
        aisles := aisles
        notices := told
        outbound := s.outbound ++ [⟨v, .ack 7⟩] }
      (x.order = none → exec .fault s = .next stopped.pair) ∧
      ∀ (k : OrderSlot) (o : Order), x.order = some k → s.orders[k] = some o →
        exec .fault s = .next (State.pair { stopped with
          orders := s.orders.set k (some { o with stalled := true })
          notices := postInto told (.orderStalled k) (.order o.number) }))) ∧
  ∀ (s : State) (v : VehicleNo) (rest : List FleetFrame), s.Takes v 8 [] rest →
    let x := s.vehicles[v]
    let limit := s.working.fleet.tenureLimit
    let loaded : Counter := if limit = 0 then .none else .running limit
    let gone : State := { s with
      received := rest
      vehicles := s.vehicles.set v { x with state := .offline, beforeFault := none, faultCode := 0 }
      idle := s.idle.filter fun w => w ≠ v
      outbound := s.outbound ++ [⟨v, .ack 8⟩] }
    (x.state = .idle ∨ (x.state = .faulted ∧ x.order = none) →
      (s.HoldsNone v → exec .offline s = .next gone.pair) ∧
      ∀ g : AisleNo, s.HoldsOnly v g →
        (s.aisles[g].waiting = [] → exec .offline s = .next (State.pair { gone with
          aisles := s.aisles.set g ⟨none, .free, [], .none⟩ })) ∧
        ∀ (w : VehicleNo) (ws : List VehicleNo), w ≠ v → s.aisles[g].waiting = w :: ws →
          let granted : State := { gone with
            aisles := s.aisles.set g ⟨some w, .working, ws, loaded⟩
            vehicles := gone.vehicles.set w { s.vehicles[w] with waiting := none }
            outbound := s.outbound ++ [⟨v, .ack 8⟩, ⟨w, .grant g⟩] }
          (s.vehicles[w].state = .loading ∨ s.vehicles[w].state = .unloading →
            exec .offline s = .next granted.pair) ∧
          ∀ (k : OrderSlot) (o : Order) (vs : VehicleState) (os : OrderState),
            s.vehicles[w].order = some k → s.orders[k] = some o →
            ((s.vehicles[w].state = .outbound ∧ vs = .loading ∧ os = .loading) ∨
              (s.vehicles[w].state = .laden ∧ vs = .unloading ∧ os = .unloading)) →
            exec .offline s = .next (State.pair { granted with
              orders := s.orders.set k (some { o with state := os })
              vehicles := gone.vehicles.set w { s.vehicles[w] with state := vs, waiting := none } })) ∧
    (x.state = .outbound ∨ x.state = .loading ∨ x.state = .laden ∨ x.state = .unloading ∨
        (x.state = .faulted ∧ x.order ≠ none) →
      exec .offline s = .next (s.reportRefused v 8 rest .orderOpen))

/-- R71, R73, R94, R95, R111: AT_PLACE at the place of the leg. Outside the aisles it ends the drive with ACK, but for an arm not RESERVED to the order, where the vehicle waits. At a lane of an aisle the vehicle does not hold, the arbiter grants a FREE aisle, calls off a PARKED holder, or lets the vehicle wait by its class; its own holder is granted the aisle anew with the counter reloaded while it drives, and answered with ACK once it is LOADING or UNLOADING. A grant ends the drive of an OUTBOUND or LADEN vehicle and leaves the order of a LOADING or UNLOADING one. Another place and a tenure of another aisle are refused. That pairing ends the event is the model's reading (assumption log 4). WAIT at every arm that is not RESERVED to the order is the model's choice (assumption log 17). -/
def Obligations.ArrivalAtPlace : Prop :=
  ∀ (s : State) (v : VehicleNo) (rest : List FleetFrame) (p : Place) (k : OrderSlot) (o : Order),
    s.Takes v 2 p.bytes rest → (∀ w, p ≠ .vehicle w) → s.vehicles[v].order = some k →
    s.orders[k] = some o →
    let x := s.vehicles[v]
    let limit := s.working.fleet.tenureLimit
    let loaded : Counter := if limit = 0 then .none else .running limit
    let driven : VehicleState → OrderState → Prop := fun vs os =>
      (x.state = .outbound ∧ o.source = p ∧ vs = .loading ∧ os = .loading) ∨
        (x.state = .laden ∧ o.dest = p ∧ vs = .unloading ∧ os = .unloading)
    let arrived : VehicleState → OrderState → Prop := fun vs os =>
      vs = x.state ∧ os = o.state ∧ ((x.state = .loading ∧ o.source = p) ∨ (x.state = .unloading ∧ o.dest = p))
    (∀ (vs : VehicleState) (os : OrderState), driven vs os →
      ((∀ l : LaneNo, p ≠ .lane l) →
        (∀ (n : StandNo) (a : Arm), p = .arm n a → x.state = .outbound ∨
          ((s.stands[n].arm a).status = .reserved ∧ (s.stands[n].arm a).reservation = some k)) →
        exec .atPlace s = .next (State.pair { s with
          received := rest
          orders := s.orders.set k (some { o with state := os })
          vehicles := s.vehicles.set v { x with state := vs }
          outbound := s.outbound ++ [⟨v, .ack 2⟩] })) ∧
      (∀ (n : StandNo) (a : Arm), p = .arm n a → x.state = .laden →
        (s.stands[n].arm a).status ≠ .reserved ∨ (s.stands[n].arm a).reservation ≠ some k →
        exec .atPlace s = .next (State.pair { s with
          received := rest
          vehicles := s.vehicles.set v { x with waiting := some (.armBusy n a) }
          outbound := s.outbound ++ [⟨v, .waitArm n a⟩] }))) ∧
    (∀ (vs : VehicleState) (os : OrderState) (l : LaneNo) (g : AisleNo),
      driven vs os ∨ arrived vs os → p = .lane l → s.working.lanes[l].aisle = g →
      let a := s.aisles[g]
      let granted : AisleMode → State := fun mode => { s with
        received := rest
        aisles := s.aisles.set g { a with holder := some v, mode := mode, counter := loaded }
        orders := s.orders.set k (some { o with state := os })
        vehicles := s.vehicles.set v { x with state := vs, waiting := none }
        outbound := s.outbound ++ [⟨v, .grant g⟩] }
      (s.HoldsNone v →
        let waits : List VehicleNo → State := fun list => { s with
          received := rest
          aisles := s.aisles.set g { a with waiting := list }
          vehicles := s.vehicles.set v { x with waiting := some (.tenure g) }
          outbound := s.outbound ++ [⟨v, .waitTenure g⟩] }
        let urgent := fun w => decide (s.classOf w = .urgent)
        (a.mode = .free → exec .atPlace s = .next (granted .working).pair) ∧
        (∀ w, a.mode = .parked → a.holder = some w → a.waiting = [] →
          exec .atPlace s = .next (State.pair { waits [] with
            aisles := s.aisles.set g { a with mode := .calledOff, counter := loaded, waiting := [v] }
            outbound := s.outbound ++ [⟨v, .waitTenure g⟩, ⟨w, .leave g⟩] })) ∧
        (a.mode = .working ∨ a.mode = .calledOff →
          (v ∈ a.waiting → exec .atPlace s = .next (State.pair (waits a.waiting))) ∧
          (v ∉ a.waiting → o.kind.cls = .normal →
            exec .atPlace s = .next (State.pair (waits (a.waiting ++ [v])))) ∧
          (v ∉ a.waiting → o.kind.cls = .urgent →
            exec .atPlace s = .next (State.pair
              (waits (a.waiting.takeWhile urgent ++ v :: a.waiting.dropWhile urgent)))))) ∧
      (s.HoldsOnly v g →
        (x.state = .outbound ∨ x.state = .laden →
          (a.mode = .parked → exec .atPlace s = .next (granted .working).pair) ∧
          (a.mode = .working ∨ a.mode = .calledOff → exec .atPlace s = .next (granted a.mode).pair)) ∧
        (x.state = .loading ∨ x.state = .unloading → a.mode = .working ∨ a.mode = .calledOff →
          exec .atPlace s = .next (State.pair { s with
            received := rest
            outbound := s.outbound ++ [⟨v, .ack 2⟩] }))) ∧
      ∀ h : AisleNo, s.HoldsOnly v h → h ≠ g →
        exec .atPlace s = .next (s.reportRefused v 2 rest .tenureHeld)) ∧
    ((x.state = .loading ∧ o.source = p) ∨ (x.state = .unloading ∧ o.dest = p) →
      (∀ l : LaneNo, p ≠ .lane l) → exec .atPlace s = .next (State.pair { s with
        received := rest
        outbound := s.outbound ++ [⟨v, .ack 2⟩] })) ∧
    ((x.state = .outbound ∨ x.state = .loading) ∧ o.source ≠ p ∨
        (x.state = .laden ∨ x.state = .unloading) ∧ o.dest ≠ p →
      exec .atPlace s = .next (s.reportRefused v 2 rest .wrongPlace))

/-- R22, R72, R95, R119, R140: an accepted PICKED makes the roll CARRIED and order and vehicle LADEN, with ACK; the dock, the lane front or the arm is released, a vehicle that waits at the arm is sent RESUME, and the feed demand list is examined after a lane or an arm. A wrong tag, a missing tenure, an empty lane and another front are refused. That pairing ends the event is the model's reading (assumption log 4). -/
def Obligations.PickTakesTheRoll : Prop :=
  ∀ (s : State) (v : VehicleNo) (rest : List FleetFrame) (t : Nat), s.Takes v 3 (beBytes 5 t) rest →
    1 ≤ t → t ≤ 9999999999 →
    (∀ (k : OrderSlot) (o : Order) (r : Roll), s.vehicles[v].state = .loading → s.vehicles[v].order = some k →
      s.orders[k] = some o → s.roll? o.roll = some r →
      let x := s.vehicles[v]
      let picked : State := { s with
        received := rest
        rolls := tableModify s.rolls o.roll fun y => { y with state := .carried, location := .vehicle v }
        vehicles := s.vehicles.set v { x with roll := some o.roll, state := .laden }
        orders := s.orders.set k (some { o with state := .laden })
        outbound := s.outbound ++ [⟨v, .ack 3⟩] }
      (r.tag ≠ t → exec .picked s = .next (s.reportRefused v 3 rest .wrongRoll)) ∧
      (r.tag = t →
        (o.source = .dock →
          exec .picked s = .next (State.pair { picked with dock := s.dock.filter fun j => j ≠ o.roll })) ∧
        (∀ l : LaneNo, o.source = .lane l →
          (s.aisles[s.working.lanes[l].aisle].holder ≠ some v →
            exec .picked s = .next (s.reportRefused v 3 rest .noTenure)) ∧
          (s.aisles[s.working.lanes[l].aisle].holder = some v →
            (s.lanes[l].contents = [] → exec .picked s = .next (s.reportRefused v 3 rest .noOrder)) ∧
            (∀ front tail, s.lanes[l].contents = front :: tail → front ≠ o.roll →
              exec .picked s = .next (s.reportRefused v 3 rest .wrongRoll)) ∧
            ∀ tail, s.lanes[l].contents = o.roll :: tail →
              exec .picked s = .next (State.pair (State.examine { picked with
                lanes := s.lanes.set l { s.lanes[l] with
                  contents := tail
                  binding := if tail = [] ∧ s.lanes[l].reservations = 0 then none
                    else s.lanes[l].binding } })))) ∧
        (∀ (n : StandNo) (a : Arm), o.source = .arm n a →
          let emptied := s.stands.set n (s.stands[n].setArm a
            { status := if (s.stands[n].arm a).reservation = none then .empty else .reserved
              roll := none
              reservation := (s.stands[n].arm a).reservation })
          ((∀ w : VehicleNo, s.vehicles[w].waiting ≠ some (.armBusy n a)) →
            exec .picked s = .next (State.pair (State.examine { picked with stands := emptied }))) ∧
          ∀ (w : VehicleNo) (c : OrderSlot) (q : Order), w ≠ v →
            (∀ u : VehicleNo, s.vehicles[u].waiting = some (.armBusy n a) ↔ u = w) →
            s.vehicles[w].order = some c → s.orders[c] = some q →
            exec .picked s = .next (State.pair (State.examine { picked with
              stands := emptied
              vehicles := (s.vehicles.set w { s.vehicles[w] with waiting := none }).set v
                { x with roll := some o.roll, state := .laden }
              outbound := s.outbound ++ [⟨v, .ack 3⟩, ⟨w, .resume q.number⟩] }))))) ∧
    (s.vehicles[v].state = .idle ∨ s.vehicles[v].state = .outbound ∨ s.vehicles[v].state = .laden ∨
        s.vehicles[v].state = .unloading →
      exec .picked s = .next (s.reportRefused v 3 rest .noOrder))

/-- R47, R74, R119, R139: an accepted DROPPED completes the order. The roll is stored at the back of the lane and one reservation consumed, or is the standby of its arm, READY when it matches the plan, MISMATCH with its notice otherwise, starting the splice of a stand in SPLICE_DUE, or is retired at the exit bay. The order is DONE with ORDER_DONE, the vehicle IDLE with ACK, and the feed demand list examined. That pairing ends the event is the model's reading (assumption log 4). -/
def Obligations.DropCompletesTheOrder : Prop :=
  ∀ (s : State) (v : VehicleNo) (rest : List FleetFrame) (k : OrderSlot) (o : Order) (r : Roll),
    s.Takes v 4 [] rest → s.vehicles[v].state = .unloading → s.vehicles[v].order = some k →
    s.orders[k] = some o → s.roll? o.roll = some r →
    let late := o.late || decide (o.deadline = .expired)
    let done : List Notice → State := fun notices => { s with
      received := rest
      orders := s.orders.set k (some { o with state := .done, vehicle := none, late := late, deadline := .none })
      vehicles := s.vehicles.set v { s.vehicles[v] with roll := none, order := none, state := .idle }
      idle := s.idle ++ [v]
      notices := postInto notices (.orderDone k) (.orderDone o.number late)
      outbound := s.outbound ++ [⟨v, .ack 4⟩] }
    (o.dest = .exitBay →
      exec .dropped s = .next (State.pair (State.examine { done s.notices with
        rolls := tableErase s.rolls o.roll }))) ∧
    (∀ l : LaneNo, o.dest = .lane l →
      (s.aisles[s.working.lanes[l].aisle].holder = some v →
        exec .dropped s = .next (State.pair (State.examine { done s.notices with
          rolls := tableModify s.rolls o.roll fun x =>
            { x with state := .stored, location := .lane l, claim := none }
          lanes := s.lanes.set l { s.lanes[l] with
            contents := s.lanes[l].contents ++ [o.roll]
            reservations := s.lanes[l].reservations - 1 } }))) ∧
      (s.aisles[s.working.lanes[l].aisle].holder ≠ some v →
        exec .dropped s = .next (s.reportRefused v 4 rest .noTenure))) ∧
    ∀ (n : StandNo) (a : Arm), o.dest = .arm n a →
      let rolls := tableModify s.rolls o.roll fun x =>
        { x with state := .standby, location := .arm n a, claim := none }
      let arm : ArmStatus → Stand := fun status => s.stands[n].setArm a ⟨status, some o.roll, none⟩
      (s.requirement n ≠ some ⟨r.grade, r.width⟩ →
        exec .dropped s = .next (State.pair (State.examine
          { done (postInto s.notices (.standbyMismatch n) (.tag r.tag)) with
            rolls := rolls
            stands := s.stands.set n (arm .mismatch) }))) ∧
      (s.requirement n = some ⟨r.grade, r.width⟩ →
        (s.stands[n].state ≠ .spliceDue →
          exec .dropped s = .next (State.pair (State.examine { done s.notices with
            rolls := rolls
            stands := s.stands.set n (arm .ready) }))) ∧
        (s.stands[n].state = .spliceDue → s.stands[n].running = some a.other →
          exec .dropped s = .next (State.pair (State.examine { done s.notices with
            rolls := rolls
            stands := s.stands.set n { arm .ready with
              state := .splicing
              window := s.working.stands[n].spliceWindow } }))))

/-- R96, R112, R113: CLEAR from the holder of an aisle is answered with ACK, and the aisle becomes FREE or goes to the head of its waiting list with GRANT. R114, R115: PARK from an IDLE holder makes the aisle PARKED, or CALLED_OFF with LEAVE while vehicles wait. Without tenure both are refused with NO_TENURE, and PARK with an order with ORDER_OPEN. That pairing ends the event is the model's reading (assumption log 4). -/
def Obligations.ClearAndParkReports : Prop :=
  (∀ (s : State) (v : VehicleNo) (rest : List FleetFrame), s.Takes v 5 [] rest →
    s.vehicles[v].state ≠ .offline →
    let limit := s.working.fleet.tenureLimit
    let loaded : Counter := if limit = 0 then .none else .running limit
    (s.HoldsNone v → exec .clear s = .next (s.reportRefused v 5 rest .noTenure)) ∧
    ∀ g : AisleNo, s.HoldsOnly v g →
      (s.aisles[g].waiting = [] → exec .clear s = .next (State.pair { s with
        received := rest
        aisles := s.aisles.set g ⟨none, .free, [], .none⟩
        outbound := s.outbound ++ [⟨v, .ack 5⟩] })) ∧
      ∀ (w : VehicleNo) (ws : List VehicleNo), s.aisles[g].waiting = w :: ws →
        let granted : State := { s with
          received := rest
          aisles := s.aisles.set g ⟨some w, .working, ws, loaded⟩
          vehicles := s.vehicles.set w { s.vehicles[w] with waiting := none }
          outbound := s.outbound ++ [⟨v, .ack 5⟩, ⟨w, .grant g⟩] }
        (s.vehicles[w].state = .loading ∨ s.vehicles[w].state = .unloading →
          exec .clear s = .next granted.pair) ∧
        ∀ (k : OrderSlot) (o : Order) (vs : VehicleState) (os : OrderState),
          s.vehicles[w].order = some k → s.orders[k] = some o →
          ((s.vehicles[w].state = .outbound ∧ vs = .loading ∧ os = .loading) ∨
            (s.vehicles[w].state = .laden ∧ vs = .unloading ∧ os = .unloading)) →
          exec .clear s = .next (State.pair { granted with
            orders := s.orders.set k (some { o with state := os })
            vehicles := s.vehicles.set w { s.vehicles[w] with state := vs, waiting := none } })) ∧
  ∀ (s : State) (v : VehicleNo) (rest : List FleetFrame), s.Takes v 6 [] rest →
    (s.vehicles[v].state = .outbound ∨ s.vehicles[v].state = .loading ∨ s.vehicles[v].state = .laden ∨
        s.vehicles[v].state = .unloading →
      exec .park s = .next (s.reportRefused v 6 rest .orderOpen)) ∧
    (s.vehicles[v].state = .idle →
      (s.HoldsNone v → exec .park s = .next (s.reportRefused v 6 rest .noTenure)) ∧
      ∀ g : AisleNo, s.HoldsOnly v g →
        (s.aisles[g].waiting = [] → exec .park s = .next (State.pair { s with
          received := rest
          aisles := s.aisles.set g { s.aisles[g] with mode := .parked, counter := .none }
          outbound := s.outbound ++ [⟨v, .ack 6⟩] })) ∧
        (s.aisles[g].waiting ≠ [] → exec .park s = .next (State.pair { s with
          received := rest
          aisles := s.aisles.set g { s.aisles[g] with mode := .calledOff }
          outbound := s.outbound ++ [⟨v, .ack 6⟩, ⟨v, .leave g⟩] })))

/-! ## Hall seconds -/

/-- R75, R76, R117, R118: a REFCLK edge adds the increment; one that carries is a tick, which counts every running deadline and tenure counter down by 1, expires those that reach 0 with ORDER_STALLED or AISLE_BLOCKED, and changes no other record. -/
def Obligations.RefclkEdgeTicksCounters : Prop :=
  ∀ s : State,
    (s.hallAccumulator + s.hallIncrement < 4294967296 →
      exec .refclkEdge s = .next { s with hallAccumulator := s.hallAccumulator + s.hallIncrement }) ∧
    (4294967296 ≤ s.hallAccumulator + s.hallIncrement → ∃ t, exec .refclkEdge s = .next t ∧
      t.hallAccumulator = s.hallAccumulator + s.hallIncrement - 4294967296 ∧
      { t with
        hallAccumulator := s.hallAccumulator, orders := s.orders, aisles := s.aisles,
        notices := s.notices } = s ∧
      (∀ k : OrderSlot, s.orders[k] = none → t.orders[k] = none) ∧
      (∀ (k : OrderSlot) (o : Order), s.orders[k] = some o →
        ((∀ left, o.deadline ≠ .running left) → t.orders[k] = some o) ∧
        ∀ left, o.deadline = .running left →
          (2 ≤ left → t.orders[k] = some { o with deadline := .running (left - 1) }) ∧
          (left ≤ 1 → t.orders[k] = some { o with deadline := .expired, stalled := true } ∧
            ∃ e ∈ t.notices, e.key = .orderStalled k ∧ e.detail = .order o.number)) ∧
      (∀ g : AisleNo,
        ((∀ left, s.aisles[g].counter ≠ .running left) → t.aisles[g] = s.aisles[g]) ∧
        ∀ left, s.aisles[g].counter = .running left →
          (2 ≤ left → t.aisles[g] = { s.aisles[g] with counter := .running (left - 1) }) ∧
          (left ≤ 1 → t.aisles[g] = { s.aisles[g] with counter := .expired } ∧
            ∀ v, s.aisles[g].holder = some v →
              ∃ e ∈ t.notices, e.key = .aisleBlocked g ∧ e.detail = .vehicle v)) ∧
      ((∀ (k : OrderSlot) (o : Order) (left : Nat), s.orders[k] = some o → o.deadline = .running left → 2 ≤ left) →
        (∀ (g : AisleNo) (left : Nat), s.aisles[g].counter = .running left → 2 ≤ left) →
        t.notices = s.notices))

/-- The model's choice (assumption log 6): HALL_SECOND_TICK is the REFCLK edges up to and including the first that carries, and ORDER_DEADLINE_EXPIRY and TENURE_EXPIRY are the hall seconds up to the one at which that counter reaches 0, with its expiry as 04, 4.4 and 06, 6.5 state; a counter that is not running does not expire. -/
def Obligations.ExpiriesAreHallSeconds : Prop :=
  (∀ s : State, 1 ≤ s.hallIncrement → s.hallAccumulator < 4294967296 →
    ∃ m, s.hallAccumulator + m * s.hallIncrement < 4294967296 ∧
      4294967296 ≤ s.hallAccumulator + (m + 1) * s.hallIncrement ∧
      exec .hallSecondTick s = .next (State.refclk^[m + 1] s) ∧ exec .refclkEdge s = .next s.refclk) ∧
  (∀ (s : State) (k : OrderSlot) (o : Order) (left : Nat), 1 ≤ s.hallIncrement → s.orders[k] = some o →
    o.deadline = .running left → ∃ t, exec (.orderDeadlineExpiry k) s = .next t ∧
      t.orders[k] = some { o with deadline := .expired, stalled := true } ∧
      (∃ e ∈ t.notices, e.key = .orderStalled k ∧ e.detail = .order o.number) ∧
      { t with
        hallAccumulator := s.hallAccumulator, orders := s.orders, aisles := s.aisles,
        notices := s.notices } = s) ∧
  (∀ (s : State) (k : OrderSlot), (∀ o, s.orders[k] = some o → ∀ left, o.deadline ≠ .running left) →
    exec (.orderDeadlineExpiry k) s = .next s) ∧
  (∀ (s : State) (g : AisleNo) (v : VehicleNo) (left : Nat), 1 ≤ s.hallIncrement →
    s.aisles[g].counter = .running left → s.aisles[g].holder = some v →
    ∃ t, exec (.tenureExpiry g) s = .next t ∧ t.aisles[g] = { s.aisles[g] with counter := .expired } ∧
      (∃ e ∈ t.notices, e.key = .aisleBlocked g ∧ e.detail = .vehicle v) ∧
      { t with
        hallAccumulator := s.hallAccumulator, orders := s.orders, aisles := s.aisles,
        notices := s.notices } = s) ∧
  ∀ (s : State) (g : AisleNo), (∀ left, s.aisles[g].counter ≠ .running left) →
    exec (.tenureExpiry g) s = .next s

/-! ## The stands -/

/-- R127: HOLD TRACKING and RELEASE TRACKING set and clear the flag of a stand that is not OFF. R132, R134: SPLICE NOW in LOADED, SPLICE_DUE or SPLICE_HELD with a READY standby enters SPLICING with the full window, and is refused with WRONG_STATE otherwise. R133: the metre that brings the window to 0 ends SPLICING in SPLICE_HELD with SPLICE_FAILED; that SPLICE_WINDOW_EXPIRY stands for the metres up to it is the model's choice (assumption log 6). -/
def Obligations.TrackingHoldAndSpliceWindow : Prop :=
  (∀ (s : State) (tag : Byte) (rest : List Request) (n : StandNo),
    let st := s.stands[n]
    let window := s.working.stands[n].spliceWindow
    (s.Serves .holdTracking tag [byteOf n.val] rest →
      (st.state ≠ .off → exec .holdTracking s = .next ({ s.unqueued rest with
        stands := s.stands.set n { st with trackingHold := true } }.okAnswer .holdTracking tag [1])) ∧
      (st.state = .off →
        exec .holdTracking s = .next ((s.unqueued rest).refusal .holdTracking tag .wrongState))) ∧
    (s.Serves .releaseTracking tag [byteOf n.val] rest →
      (st.state ≠ .off → exec .releaseTracking s = .next ({ s.unqueued rest with
        stands := s.stands.set n { st with trackingHold := false } }.okAnswer .releaseTracking tag [0])) ∧
      (st.state = .off →
        exec .releaseTracking s = .next ((s.unqueued rest).refusal .releaseTracking tag .wrongState))) ∧
    (s.Serves .spliceNow tag [byteOf n.val] rest →
      (∀ a, st.state = .loaded ∨ st.state = .spliceDue ∨ st.state = .spliceHeld → st.running = some a →
        (st.arm a.other).status = .ready →
        exec .spliceNow s = .next ({ s.unqueued rest with
          stands := s.stands.set n { st with state := .splicing, window := window } }.okAnswer .spliceNow tag
          [byteOf window])) ∧
      (st.state = .off ∨ st.state = .empty ∨ st.state = .splicing ∨ st.state = .webOut ∨ st.running = none ∨
          (∃ a, st.running = some a ∧ (st.arm a.other).status ≠ .ready) →
        exec .spliceNow s = .next ((s.unqueued rest).refusal .spliceNow tag .wrongState)))) ∧
  (∀ (s : State) (n : StandNo), s.device ≠ .ready ∨ s.stands[n].trackingHold = true →
    exec (.spliceWindowExpiry n) s = .next s) ∧
  ∀ (s : State) (n : StandNo) (a : Arm) (k : Nat) (r : Roll), s.device = .ready →
    s.stands[n].state = .splicing → s.stands[n].trackingHold = false → s.stands[n].running = some a →
    (s.stands[n].arm a).roll = some k → s.roll? k = some r → 1 ≤ s.stands[n].window →
    s.stands[n].window < r.remaining → s.stands[n].callUpMark = 0 →
    ∃ t, exec (.spliceWindowExpiry n) s = .next t ∧ t.stands[n].state = .spliceHeld ∧
      t.stands[n].window = 0 ∧ t.spliceCommand n = false ∧
      t.roll? k = some { r with remaining := r.remaining - s.stands[n].window } ∧
      ∃ e ∈ t.notices, e.key = .spliceFailed n ∧ e.detail = .metres (r.remaining - s.stands[n].window)

/-- R128 to R131: the mark checks. The call-up check posts CALL_UP once and raises the demand when the feed arm is clear; the zero check takes the stand to WEB_OUT with its notice, comparing the standby anew out of SPLICING; the splice mark check starts the splice with a READY standby, and makes the stand SPLICE_DUE without one. Out of SPLICING, STANDBY_MISMATCH is posted before WEB_OUT, and a demand is examined at its raise inside the checks, at the end of a splice done too: the model's choices (assumption log 5). -/
def Obligations.MarkChecksOfRunningRoll : Prop :=
  ∀ (s : State) (n : StandNo) (r : Roll), s.runningRoll n = some r →
    let st := s.stands[n]
    let told := postInto s.notices (.webOut n) (.tag r.tag)
    (st.CallUpQuiet r.remaining →
      (0 < r.remaining ∨ st.state = .off ∨ st.state = .empty ∨ st.state = .webOut →
        st.SpliceQuiet r.remaining → s.markChecks n = s) ∧
      (r.remaining = 0 → st.state = .loaded ∨ st.state = .spliceDue ∨ st.state = .spliceHeld →
        s.markChecks n =
          { s with stands := s.stands.set n { st with state := .webOut }, notices := told }) ∧
      (∀ (a : Arm) (j : Nat) (q : Roll), r.remaining = 0 → st.state = .splicing → st.running = some a →
        (st.arm a.other).status = .ready → (st.arm a.other).roll = some j → s.roll? j = some q →
        (s.requirement n = some ⟨q.grade, q.width⟩ → s.markChecks n =
          { s with stands := s.stands.set n { st with state := .webOut }, notices := told }) ∧
        (s.requirement n ≠ some ⟨q.grade, q.width⟩ → s.markChecks n =
          { s with
            stands := s.stands.set n
              { st.setArm a.other { st.arm a.other with status := .mismatch } with state := .webOut }
            notices := postInto (postInto s.notices (.standbyMismatch n) (.tag q.tag)) (.webOut n)
              (.tag r.tag) })) ∧
      (∀ a : Arm, 0 < r.remaining → st.state = .loaded → st.spliceMark ≠ 0 → r.remaining ≤ st.spliceMark →
        st.running = some a →
        ((st.arm a.other).status = .ready → s.markChecks n = { s with
          stands := s.stands.set n
            { st with state := .splicing, window := s.working.stands[n].spliceWindow } }) ∧
        ((st.arm a.other).status ≠ .ready → s.markChecks n = { s with
          stands := s.stands.set n { st with state := .spliceDue } }))) ∧
    (¬ st.CallUpQuiet r.remaining → 0 < r.remaining → st.SpliceQuiet r.remaining →
      let called : State := { s with
        stands := s.stands.set n { st with callUpRaised := true }
        notices := postInto s.notices (.callUp n) (.metres r.remaining) }
      (s.feedArmClear n = false → s.markChecks n = called) ∧
      (s.feedArmClear n = true → s.openFeed n = none → n ∉ s.demand →
        s.markChecks n = (State.examine { called with demand := s.demand ++ [n] }).postShort n))

/-- R138: THREAD at an EMPTY stand promotes the named READY arm, or without a name the READY arm, A first; out of WEB_OUT it retires the old roll to STUB waste and promotes a READY standby, or leaves the stand EMPTY without one; every other case is refused with WRONG_STATE. That pairing ends the event is the model's reading (assumption log 4), that a demand the mark checks raise is examined inside them and again by the examination at the end its choice (assumption log 5). -/
def Obligations.ThreadPromotesOrClears : Prop :=
  ∀ (s : State) (tag : Byte) (rest : List Request) (n : StandNo) (named : Option Arm),
    s.Serves .thread tag [byteOf n.val, optArm named] rest →
    let st := s.stands[n]
    let run := fun j : Nat => tableModify s.rolls j fun x => { x with state := .running }
    let scrap := fun (r : Roll) (x : Job) => { x with stubWaste := min 4294967295 (x.stubWaste + r.remaining) }
    (∀ (a : Arm) (k : Nat), st.state = .empty → (st.arm a).status = .ready → (st.arm a).roll = some k →
      named = some a ∨ (named = none ∧ (a = .B → st.armA.status ≠ .ready)) →
      exec .thread s = .next ((State.pair (State.markChecks { s.unqueued rest with
          rolls := run k
          stands := s.stands.set n { st.setArm a { st.arm a with status := .running } with
            state := .loaded, running := some a, fraction := 0, callUpRaised := false } } n)).okAnswer
        .thread tag (Arm.code a :: [0, 0, 0, 0, 0]))) ∧
    (∀ (a : Arm) (k : Nat) (old : Roll), st.state = .webOut → st.running = some a →
      (st.arm a).roll = some k → s.roll? k = some old →
      (∀ (j : Nat) (r : Roll), (st.arm a.other).status = .ready → (st.arm a.other).roll = some j →
        s.roll? j = some r → named = none ∨ named = some a.other →
        exec .thread s = .next ((State.pair (State.examine (State.markChecks (State.charge { s.unqueued rest with
            rolls := tableErase (run j) k
            stands := s.stands.set n
              { (st.setArm a.other { st.arm a.other with status := .running }).setArm a ⟨.empty, none, none⟩ with
                state := .loaded, running := some a.other, fraction := 0, callUpRaised := false } }
            (scrap old)) n))).okAnswer .thread tag (Arm.code a.other :: beBytes 5 old.tag))) ∧
      ((st.arm a.other).status ≠ .ready → named = none →
        exec .thread s = .next ((State.pair (State.examine (State.charge { s.unqueued rest with
            rolls := tableErase s.rolls k
            stands := s.stands.set n { st.setArm a ⟨.empty, none, none⟩ with
              state := .empty, running := none, fraction := 0, callUpRaised := false } }
            (scrap old)))).okAnswer .thread tag (0xFF :: beBytes 5 old.tag))) ∧
      (named = some a ∨ ((st.arm a.other).status ≠ .ready ∧ named ≠ none) →
        exec .thread s = .next ((s.unqueued rest).refusal .thread tag .wrongState))) ∧
    ((st.state ≠ .empty ∧ st.state ≠ .webOut) ∨
        (st.state = .empty ∧ ∃ a, named = some a ∧ (st.arm a).status ≠ .ready) ∨
        (st.state = .empty ∧ named = none ∧ st.armA.status ≠ .ready ∧ st.armB.status ≠ .ready) →
      exec .thread s = .next ((s.unqueued rest).refusal .thread tag .wrongState))

/-- R13, R14, R142: STRIP takes at most the remaining length from the roll on the arm, charges what it removed to STRIP waste, and makes the mark checks when the arm is the running arm. R143: SET MARKS replaces the working marks, makes the mark checks and answers the state and the flag; a splice mark above a non-zero call-up mark is refused. A stand in OFF refuses both, a bad length or bad marks with BAD_FIELD first: the model's reading (assumption log 8). That pairing ends the event is its reading too (assumption log 4). -/
def Obligations.StripAndSetMarks : Prop :=
  (∀ (s : State) (tag : Byte) (rest : List Request) (n : StandNo) (a : Arm) (m : Nat),
    s.Serves .strip tag (byteOf n.val :: Arm.code a :: beBytes 2 m) rest → m ≤ 65535 →
    (m = 0 → exec .strip s = .next ((s.unqueued rest).refusal .strip tag .badField)) ∧
    (1 ≤ m → s.stands[n].state = .off ∨ (s.stands[n].arm a).roll = none →
      exec .strip s = .next ((s.unqueued rest).refusal .strip tag .wrongState)) ∧
    (1 ≤ m → s.stands[n].state ≠ .off → ∀ (k : Nat) (r : Roll), (s.stands[n].arm a).roll = some k →
      s.roll? k = some r →
      let cut := min m r.remaining
      let t := State.charge { s.unqueued rest with
          rolls := tableModify s.rolls k fun x => { x with remaining := x.remaining - min m x.remaining } }
        fun x => { x with stripWaste := min 4294967295 (x.stripWaste + cut) }
      let out := beBytes 2 cut ++ beBytes 2 (r.remaining - cut)
      (s.stands[n].running = some a →
        exec .strip s = .next (((t.markChecks n).pair).okAnswer .strip tag out)) ∧
      (s.stands[n].running ≠ some a → exec .strip s = .next (t.okAnswer .strip tag out)))) ∧
  ∀ (s : State) (tag : Byte) (rest : List Request) (n : StandNo) (callUp splice : Nat),
    s.Serves .setMarks tag (byteOf n.val :: (beBytes 2 callUp ++ beBytes 2 splice)) rest →
    callUp ≤ 65535 → splice ≤ 65535 →
    (callUp ≠ 0 → callUp < splice →
      exec .setMarks s = .next ((s.unqueued rest).refusal .setMarks tag .badField)) ∧
    (callUp = 0 ∨ splice ≤ callUp →
      (s.stands[n].state = .off →
        exec .setMarks s = .next ((s.unqueued rest).refusal .setMarks tag .wrongState)) ∧
      (s.stands[n].state ≠ .off →
        let t := State.markChecks { s.unqueued rest with
          stands := s.stands.set n { s.stands[n] with callUpMark := callUp, spliceMark := splice } } n
        exec .setMarks s = .next ((t.pair).okAnswer .setMarks tag
          [t.stands[n].state.code, flagByte t.stands[n].callUpRaised])))

/-- R7: a ROLLER pulse in READY gives a ROLLER-source stand its roller increment. R8, R9, R14, R126, R127, R133: a length input adds its millimetres to a stand that has a running roll and is not held; a full metre takes 1 m off the roll, or adds 1 to its overrun at 0, then makes the mark checks, adds 1 to the paper metres of the ACTIVE job when the stand is a member of its web plan, and in SPLICING takes 1 off the splice window, whose end makes the stand SPLICE_HELD with SPLICE_FAILED and compares its standby with the plan. That pairing ends the event is the model's reading (assumption log 4), that SPLICE_FAILED is posted before STANDBY_MISMATCH its choice (assumption log 5). -/
def Obligations.RollerPulseStepsStand : Prop :=
  (∀ (s : State) (n : StandNo),
    (s.device ≠ .ready ∨ s.working.stands[n].source = .copy → exec (.rollerPulse n) s = .next s) ∧
    (s.device = .ready → s.working.stands[n].source = .roller →
      exec (.rollerPulse n) s = .next (s.lengthInput n s.working.stands[n].rollerIncrement).pair)) ∧
  ∀ (s : State) (n : StandNo) (increment : Nat),
    let st := s.stands[n]
    let sum := st.fraction + increment
    (st.trackingHold = true ∨ s.runningRoll n = none → s.lengthInput n increment = s) ∧
    ∀ (a : Arm) (k : Nat) (r : Roll),
      st.trackingHold = false → st.running = some a → (st.arm a).roll = some k → s.roll? k = some r →
      (sum < 1000 →
        s.lengthInput n increment = { s with stands := s.stands.set n { st with fraction := sum } }) ∧
      (1000 ≤ sum →
        let stepped : State := { s with
          rolls := tableModify s.rolls k fun x =>
            if 0 < x.remaining then { x with remaining := x.remaining - 1 }
            else { x with overrun := min 255 (x.overrun + 1) }
          stands := s.stands.set n { st with fraction := sum - 1000 } }
        let checked := stepped.markChecks n
        let paid : State := match s.activeSlot with
          | none => checked
          | some j => if s.requirement n = none then checked else { checked with
              jobs := s.jobs.set j { s.jobs[j] with paper := min 4294967295 (s.jobs[j].paper + 1) } }
        (2 ≤ r.remaining ∨ (r.remaining = 0 ∧ st.state = .webOut) → st.CallUpQuiet (r.remaining - 1) →
          st.SpliceQuiet (r.remaining - 1) → checked = stepped) ∧
        (checked.stands[n].state ≠ .splicing → s.lengthInput n increment = paid) ∧
        (checked.stands[n].state = .splicing →
          (2 ≤ checked.stands[n].window → s.lengthInput n increment = { paid with
            stands := checked.stands.set n
              { checked.stands[n] with window := checked.stands[n].window - 1 } }) ∧
          ∀ (i : Nat) (q : Roll), checked.stands[n].window = 1 →
            (checked.stands[n].arm a.other).status = .ready →
            (checked.stands[n].arm a.other).roll = some i → s.roll? i = some q →
            let held : Stand := { checked.stands[n] with state := .spliceHeld, window := 0 }
            let failed := postInto checked.notices (.spliceFailed n) (.metres (r.remaining - 1))
            (s.requirement n = some ⟨q.grade, q.width⟩ → s.lengthInput n increment = { paid with
              stands := checked.stands.set n held, notices := failed }) ∧
            (s.requirement n ≠ some ⟨q.grade, q.width⟩ → s.lengthInput n increment = { paid with
              stands := checked.stands.set n
                (held.setArm a.other { held.arm a.other with status := .mismatch })
              notices := postInto failed (.standbyMismatch n) (.tag q.tag) })))

/-- R24, R135, R136, R157: an accepted splice done promotes the standby, deducts and charges the splice waste, counts the splice, and retires the old roll to STUB waste, or out of SPLICING above the stub threshold keeps it as a STUB with a RETURN order or STUB_STRANDED; SPLICE_DONE is posted and the stand LOADED. R137: any other pulse posts SPLICE_UNEXPECTED and changes nothing else. That pairing ends the event is the model's reading (assumption log 4). That a demand the mark checks raise is examined inside them, and its FEED_SHORT posted there, before WEB_OUT and before the examination that ends the splice done, is its choice (assumption log 5). -/
def Obligations.SplicedPulseCompletesSplice : Prop :=
  ∀ (s : State) (n : StandNo),
    let st := s.stands[n]
    let setting := s.working.stands[n]
    (s.device ≠ .ready → exec (.splicedPulse n) s = .next s) ∧
    (s.device = .ready →
      st.state = .off ∨ st.state = .empty ∨ st.state = .loaded ∨ st.state = .spliceDue ∨
        st.state = .spliceHeld ∨
        (st.state = .webOut ∧ ∃ a, st.running = some a ∧ (st.arm a.other).status ≠ .ready) →
      exec (.splicedPulse n) s = .next { s with
        notices := postInto s.notices (.spliceUnexpected n) (.standState st.state) }) ∧
    ∀ (a : Arm) (k j : Nat) (old new : Roll), s.device = .ready → st.state = .splicing ∨ st.state = .webOut →
      st.running = some a → (st.arm a).roll = some k → s.roll? k = some old →
      (st.arm a.other).status = .ready → (st.arm a.other).roll = some j → s.roll? j = some new → j ≠ k →
      let waste := setting.spliceWaste
      let ran := st.setArm a.other { st.arm a.other with status := .running }
      let promoted : State := State.charge { s with
          rolls := tableModify s.rolls j fun x =>
            { x with state := .running, remaining := x.remaining - min waste x.remaining }
          stands := s.stands.set n
            { ran with running := some a.other, fraction := 0, callUpRaised := false } }
        fun x => { x with
          spliceWaste := min 4294967295 (x.spliceWaste + min waste new.remaining)
          rollsSpliced := min 65535 (x.rollsSpliced + 1) }
      let finish : State → State := fun u =>
        ((State.markChecks { u with
            notices := postInto u.notices (.spliceDone n) (.tag new.tag)
            stands := u.stands.set n { u.stands[n] with state := .loaded } } n).examine).pair
      (st.state = .webOut ∨ old.remaining ≤ setting.stubThreshold →
        exec (.splicedPulse n) s = .next (finish (State.charge { promoted with
            rolls := tableErase promoted.rolls k
            stands := promoted.stands.set n (promoted.stands[n].setArm a ⟨.empty, none, none⟩) }
          fun x => { x with stubWaste := min 4294967295 (x.stubWaste + old.remaining) }))) ∧
      (st.state = .splicing → setting.stubThreshold < old.remaining →
        let kept : State := { promoted with
          rolls := tableModify promoted.rolls k fun x => { x with state := .stub, partRoll := true }
          stands := promoted.stands.set n
            (promoted.stands[n].setArm a { st.arm a with status := .stub }) }
        (∀ (l : LaneNo) (c : OrderSlot), s.putAwayLane ⟨old.grade, old.width⟩ none = some l →
          s.orders[c] = none → (∀ b, b < c → s.orders[b] ≠ none) →
          exec (.splicedPulse n) s =
            .next (finish (kept.createOrder c .returnStub .automatic k old (.arm n a) (.lane l)))) ∧
        (s.putAwayLane ⟨old.grade, old.width⟩ none = none ∨ (∀ c : OrderSlot, s.orders[c] ≠ none) →
          exec (.splicedPulse n) s = .next (finish { kept with
            notices := postInto s.notices (.stubStranded n) (.tag old.tag) })))

/-! ## The jobs -/

/-- R12, R16, R155, R158: a copy event in READY counts gross and good, or gross and reject with run waste of k stands and the budget check; at 4,294,967,295 it sets the count-full flag alone. R7: with or without the count, every COPY-source stand then takes the cutoff as its length input; one without a running roll or held ignores it, and each full metre of a stand of the web plan adds 1 to the paper metres. That pairing ends the event is the model's reading (assumption log 4), that the stands step in stand order after the count its choice (assumption log 5). -/
def Obligations.CopyEventCounts : Prop :=
  (∀ (s : State) (reject : Bool), s.device ≠ .ready → exec (.copyEvent reject) s = .next s) ∧
  (∀ (s : State) (reject : Bool), s.device = .ready → s.activeSlot = none →
    exec (.copyEvent reject) s = .next s.pair) ∧
  ∀ (s : State) (reject : Bool) (j : JobSlot), s.device = .ready → s.activeSlot = some j →
    let job := s.jobs[j]
    let stands := (List.finRange 8).countP fun n =>
      (s.requirement n).isSome && (s.runningRoll n).isSome && !s.stands[n].trackingHold
    let sum := s.wasteFraction + job.cutoff * stands
    let spoilt : Job := { job with
      gross := job.gross + 1
      reject := job.reject + 1
      startupReject := if job.phase = .startup then job.startupReject + 1 else job.startupReject
      runWaste := min 4294967295 (job.runWaste + sum / 1000) }
    let reached := job.budget ≠ 0 ∧ job.budgetReached = false ∧ job.budget ≤ job.reject + 1
    let steps : State → State := fun u => (List.finRange 8).foldl
      (fun t n => if s.working.stands[n].source = .copy then t.lengthInput n job.cutoff else t) u
    let result : Job → Nat → State → Prop := fun counted waste counting =>
      exec (.copyEvent reject) s = .next (steps counting).pair ∧
      (job.cutoff ≤ 999 → (∀ n : StandNo, s.stands[n].fraction < 1000) →
        let moves : StandNo → Bool := fun n => decide (s.working.stands[n].source = .copy) &&
          !s.stands[n].trackingHold && (s.runningRoll n).isSome
        let metres := (List.finRange 8).countP fun n =>
          moves n && (s.requirement n).isSome && decide (1000 ≤ s.stands[n].fraction + job.cutoff)
        ∃ t, exec (.copyEvent reject) s = .next t ∧ t.wasteFraction = waste ∧
          t.jobs = s.jobs.set j { counted with
            paper := if metres = 0 then job.paper else min 4294967295 (job.paper + metres) } ∧
          ∀ n : StandNo, t.stands[n].fraction =
            if moves n = true then (s.stands[n].fraction + job.cutoff) % 1000 else s.stands[n].fraction)
    (∀ u : State, (∀ n : StandNo, s.working.stands[n].source = .copy →
      u.stands[n].trackingHold = true ∨ u.runningRoll n = none) → steps u = u) ∧
    (job.countFull = true ∨ 4294967295 ≤ job.gross →
      result { job with countFull := true } s.wasteFraction
        { s with jobs := s.jobs.set j { job with countFull := true } }) ∧
    (job.countFull = false → job.gross < 4294967295 →
      (reject = false → job.phase = .saleable →
        result { job with gross := job.gross + 1, good := job.good + 1 } s.wasteFraction { s with
          jobs := s.jobs.set j { job with gross := job.gross + 1, good := job.good + 1 } }) ∧
      (reject = true ∨ job.phase = .startup →
        (¬ reached → result spoilt (sum % 1000) { s with
          wasteFraction := sum % 1000
          jobs := s.jobs.set j spoilt }) ∧
        (reached → result { spoilt with budgetReached := true } (sum % 1000) { s with
          wasteFraction := sum % 1000
          jobs := s.jobs.set j { spoilt with budgetReached := true }
          notices := postInto s.notices (.budgetReached j) (.job job.number) })))

/-- R149, R150: STAGE JOB rewrites the number, cutoff, budget and web plan of the STAGED slot, or takes the lowest FREE slot with every count 0; a number of 0 or a wrong cutoff, a stand that is OFF, the number of an ACTIVE or CLOSED job, and no free slot are refused, in that order. The counts of a FREE slot are the model's (assumption log 19). -/
def Obligations.StageJobFillsSlot : Prop :=
  ∀ (s : State) (tag : Byte) (rest : List Request) (number cutoff budget : Nat)
    (entries : List (StandNo × GradeCode × Nat)),
    s.Serves .stageJob tag (beBytes 2 number ++ (beBytes 2 cutoff ++ (beBytes 4 budget ++
      (byteOf entries.length :: entries.flatMap fun e =>
        byteOf e.1.val :: byteOf e.2.1.val :: beBytes 2 e.2.2)))) rest →
    number ≤ 65535 → cutoff ≤ 65535 → budget ≤ 4294967295 → (entries.map Prod.fst).Nodup →
    (∀ e ∈ entries, s.working.grades[e.2.1].defined = true ∧ 300 ≤ e.2.2 ∧ e.2.2 ≤ 2600) →
    (number = 0 ∨ cutoff < 300 ∨ 999 < cutoff →
      exec .stageJob s = .next ((s.unqueued rest).refusal .stageJob tag .badField)) ∧
    (1 ≤ number → 300 ≤ cutoff → cutoff ≤ 999 →
      ((∃ e ∈ entries, s.stands[e.1].state = .off) →
        exec .stageJob s = .next ((s.unqueued rest).refusal .stageJob tag .wrongState)) ∧
      ((∀ e ∈ entries, s.stands[e.1].state ≠ .off) →
        let used := ∃ i : JobSlot, (s.jobs[i].state = .active ∨ s.jobs[i].state = .closed) ∧
          s.jobs[i].number = number
        (used → exec .stageJob s = .next ((s.unqueued rest).refusal .stageJob tag .duplicate)) ∧
        (¬ used → (∀ i : JobSlot, s.jobs[i].state = .active ∨ s.jobs[i].state = .closed) →
          exec .stageJob s = .next ((s.unqueued rest).refusal .stageJob tag .full)) ∧
        (¬ used → ∃ plan : Vector (Option PaperKind) 8,
          (∀ n : StandNo, ∀ g w, (n, g, w) ∈ entries → plan[n] = some ⟨g, w⟩) ∧
          (∀ n : StandNo, n ∉ entries.map Prod.fst → plan[n] = none) ∧
          (∀ j : JobSlot, s.jobs[j].state = .staged → (∀ i, i < j → s.jobs[i].state ≠ .staged) →
            exec .stageJob s = .next ({ s.unqueued rest with
                jobs := s.jobs.set j { s.jobs[j] with
                  number := number, cutoff := cutoff, budget := budget, plan := plan } }.okAnswer .stageJob tag
              [byteOf j.val, 1])) ∧
          ∀ j : JobSlot, (∀ i : JobSlot, s.jobs[i].state ≠ .staged) → s.jobs[j].state = .free →
            (∀ i, i < j → s.jobs[i].state ≠ .free) →
            exec .stageJob s = .next ({ s.unqueued rest with
                jobs := s.jobs.set j
                  { state := .staged, number := number, cutoff := cutoff, plan := plan, budget := budget,
                    phase := .startup, gross := 0, good := 0, reject := 0, startupReject := 0, restarts := 0,
                    paper := 0, runWaste := 0, spliceWaste := 0, stubWaste := 0, stripWaste := 0,
                    rollsSpliced := 0, budgetReached := false, countFull := false } }.okAnswer .stageJob tag
              [byteOf j.val, 0]))))

/-- R85, R151, R152, R153: a changeover, by request or by pulse, closes the ACTIVE job with JOB_CLOSED, makes the STAGED one ACTIVE in the phase of the SALEABLE level and loses the waste fraction. Every WAITING FEED order that does not fit the new plan is cancelled with ORDER_CANCELLED, and the answer counts them; the demand of each such stand of the plan is raised anew in stand-number order, the list loses the stands outside the plan and is examined, and a stand raised anew that is still in it gets FEED_SHORT. R141: outside SPLICING every READY standby that does not fit becomes MISMATCH with STANDBY_MISMATCH, and every unclaimed MISMATCH standby that fits READY, which starts the splice of a stand in SPLICE_DUE; of two standbys of one stand the later compared, arm B, gives the detail, which is the model's choice (assumption log 5). Without a STAGED job the request is refused with NO_STAGED and the pulse posts CHANGEOVER_MISSED. That pairing ends the event is the model's reading (assumption log 4). -/
def Obligations.ChangeoverActivatesStagedJob : Prop :=
  (∀ (s : State) (tag : Byte) (rest : List Request), s.Serves .changeover tag [] rest →
    (∀ j : JobSlot, s.jobs[j].state ≠ .staged) →
    exec .changeover s = .next ((s.unqueued rest).refusal .changeover tag .noStaged)) ∧
  (∀ s : State, s.device ≠ .ready → exec .changeoverPulse s = .next s) ∧
  (∀ s : State, s.device = .ready → (∀ j : JobSlot, s.jobs[j].state ≠ .staged) →
    exec .changeoverPulse s = .next { s with
      notices := postInto s.notices .changeoverMissed
        (.job (match s.activeSlot with | none => 0 | some i => s.jobs[i].number)) }) ∧
  ∀ (s : State) (j : JobSlot), s.JobsLegal → s.jobs[j].state = .staged →
    let plan := s.jobs[j].plan
    let outdated : OrderSlot → StandNo → Prop := fun c n => ∃ (o : Order) (a : Arm), s.orders[c] = some o ∧
      o.kind = .feed ∧ o.state = .waiting ∧ o.dest = .arm n a ∧
      ∀ r, s.roll? o.roll = some r → plan[n] ≠ some ⟨r.grade, r.width⟩
    ∃ (t settled : State) (cancelled : List OrderSlot) (again : List StandNo),
      t = settled.pair ∧ t.demand = settled.demand ∧
      cancelled.Nodup ∧ (∀ c, c ∈ cancelled ↔ ∃ n, outdated c n) ∧
      again.Pairwise (· < ·) ∧ (∀ n, n ∈ again ↔ plan[n] ≠ none ∧ ∃ c, outdated c n) ∧
      (s.device = .ready → exec .changeoverPulse s = .next t) ∧
      (∀ (u : State) (tag : Byte) (rest : List Request), u.Serves .changeover tag [] rest →
        s = u.unqueued rest →
        exec .changeover u = .next (t.okAnswer .changeover tag (byteOf j.val :: (beBytes 2 s.jobs[j].number ++
          [(match s.activeSlot with | none => 0xFF | some i => byteOf i.val), byteOf cancelled.length])))) ∧
      t.jobs[j] = { s.jobs[j] with
        state := .active, phase := if s.saleable then .saleable else .startup } ∧
      (∀ i : JobSlot, s.jobs[i].state = .active → t.jobs[i] = { s.jobs[i] with state := .closed } ∧
        ∃ e ∈ t.notices, e.key = .jobClosed i ∧ e.detail = .job s.jobs[i].number) ∧
      (∀ i : JobSlot, i ≠ j → s.jobs[i].state ≠ .active → t.jobs[i] = s.jobs[i]) ∧
      t.wasteFraction = 0 ∧
      (∀ (c : OrderSlot) (o : Order), s.orders[c] = some o → c ∈ cancelled →
        t.orders[c] = some { o with state := .cancelled, vehicle := none, deadline := .none } ∧
        ∃ e ∈ t.notices, e.key = .orderCancelled c ∧ e.detail = .order o.number) ∧
      t.demand.Sublist ((s.demand.filter fun n => plan[n].isSome) ++ again.filter fun n => decide (n ∉ s.demand)) ∧
      (∀ n, n ∈ again ∨ (n ∈ s.demand ∧ plan[n] ≠ none) → n ∈ t.demand ∨ t.openFeed n ≠ none) ∧
      (∀ n ∈ t.demand, plan[n] ≠ none ∧
        (settled.feedArmAvailable n = false ∨ settled.feedChoice n = none ∨ settled.freeOrderSlot = none)) ∧
      (∀ n ∈ again, n ∈ t.demand →
        ∃ e ∈ t.notices, e.key = .feedShort n ∧ e.detail = .metres (t.runningMetres n)) ∧
      (∀ n : StandNo, t.stands[n].running = s.stands[n].running ∧
        t.stands[n].fraction = s.stands[n].fraction) ∧
      (∀ (n : StandNo) (a : Arm) (k : Nat) (r : Roll), s.stands[n].state ≠ .splicing →
        (s.stands[n].arm a).roll = some k → s.roll? k = some r →
        let st := s.stands[n]
        let fits := plan[n] = some ⟨r.grade, r.width⟩
        ((st.arm a).status = .ready →
          (fits → (t.stands[n].arm a).status = .ready) ∧
          (¬ fits → (t.stands[n].arm a).status = .mismatch ∧
            ∃ e ∈ t.notices, e.key = .standbyMismatch n ∧
              (a = .B ∨ st.armB.status ≠ .ready → e.detail = .tag r.tag))) ∧
        ((st.arm a).status = .mismatch →
          (¬ fits ∨ r.claim ≠ none → (t.stands[n].arm a).status = .mismatch) ∧
          (fits → r.claim = none → (t.stands[n].arm a).status = .ready ∧
            (st.state = .spliceDue → st.running = some a.other →
              t.stands[n].state = .splicing ∧ t.stands[n].window = s.working.stands[n].spliceWindow)))) ∧
      ∀ n : StandNo,
        (s.stands[n].state ≠ .spliceDue ∨ s.stands[n].running = none → t.stands[n].state = s.stands[n].state) ∧
        (s.stands[n].state = .splicing → ∀ a : Arm,
          (s.stands[n].arm a).status = .ready ∨ (s.stands[n].arm a).status = .mismatch →
          (t.stands[n].arm a).status = (s.stands[n].arm a).status)

/-- R158, R160: SET BUDGET writes the budget of a STAGED or ACTIVE job; on the ACTIVE one a budget of 0 or above the rejects clears the flag, and one the rejects have reached sets it with BUDGET_REACHED unless it was set. R162: RETIRE JOB frees a CLOSED slot whose JOB_CLOSED has been fetched. R156: an edge of SALEABLE moves the phase of the ACTIVE job, and leaving SALEABLE counts a restart. That the level is followed where the edge changes no slot, outside READY or without an ACTIVE job, is the model's reading (assumption log 29). -/
def Obligations.BudgetRetirementAndPhase : Prop :=
  (∀ (s : State) (tag : Byte) (rest : List Request) (j : JobSlot) (budget : Nat),
    s.Serves .setBudget tag (byteOf j.val :: beBytes 4 budget) rest → budget ≤ 4294967295 →
    let job := s.jobs[j]
    let out := fun (state flag : Byte) => state :: (beBytes 4 budget ++ (beBytes 4 job.reject ++ [flag]))
    (job.state = .free ∨ job.state = .closed →
      exec .setBudget s = .next ((s.unqueued rest).refusal .setBudget tag .wrongState)) ∧
    (job.state = .staged → exec .setBudget s = .next ({ s.unqueued rest with
      jobs := s.jobs.set j { job with budget := budget } }.okAnswer .setBudget tag
        (out 1 (flagByte job.budgetReached)))) ∧
    (job.state = .active →
      (budget = 0 ∨ job.reject < budget → exec .setBudget s = .next ({ s.unqueued rest with
        jobs := s.jobs.set j { job with budget := budget, budgetReached := false } }.okAnswer .setBudget tag
          (out 2 0))) ∧
      (budget ≠ 0 → budget ≤ job.reject → job.budgetReached = true →
        exec .setBudget s = .next ({ s.unqueued rest with
          jobs := s.jobs.set j { job with budget := budget } }.okAnswer .setBudget tag (out 2 1))) ∧
      (budget ≠ 0 → budget ≤ job.reject → job.budgetReached = false →
        exec .setBudget s = .next ({ s.unqueued rest with
          jobs := s.jobs.set j { job with budget := budget, budgetReached := true }
          notices := postInto s.notices (.budgetReached j) (.job job.number) }.okAnswer .setBudget tag
            (out 2 1))))) ∧
  (∀ (s : State) (tag : Byte) (rest : List Request) (j : JobSlot),
    s.Serves .retireJob tag [byteOf j.val] rest →
    (s.jobs[j].state = .closed → (∀ e ∈ s.notices, e.key ≠ .jobClosed j) →
      ∃ freed : Job, freed.state = .free ∧
        exec .retireJob s = .next ({ s.unqueued rest with jobs := s.jobs.set j freed }.okAnswer .retireJob tag
          (beBytes 2 s.jobs[j].number ++ (beBytes 4 s.jobs[j].gross ++ (beBytes 4 s.jobs[j].good ++
            beBytes 4 s.jobs[j].reject))))) ∧
    (s.jobs[j].state ≠ .closed ∨ (∃ e ∈ s.notices, e.key = .jobClosed j) →
      exec .retireJob s = .next ((s.unqueued rest).refusal .retireJob tag .wrongState))) ∧
  ∀ (s : State) (rising : Bool),
    (s.device ≠ .ready ∨ s.activeSlot = none →
      exec (.saleableEdge rising) s = .next { s with saleable := rising }) ∧
    ∀ j : JobSlot, s.device = .ready → s.activeSlot = some j →
      exec (.saleableEdge rising) s = .next { s with
        saleable := rising
        jobs := s.jobs.set j { s.jobs[j] with
          phase := if rising then .saleable else .startup
          restarts := if s.jobs[j].phase = .saleable ∧ rising = false
            then min 65535 (s.jobs[j].restarts + 1) else s.jobs[j].restarts } }

/-! ## The settings unit and the floor reset -/

/-- R189: a load that fails, be it by no acknowledge, a wrong signature or length, a flag or source byte other than 00h or 01h or an image that is not valid, changes the device state alone; one that succeeds puts the image in force, with the stands EMPTY or OFF and READY. R192, R193: RELOAD SETTINGS starts a load and STORE SETTINGS a store of the working settings, refused without a memory or while a store is in flight. While a store is in flight its writes are the 285-byte image from address 0 in 18 page writes of 16 bytes, the last of 13, with 00h 00h in place of the signature, and then the two bytes A7h 5Ch at address 0, each as the bus address 50h for writing, the two address bytes, the data bytes and a stop condition: so a memory that has taken the first and not the last has 00h 00h as its signature, and one that has taken them all holds the image. The store ends with SETTINGS_STORED and its outcome, and makes no write any more. That these writes stand as one list for the whole store is the model's reading (assumption log 27). -/
def Obligations.SettingsMemoryLoadsAndStores : Prop :=
  (∀ (s : State) (read : MemoryRead), s.device = .loading →
    (read = .noAck ∨
        (∃ b, read = .image b ∧ (b.take 4 ≠ [0xA7, 0x5C, 0x01, 0x19] ∨ image? b = none ∨
          (∃ i < 16, 1 < num b (4 + 5 * i) 1) ∨ (∃ i < 32, 1 < num b (84 + 3 * i) 1 ∨ 7 < num b (85 + 3 * i) 1) ∨
          ∃ i < 8, 1 < num b (180 + 12 * i) 1 ∨ 1 < num b (181 + 12 * i) 1)) →
      exec (.settingsLoad read) s = .next { s with device := .unconfigured }) ∧
    ∀ (b : List Byte) (u : Settings), read = .image b → image? b = some u →
      ∃ t, exec (.settingsLoad read) s = .next t ∧ t.device = .ready ∧ t.working = u ∧ t.loaded = u ∧
        u.valid = true ∧ t.hallIncrement = u.fleet.increment ∧
        (∀ n : StandNo, t.stands[n] = if u.stands[n].enabled
          then { s.stands[n] with
            state := .empty, callUpMark := u.stands[n].callUpMark, spliceMark := u.stands[n].spliceMark }
          else { s.stands[n] with state := .off }) ∧
        { t with
          device := s.device, working := s.working, loaded := s.loaded, hallIncrement := s.hallIncrement,
          stands := s.stands } = s) ∧
  (∀ (s : State) (tag : Byte) (rest : List Request),
    (s.Serves .storeSettings tag [] rest →
      (s.setmem = false →
        exec .storeSettings s = .next ((s.unqueued rest).refusal .storeSettings tag .wrongState)) ∧
      (s.setmem = true → s.store ≠ none →
        exec .storeSettings s = .next ((s.unqueued rest).refusal .storeSettings tag .busy)) ∧
      (s.setmem = true → s.store = none →
        exec .storeSettings s = .next ({ s.unqueued rest with store := some s.working }.okAnswer
          .storeSettings tag []))) ∧
    (s.Serves .reloadSettings tag [] rest →
      (s.setmem = false →
        exec .reloadSettings s = .next ((s.unqueued rest).refusal .reloadSettings tag .wrongState)) ∧
      (s.setmem = true → s.store ≠ none →
        exec .reloadSettings s = .next ((s.unqueued rest).refusal .reloadSettings tag .busy)) ∧
      (s.setmem = true → s.store = none →
        exec .reloadSettings s = .next ({ s.unqueued rest with device := .loading }.okAnswer
          .reloadSettings tag [])))) ∧
  ∀ (s : State) (u : Settings), s.store = some u →
    let ended := fun o : StoreOutcome => { s with
      store := none
      notices := postInto s.notices .settingsStored (.outcome o) }
    (exec (.settingsStoreEnd true) s = .next (ended .ok) ∧
      exec (.settingsStoreEnd false) s = .next (ended .noAck) ∧
      exec .storeTimeout s = .next (ended .timeout) ∧ ∀ o, (ended o).storeWrites = []) ∧
    (∃ pages : List BusWrite, s.storeWrites = pages ++ [⟨0, [0xA7, 0x5C]⟩] ∧ pages.length = 18 ∧
      pages.flatMap BusWrite.data = [0x00, 0x00] ++ u.image.drop 2 ∧
      ∀ (i : Nat) (w : BusWrite), pages[i]? = some w →
        w.address = 16 * i ∧ w.data.length = if i = 17 then 13 else 16) ∧
    (∀ w ∈ s.storeWrites, w.events = .addressed 0x50 false :: .sent (byteOf (w.address / 256)) ::
      .sent (byteOf w.address) :: (w.data.map .sent ++ [.stop])) ∧
    ∀ memory : List Byte, 285 ≤ memory.length →
      (∀ k, 1 ≤ k → k ≤ 18 → ((s.storeWrites.take k).foldl BusWrite.into memory).take 2 = [0x00, 0x00]) ∧
      s.storeWrites.foldl BusWrite.into memory = u.image ++ memory.drop 285

/-- R186, R190, R191: in UNCONFIGURED each SET request writes its group of the working settings at once, an undefined grade as 0, and SET STAND makes the stand EMPTY or OFF; a field out of range is refused. COMMIT SETTINGS of valid settings makes them the loaded image, puts the marks and the increment in force and makes the part READY; of others it is refused with BAD_FIELD. -/
def Obligations.SetAndCommitSettings : Prop :=
  (∀ (s : State) (tag flag : Byte) (rest : List Request) (g : GradeCode) (grammage caliper : Nat),
    s.Serves .setGrade tag (byteOf g.val :: flag :: (beBytes 2 grammage ++ beBytes 2 caliper)) rest →
    grammage ≤ 65535 → caliper ≤ 65535 →
    (flag = 0 → exec .setGrade s = .next ({ s.unqueued rest with
      working := { s.working with grades := s.working.grades.set g ⟨false, 0, 0⟩ } }.okAnswer .setGrade tag [])) ∧
    (flag = 1 → 20 ≤ grammage → grammage ≤ 400 → 40 ≤ caliper → caliper ≤ 400 →
      exec .setGrade s = .next ({ s.unqueued rest with
        working := { s.working with grades := s.working.grades.set g ⟨true, grammage, caliper⟩ } }.okAnswer
          .setGrade tag [])) ∧
    (1 < flag.toNat ∨ (flag = 1 ∧ (grammage < 20 ∨ 400 < grammage ∨ caliper < 40 ∨ 400 < caliper)) →
      exec .setGrade s = .next ((s.unqueued rest).refusal .setGrade tag .badField))) ∧
  (∀ (s : State) (tag : Byte) (rest : List Request) (l aisle depth : Nat) (enabled : Bool),
    s.Serves .setLane tag [byteOf l, flagByte enabled, byteOf aisle, byteOf depth] rest →
    l < 256 → aisle < 256 → depth < 256 →
    (∀ (k : LaneNo) (g : AisleNo), k.val = l → g.val = aisle → depth ≤ 20 →
      exec .setLane s = .next ({ s.unqueued rest with
        working := { s.working with lanes := s.working.lanes.set k ⟨enabled, g, depth⟩ } }.okAnswer
          .setLane tag [])) ∧
    (31 < l ∨ 7 < aisle ∨ 20 < depth →
      exec .setLane s = .next ((s.unqueued rest).refusal .setLane tag .badField))) ∧
  (∀ (s : State) (tag : Byte) (rest : List Request) (n : StandNo) (e : StandSetting),
    s.Serves .setStand tag (byteOf n.val :: flagByte e.enabled :: e.source.code ::
      (beBytes 2 e.rollerIncrement ++ (beBytes 2 e.callUpMark ++ (beBytes 2 e.spliceMark ++
        (byteOf e.spliceWindow :: byteOf e.spliceWaste :: beBytes 2 e.stubThreshold))))) rest →
    e.rollerIncrement ≤ 65535 → e.callUpMark ≤ 65535 → e.spliceMark ≤ 65535 → e.spliceWindow ≤ 255 →
    e.spliceWaste ≤ 255 → e.stubThreshold ≤ 65535 →
    (1 ≤ e.rollerIncrement → e.rollerIncrement ≤ 999 → 1 ≤ e.spliceWindow → e.stubThreshold ≤ 5000 →
      exec .setStand s = .next ({ s.unqueued rest with
        working := { s.working with stands := s.working.stands.set n e }
        stands := s.stands.set n { s.stands[n] with state := if e.enabled then .empty else .off } }.okAnswer
          .setStand tag [])) ∧
    (e.rollerIncrement = 0 ∨ 999 < e.rollerIncrement ∨ e.spliceWindow = 0 ∨ 5000 < e.stubThreshold →
      exec .setStand s = .next ((s.unqueued rest).refusal .setStand tag .badField))) ∧
  (∀ (s : State) (tag : Byte) (rest : List Request) (f : FleetSetting),
    s.Serves .setFleet tag (byteOf f.fitted :: (beBytes 2 f.orderLimit ++ (beBytes 2 f.tenureLimit ++
      beBytes 4 f.increment))) rest →
    f.fitted ≤ 255 → f.orderLimit ≤ 65535 → f.tenureLimit ≤ 65535 → f.increment ≤ 4294967295 →
    let good := 1 ≤ f.fitted ∧ f.fitted ≤ 6 ∧ (f.orderLimit = 0 ∨ (30 ≤ f.orderLimit ∧ f.orderLimit ≤ 3600)) ∧
      (f.tenureLimit = 0 ∨ (10 ≤ f.tenureLimit ∧ f.tenureLimit ≤ 600)) ∧ 1 ≤ f.increment
    (good → exec .setFleet s = .next ({ s.unqueued rest with
      working := { s.working with fleet := f } }.okAnswer .setFleet tag [])) ∧
    (¬ good → exec .setFleet s = .next ((s.unqueued rest).refusal .setFleet tag .badField))) ∧
  ∀ (s : State) (tag : Byte) (rest : List Request), s.Serves .commitSettings tag [] rest →
    (s.working.valid = false →
      exec .commitSettings s = .next ((s.unqueued rest).refusal .commitSettings tag .badField)) ∧
    (s.working.valid = true → ∃ t : State,
      exec .commitSettings s = .next (t.okAnswer .commitSettings tag []) ∧ t.device = .ready ∧
      t.loaded = s.working ∧ t.working = s.working ∧ t.hallIncrement = s.working.fleet.increment ∧
      (∀ n : StandNo, t.stands[n] = if s.working.stands[n].enabled
        then { s.stands[n] with
          callUpMark := s.working.stands[n].callUpMark, spliceMark := s.working.stands[n].spliceMark }
        else s.stands[n]) ∧
      { t with
        device := s.device, loaded := s.loaded, hallIncrement := s.hallIncrement, stands := s.stands } =
        s.unqueued rest)

/-- R186, R187, R189: the image of every valid set of settings, with its undefined grades at 0, is 285 bytes, begins with the signature and the length, and is read back as that set. -/
def Obligations.SettingsImageRoundTrip : Prop :=
  ∀ t : Settings, t.valid = true →
    (∀ g : GradeCode, t.grades[g].defined = false → t.grades[g] = ⟨false, 0, 0⟩) →
    t.image.length = 285 ∧ t.image.take 4 = [0xA7, 0x5C, 0x01, 0x19] ∧ image? t.image = some t

/-- R41, R60, R61, R86, R107, R122, R146, R176, R194: a floor reset is ignored in LOADING, clears the control port alone in UNCONFIGURED, and in READY makes every vehicle OFFLINE with its roll, every aisle FREE and the queues of the port and the fleet link empty, but for an instruction on the line; frees every order slot, claim and reservation; makes a SPLICING stand SPLICE_HELD with its standby compared without a notice, and restores the working marks, while rolls, lanes' contents, jobs, settings and the next order number stay. R82, R86: then the demand of every stand of the web plan whose call-up is raised and whose feed arm is EMPTY is raised anew in stand-number order. The marks of a stand in OFF are the model's reading (assumption log 18), and so are which instruction is on the line (assumption log 14) and that the bytes after the reset are read as if no frame had begun (assumption log 9). -/
def Obligations.FloorResetByDeviceState : Prop :=
  (∀ s : State, s.device = .loading → exec .floorReset s = .next s) ∧
  (∀ s : State, s.device = .unconfigured →
    exec .floorReset s = .next { s with
      requests := [], answers := [], notices := [], overrunMark := false, framingMark := false,
      resetPending := false, period := s.period.map (fun p => { p with live := false }),
      frameSpoiled := s.frameSpoiled || s.period.isSome }) ∧
  ∀ s : State, s.device = .ready → ∃ t u : State, exec .floorReset s = .next t ∧
    t.device = .ready ∧ t.requests = [] ∧ t.answers = [] ∧ t.overrunMark = false ∧ t.framingMark = false ∧
    t.resetPending = false ∧ t.received = [] ∧ t.outbound = [] ∧ t.idle = [] ∧ t.dock = s.dock ∧
    t.jobs = s.jobs ∧ t.wasteFraction = s.wasteFraction ∧ t.sequence = s.sequence ∧ t.working = s.working ∧
    t.loaded = s.loaded ∧ t.store = s.store ∧ t.hallAccumulator = s.hallAccumulator ∧
    t.lineBytes = [] ∧ t.finishing = s.finishing.or s.outbound.head? ∧
    t.period = s.period.map (fun p => { p with live := false }) ∧
    t.frameSpoiled = (s.frameSpoiled || s.period.isSome) ∧
    (∀ v : VehicleNo, t.vehicles[v] = ⟨.offline, none, s.vehicles[v].roll, none, none, 0⟩) ∧
    (∀ g : AisleNo, t.aisles[g] = ⟨none, .free, [], .none⟩) ∧
    (∀ l : LaneNo, t.lanes[l].contents = s.lanes[l].contents) ∧
    (∀ (k : Nat) (r : Roll), s.roll? k = some r → ∃ c, t.roll? k = some { r with claim := c }) ∧
    (∀ n : StandNo, t.stands[n].running = s.stands[n].running ∧
      t.stands[n].state = (if s.stands[n].state = .splicing then .spliceHeld else s.stands[n].state) ∧
      t.stands[n].callUpMark = s.loaded.stands[n].callUpMark ∧
      t.stands[n].spliceMark = s.loaded.stands[n].spliceMark ∧
      t.stands[n].callUpRaised = s.stands[n].callUpRaised ∧ t.stands[n].window = s.stands[n].window ∧
      t.stands[n].fraction = s.stands[n].fraction ∧
      t.stands[n].trackingHold = s.stands[n].trackingHold ∧ t.spliceCommand n = false) ∧
    (let raised : State → StandNo → State := fun x n =>
        if x.requirement n ≠ none ∧ x.stands[n].callUpRaised = true ∧
            (x.stands[n].arm x.stands[n].feedArm).status = .empty ∧ x.openFeed n = none ∧ n ∉ x.demand then
          (State.examine { x with demand := x.demand ++ [n] }).postShort n
        else x
     t = (List.finRange 8).foldl raised u) ∧
    ((∀ n : StandNo, s.stands[n].callUpRaised = false) → t = u) ∧
    u.waiting = [] ∧ u.demand = [] ∧ u.notices = [] ∧ u.nextNumber = s.nextNumber ∧
    (∀ k : OrderSlot, u.orders[k] = none) ∧
    (∀ l : LaneNo, u.lanes[l] =
      ⟨if s.lanes[l].contents = [] then none else s.lanes[l].binding, s.lanes[l].contents, 0⟩) ∧
    (∀ (k : Nat) (r : Roll), s.roll? k = some r → u.roll? k = some { r with claim := none }) ∧
    (∀ p ∈ u.rolls, p.2.claim = none) ∧
    ∀ (n : StandNo) (a : Arm), (u.stands[n].arm a).reservation = none ∧
      (u.stands[n].arm a).roll = (s.stands[n].arm a).roll ∧
      ((s.stands[n].arm a).status = .reserved → (u.stands[n].arm a).status = .empty) ∧
      ((s.stands[n].arm a).status ≠ .reserved → (s.stands[n].arm a).status ≠ .ready →
        (u.stands[n].arm a).status = (s.stands[n].arm a).status) ∧
      ((s.stands[n].arm a).status = .ready →
        (s.stands[n].state ≠ .splicing → (u.stands[n].arm a).status = .ready) ∧
        (s.stands[n].state = .splicing → s.stands[n].running = some a.other →
          ∀ (k : Nat) (q : Roll), (s.stands[n].arm a).roll = some k → s.roll? k = some q →
            (u.stands[n].arm a).status =
              if s.requirement n = some ⟨q.grade, q.width⟩ then .ready else .mismatch))
end

