-- ==== Sys2Proof/Laws/Bytes.lean ====
section
/-! SUPPORT. Multi-byte fields read back what was written (R177). -/

namespace Sys2Proof.Machine

@[simp] theorem byteOf_toNat (n : Nat) : (byteOf n).toNat = n % 256 := by simp [byteOf]

theorem byteOf_toNat_of_lt {n : Nat} (h : n < 256) : (byteOf n).toNat = n := by
  simp [Nat.mod_eq_of_lt h]

@[simp] theorem beBytes_length (len n : Nat) : (beBytes len n).length = len := by
  induction len with
  | zero => rfl
  | succ k ih => simp [beBytes, ih]

theorem beNat_foldl (bytes : List Byte) (acc : Nat) :
    bytes.foldl (fun n b => n * 256 + b.toNat) acc = acc * 256 ^ bytes.length + beNat bytes := by
  induction bytes generalizing acc with
  | nil => simp [beNat]
  | cons b bs ih =>
    simp only [beNat, List.foldl_cons, List.length_cons]
    rw [ih, ih (0 * 256 + b.toNat)]
    ring

theorem beNat_cons (b : Byte) (bs : List Byte) :
    beNat (b :: bs) = b.toNat * 256 ^ bs.length + beNat bs := by
  have h := beNat_foldl bs b.toNat
  simpa [beNat] using h

theorem beNat_beBytes (len n : Nat) : beNat (beBytes len n) = n % 256 ^ len := by
  induction len with
  | zero => simp [beBytes, beNat, Nat.mod_one]
  | succ k ih =>
    rw [beBytes, beNat_cons, ih, beBytes_length, byteOf_toNat, Nat.pow_succ, Nat.mod_mul]
    ring

/-- A field at the head of the bytes. -/
theorem num_head {len n : Nat} (f : List Byte) (h : n < 256 ^ len) : num (beBytes len n ++ f) 0 len = n := by
  simp [num, beNat_beBytes, Nat.mod_eq_of_lt h]

/-- A field that is all there is. -/
theorem num_whole {len n : Nat} (h : n < 256 ^ len) : num (beBytes len n) 0 len = n := by
  simpa using num_head [] h

/-- A field behind another one. -/
theorem num_skip (a f : List Byte) (i len : Nat) : num (a ++ f) (a.length + i) len = num f i len := by
  have h : List.drop (a.length + i) (a ++ f) = List.drop i f := by
    rw [← List.drop_drop, List.drop_left]
  simp [num, h]

/-- A field behind a multi-byte field of `m` bytes. -/
theorem num_behind (m n : Nat) (f : List Byte) (i len : Nat) :
    num (beBytes m n ++ f) (m + i) len = num f i len := by
  simpa using num_skip (beBytes m n) f i len

/-- A field behind one byte. -/
@[simp] theorem num_succ (b : Byte) (f : List Byte) (i len : Nat) : num (b :: f) (i + 1) len = num f i len := by
  simp [num]

@[simp] theorem num_one (b : Byte) (f : List Byte) : num (b :: f) 0 1 = b.toNat := by simp [num, beNat]

@[simp] theorem byteAt_zero (b : Byte) (f : List Byte) : byteAt (b :: f) 0 = b.toNat := by simp [byteAt]

@[simp] theorem byteAt_succ (b : Byte) (f : List Byte) (i : Nat) : byteAt (b :: f) (i + 1) = byteAt f i := by
  simp [byteAt]

/-- A number below `n` is the index it names. -/
@[simp] theorem fin?_val {n : Nat} (k : Fin n) : fin? n k.val = some k := by simp [fin?]

theorem fin?_eq_none {n k : Nat} (h : n ≤ k) : fin? n k = none := by simp [fin?]; omega

theorem fin?_of_lt {n k : Nat} (h : k < n) : fin? n k = some ⟨k, h⟩ := by simp [fin?, h]

/-- A flag byte reads as its flag (R181). -/
@[simp] theorem flag?_flagByte (b : Bool) : flag? (flagByte b).toNat = some b := by cases b <;> decide

/-- An arm byte reads as its arm (R181). -/
@[simp] theorem arm?_code (a : Arm) : arm? (Arm.code a).toNat = some a := by cases a <;> decide

/-- An optional arm byte reads as its arm or none (R181). -/
@[simp] theorem optArm?_optArm (a : Option Arm) : optArm? (optArm a).toNat = some a := by
  rcases a with _ | a
  · decide
  · cases a <;> decide

/-- The length source byte reads as its source (R181). -/
@[simp] theorem source?_code (x : LengthSource) : source? x.code.toNat = some x := by cases x <;> decide

/-- A roll reference by slot reads as that slot (R19). -/
theorem rollRef?_slot {k : Nat} (h : k < Config.rollSlots) (f : List Byte) :
    rollRef? ((1 : Byte) :: (beBytes 5 k ++ f)) = some (.bySlot k) := by
  have hk : num (beBytes 5 k ++ f) 0 5 = k := num_head f (by simp only [Config.rollSlots] at h; omega)
  simp [rollRef?, hk, h]

/-- A roll reference by tag reads as that tag (R19). -/
theorem rollRef?_tag {t : Nat} (h1 : 1 ≤ t) (h : t ≤ Config.maxTag) (f : List Byte) :
    rollRef? ((0 : Byte) :: (beBytes 5 t ++ f)) = some (.byTag t) := by
  have hk : num (beBytes 5 t ++ f) 0 5 = t := num_head f (by simp only [Config.maxTag] at h; omega)
  simp [rollRef?, hk, h, h1]

/-- Every request's code is in the request-code table (R180). -/
@[simp] theorem requestKind?_code (q : RequestKind) : requestKind? q.code = some q := by cases q <;> decide

end Sys2Proof.Machine
end

