-- ==== Sys2Proof/Laws/Frames.lean ====
section
/-! SUPPORT. What each shared operation can change: the operation answers the state with those fields new and every other field as it was. A prover takes a field out of such a lemma with congrArg. -/

namespace Sys2Proof.Machine

theorem State.reserve_changes (s : State) (k : OrderSlot) (kind : PaperKind) (p : Place) :
    s.reserve k kind p =
    { s with
      lanes := (s.reserve k kind p).lanes, stands := (s.reserve k kind p).stands } := by
  cases p <;> rfl

theorem State.release_changes (s : State) (p : Place) :
    s.release p =
    { s with
      lanes := (s.release p).lanes, stands := (s.release p).stands } := by
  cases p <;> rfl

theorem State.enterQueue_changes (s : State) (k : OrderSlot) (c : OrderClass) :
    s.enterQueue k c =
    { s with
      waiting := (s.enterQueue k c).waiting } := by
  cases c <;> rfl

theorem State.charge_changes (s : State) (f : Job → Job) :
    s.charge f =
    { s with
      jobs := (s.charge f).jobs } := by
  unfold State.charge
  split <;> rfl

theorem State.endWait_changes (s : State) (v : VehicleNo) :
    s.endWait v =
    { s with
      vehicles := (s.endWait v).vehicles, aisles := (s.endWait v).aisles } := by
  unfold State.endWait
  split <;> rfl

theorem State.resumeWaiter_changes (s : State) (n : StandNo) (a : Arm) :
    s.resumeWaiter n a =
    { s with
      vehicles := (s.resumeWaiter n a).vehicles, outbound := (s.resumeWaiter n a).outbound } := by
  unfold State.resumeWaiter
  split <;> rfl

theorem State.vacateArm_changes (s : State) (n : StandNo) (a : Arm) :
    s.vacateArm n a =
    { s with
      vehicles := (s.vacateArm n a).vehicles, outbound := (s.vacateArm n a).outbound,
      stands := (s.vacateArm n a).stands } := by
  unfold State.vacateArm
  have h1 := (s.modArm n a ArmRecord.vacated).resumeWaiter_changes n a
  generalize (s.modArm n a ArmRecord.vacated).resumeWaiter n a = t1 at *
  rw [h1]
  rfl

theorem State.leavePlace_changes (s : State) (k : RollSlot) (p : Location) :
    s.leavePlace k p =
    { s with
      dock := (s.leavePlace k p).dock, lanes := (s.leavePlace k p).lanes, idle := (s.leavePlace k p).idle,
      vehicles := (s.leavePlace k p).vehicles, outbound := (s.leavePlace k p).outbound,
      stands := (s.leavePlace k p).stands } := by
  cases p with
  | dock => rfl
  | lane l => rfl
  | vehicle v => unfold State.leavePlace State.leaveVehicle; dsimp only; split <;> rfl
  | arm n a =>
    have h := s.vacateArm_changes n a
    simp only [State.leavePlace]
    generalize s.vacateArm n a = t at *
    rw [h]

/-- R64: the creation of an order touches the order table, the roll's claim, the destination, the queue, and for a roll on a vehicle that vehicle. -/
theorem State.createOrder_changes (s : State) (c : OrderSlot) (kind : OrderKind) (origin : OrderOrigin) (k : RollSlot) (r : Roll)
    (source dest : Place) :
    s.createOrder c kind origin k r source dest =
    { s with
      rolls := (s.createOrder c kind origin k r source dest).rolls,
      lanes := (s.createOrder c kind origin k r source dest).lanes,
      orders := (s.createOrder c kind origin k r source dest).orders,
      nextNumber := (s.createOrder c kind origin k r source dest).nextNumber,
      waiting := (s.createOrder c kind origin k r source dest).waiting,
      vehicles := (s.createOrder c kind origin k r source dest).vehicles,
      outbound := (s.createOrder c kind origin k r source dest).outbound,
      stands := (s.createOrder c kind origin k r source dest).stands } := by
  generalize ht : s.createOrder c kind origin k r source dest = t
  unfold State.createOrder at ht
  extract_lets number o s0 s1 s2 at ht
  have h1 : s1 = { s with orders := s1.orders, nextNumber := s1.nextNumber } := rfl
  clear_value s1
  have hr := (s1.modRoll k fun x => { x with claim := some c }).reserve_changes c r.kind dest
  have h2 : s2 = { s1 with rolls := s2.rolls, lanes := s2.lanes, stands := s2.stands } := by
    change s2 = _ at hr
    clear_value s2
    rw [hr]
    rfl
  clear_value s2
  have h3 : t = { s2 with vehicles := t.vehicles, outbound := t.outbound, waiting := t.waiting } := by
    subst ht
    split
    · rfl
    · cases kind.cls <;> rfl
  rw [h3, h2, h1]

/-- A FEED order leaves lanes, vehicles and instructions alone. -/
theorem State.createFeed_changes (s : State) (c : OrderSlot) (origin : OrderOrigin) (k : RollSlot) (r : Roll)
    (l : LaneNo) (n : StandNo) (a : Arm) :
    s.createOrder c .feed origin k r (.lane l) (.arm n a) =
    { s with
      rolls := (s.createOrder c .feed origin k r (.lane l) (.arm n a)).rolls,
      orders := (s.createOrder c .feed origin k r (.lane l) (.arm n a)).orders,
      nextNumber := (s.createOrder c .feed origin k r (.lane l) (.arm n a)).nextNumber,
      waiting := (s.createOrder c .feed origin k r (.lane l) (.arm n a)).waiting,
      stands := (s.createOrder c .feed origin k r (.lane l) (.arm n a)).stands } := by
  rfl

/-- A RETURN order leaves the stands alone. -/
theorem State.createReturn_changes (s : State) (c : OrderSlot) (origin : OrderOrigin) (k : RollSlot) (r : Roll)
    (n : StandNo) (a : Arm) (l : LaneNo) :
    s.createOrder c .returnStub origin k r (.arm n a) (.lane l) =
    { s with
      rolls := (s.createOrder c .returnStub origin k r (.arm n a) (.lane l)).rolls,
      lanes := (s.createOrder c .returnStub origin k r (.arm n a) (.lane l)).lanes,
      orders := (s.createOrder c .returnStub origin k r (.arm n a) (.lane l)).orders,
      nextNumber := (s.createOrder c .returnStub origin k r (.arm n a) (.lane l)).nextNumber,
      waiting := (s.createOrder c .returnStub origin k r (.arm n a) (.lane l)).waiting } := by
  rfl

theorem State.serveDemand_changes (s : State) (n : StandNo) :
    s.serveDemand n =
    { s with
      rolls := (s.serveDemand n).rolls, orders := (s.serveDemand n).orders,
      nextNumber := (s.serveDemand n).nextNumber, waiting := (s.serveDemand n).waiting,
      demand := (s.serveDemand n).demand, stands := (s.serveDemand n).stands } := by
  unfold State.serveDemand
  repeat' split
  all_goals rfl

theorem foldl_serveDemand_changes (l : List StandNo) (s : State) :
    l.foldl State.serveDemand s =
    { s with
      rolls := (l.foldl State.serveDemand s).rolls, orders := (l.foldl State.serveDemand s).orders,
      nextNumber := (l.foldl State.serveDemand s).nextNumber,
      waiting := (l.foldl State.serveDemand s).waiting, demand := (l.foldl State.serveDemand s).demand,
      stands := (l.foldl State.serveDemand s).stands } := by
  induction l generalizing s with
  | nil => rfl
  | cons n l ih =>
    simp only [List.foldl_cons]
    have h0 := s.serveDemand_changes n
    have h1 := ih (s.serveDemand n)
    generalize s.serveDemand n = t0 at *
    generalize List.foldl State.serveDemand t0 l = t1 at *
    rw [h1, h0]

/-- R83: an examination touches the rolls' claims, the order table and its queue, the arms it reserves and the list itself. -/
theorem State.examine_changes (s : State) :
    s.examine =
    { s with
      rolls := (s.examine).rolls, orders := (s.examine).orders, nextNumber := (s.examine).nextNumber,
      waiting := (s.examine).waiting, demand := (s.examine).demand, stands := (s.examine).stands } := by
  exact foldl_serveDemand_changes s.demand s

theorem State.postShort_changes (s : State) (n : StandNo) :
    s.postShort n =
    { s with
      notices := (s.postShort n).notices } := by
  unfold State.postShort
  split <;> rfl

theorem State.appendDemand_changes (s : State) (n : StandNo) :
    s.appendDemand n =
    { s with
      demand := (s.appendDemand n).demand } := by
  unfold State.appendDemand
  split <;> rfl

/-- R82. -/
theorem State.raiseDemand_changes (s : State) (n : StandNo) :
    s.raiseDemand n =
    { s with
      rolls := (s.raiseDemand n).rolls, orders := (s.raiseDemand n).orders,
      nextNumber := (s.raiseDemand n).nextNumber, waiting := (s.raiseDemand n).waiting,
      demand := (s.raiseDemand n).demand, stands := (s.raiseDemand n).stands,
      notices := (s.raiseDemand n).notices } := by
  unfold State.raiseDemand
  split
  · rfl
  · have h0 := s.appendDemand_changes n
    have h1 := (s.appendDemand n).examine_changes
    have h2 := (s.appendDemand n).examine.postShort_changes n
    generalize s.appendDemand n = t0 at *
    generalize State.examine t0 = t1 at *
    generalize State.postShort t1 n = t2 at *
    rw [h2, h1, h0]

/-- R99. -/
theorem State.standDown_changes (s : State) (v : VehicleNo) (number : Nat) :
    s.standDown v number =
    { s with
      idle := (s.standDown v number).idle, vehicles := (s.standDown v number).vehicles,
      outbound := (s.standDown v number).outbound, aisles := (s.standDown v number).aisles } := by
  unfold State.standDown
  have h0 := (s.instruct v (.standDown number)).endWait_changes v
  dsimp only
  generalize (s.instruct v (.standDown number)).endWait v = t0 at *
  rw [h0]
  split
  · rfl
  · split <;> rfl

theorem State.dismiss_changes (s : State) (o : Order) :
    s.dismiss o =
    { s with
      idle := (s.dismiss o).idle, vehicles := (s.dismiss o).vehicles, outbound := (s.dismiss o).outbound,
      aisles := (s.dismiss o).aisles } := by
  unfold State.dismiss
  split
  · rfl
  · rename_i v _
    exact s.standDown_changes v o.number

theorem State.withdraw_changes (s : State) (k : OrderSlot) (o : Order) :
    s.withdraw k o =
    { s with
      rolls := (s.withdraw k o).rolls, lanes := (s.withdraw k o).lanes, waiting := (s.withdraw k o).waiting,
      idle := (s.withdraw k o).idle, vehicles := (s.withdraw k o).vehicles,
      outbound := (s.withdraw k o).outbound, aisles := (s.withdraw k o).aisles,
      stands := (s.withdraw k o).stands } := by
  unfold State.withdraw
  have h0 := (s.unclaim o.roll).release_changes o.dest
  have h1 := (((s.unclaim o.roll).release o.dest).leaveQueue k).dismiss_changes o
  generalize (s.unclaim o.roll).release o.dest = t0 at *
  generalize (t0.leaveQueue k).dismiss o = t1 at *
  rw [h1, h0]
  rfl

theorem State.markCancelled_changes (s : State) (k : OrderSlot) (o : Order) :
    s.markCancelled k o =
    { s with
      orders := (s.markCancelled k o).orders, notices := (s.markCancelled k o).notices } := by
  rfl

/-- R70: one pairing touches the queue, the idle list, the order, the vehicle and the instructions. -/
theorem State.join_changes (s : State) (k : OrderSlot) (o : Order) (v : VehicleNo) :
    s.join k o v =
    { s with
      orders := (s.join k o v).orders, waiting := (s.join k o v).waiting,
      idle := (s.join k o v).idle, vehicles := (s.join k o v).vehicles,
      outbound := (s.join k o v).outbound } := by
  generalize ht : s.join k o v = t
  unfold State.join at ht
  extract_lets s1 s2 at ht
  have h1 : s1 = { s with waiting := s1.waiting, idle := s1.idle } := rfl
  have h2 : s2 = { s1 with orders := s2.orders } := rfl
  clear_value s2
  clear_value s1
  have h3 : t = { s2 with vehicles := t.vehicles, outbound := t.outbound } := by
    subst ht
    rfl
  rw [h3, h2, h1]

theorem State.pairOne_changes {s t : State} (h : s.pairOne = some t) :
    t = { s with orders := t.orders, waiting := t.waiting, idle := t.idle, vehicles := t.vehicles,
                 outbound := t.outbound } := by
  unfold State.pairOne at h
  split at h
  · cases h
  · split at h
    · cases h
    · split at h
      · cases h
      · split at h
        · cases h
          exact s.join_changes _ _ _
        · cases h

theorem pairUpTo_changes (fuel : Nat) (s : State) :
    pairUpTo fuel s =
    { s with
      orders := (pairUpTo fuel s).orders, waiting := (pairUpTo fuel s).waiting,
      idle := (pairUpTo fuel s).idle, vehicles := (pairUpTo fuel s).vehicles,
      outbound := (pairUpTo fuel s).outbound } := by
  induction fuel generalizing s with
  | zero => rfl
  | succ m ih =>
    unfold pairUpTo
    split
    · rfl
    · rename_i t ht
      have h0 := State.pairOne_changes ht
      have h1 := ih t
      generalize pairUpTo m t = t1 at *
      rw [h1, h0]

/-- R70: pairing touches the queue, the idle list, the orders, the vehicles and the instructions. -/
theorem State.pair_changes (s : State) :
    s.pair =
    { s with
      orders := (s.pair).orders, waiting := (s.pair).waiting, idle := (s.pair).idle,
      vehicles := (s.pair).vehicles, outbound := (s.pair).outbound } := by
  exact pairUpTo_changes s.waiting.length s

/-- R77, R78. -/
theorem State.endOrder_changes (s : State) (k : OrderSlot) (o : Order) :
    s.endOrder k o =
    { s with
      rolls := (s.endOrder k o).rolls, lanes := (s.endOrder k o).lanes, orders := (s.endOrder k o).orders,
      nextNumber := (s.endOrder k o).nextNumber, waiting := (s.endOrder k o).waiting,
      idle := (s.endOrder k o).idle, demand := (s.endOrder k o).demand,
      vehicles := (s.endOrder k o).vehicles, outbound := (s.endOrder k o).outbound,
      aisles := (s.endOrder k o).aisles, stands := (s.endOrder k o).stands } := by
  unfold State.endOrder
  have h0 := s.withdraw_changes k o
  have h1 := ((s.withdraw k o).setOrder k none).examine_changes
  have h2 := (((s.withdraw k o).setOrder k none).examine).pair_changes
  generalize s.withdraw k o = t0 at *
  generalize (t0.setOrder k none).examine = t1 at *
  generalize State.pair t1 = t2 at *
  rw [h2, h1, h0]
  rfl

/-- R37. -/
theorem State.holdCancel_changes (s : State) (k : OrderSlot) (o : Order) :
    s.holdCancel k o =
    { s with
      rolls := (s.holdCancel k o).rolls, lanes := (s.holdCancel k o).lanes,
      orders := (s.holdCancel k o).orders, nextNumber := (s.holdCancel k o).nextNumber,
      waiting := (s.holdCancel k o).waiting, idle := (s.holdCancel k o).idle,
      demand := (s.holdCancel k o).demand, vehicles := (s.holdCancel k o).vehicles,
      outbound := (s.holdCancel k o).outbound, aisles := (s.holdCancel k o).aisles,
      stands := (s.holdCancel k o).stands, notices := (s.holdCancel k o).notices } := by
  unfold State.holdCancel
  have h0 := s.withdraw_changes k o
  dsimp only
  generalize s.withdraw k o = t0 at *
  have h1 := t0.markCancelled_changes k o
  generalize t0.markCancelled k o = t1 at *
  split
  · have h2 := t1.examine_changes
    generalize State.examine t1 = t2 at *
    rw [h2, h1, h0]
  · rename_i n _
    have h2 := t1.raiseDemand_changes n
    have h3 := (t1.raiseDemand n).examine_changes
    generalize t1.raiseDemand n = t2 at *
    generalize State.examine t2 = t3 at *
    rw [h3, h2, h1, h0]

/-- R25, R39. -/
theorem State.retire_changes (s : State) (k : RollSlot) (r : Roll) :
    s.retire k r =
    { s with
      rolls := (s.retire k r).rolls, dock := (s.retire k r).dock, lanes := (s.retire k r).lanes,
      orders := (s.retire k r).orders, nextNumber := (s.retire k r).nextNumber,
      waiting := (s.retire k r).waiting, idle := (s.retire k r).idle, demand := (s.retire k r).demand,
      vehicles := (s.retire k r).vehicles, outbound := (s.retire k r).outbound,
      stands := (s.retire k r).stands } := by
  unfold State.retire
  have h0 := s.leavePlace_changes k r.location
  dsimp only
  generalize s.leavePlace k r.location = t0 at *
  have h1 := (t0.eraseRoll k).examine_changes
  have h2 := ((t0.eraseRoll k).examine).pair_changes
  have h3 := (t0.eraseRoll k).pair_changes
  split
  · generalize (t0.eraseRoll k).examine = t1 at *
    generalize State.pair t1 = t2 at *
    rw [h2, h1, h0]
    rfl
  · generalize (t0.eraseRoll k).examine = t1 at *
    generalize State.pair t1 = t2 at *
    rw [h2, h1, h0]
    rfl
  · generalize (t0.eraseRoll k).pair = t2 at *
    rw [h3, h0]
    rfl

theorem State.advance_changes (s : State) (v : VehicleNo) (vs : VehicleState) (os : OrderState) :
    s.advance v vs os =
    { s with
      orders := (s.advance v vs os).orders, vehicles := (s.advance v vs os).vehicles } := by
  unfold State.advance
  split <;> rfl

theorem State.endDrive_changes (s : State) (v : VehicleNo) :
    s.endDrive v =
    { s with
      orders := (s.endDrive v).orders, vehicles := (s.endDrive v).vehicles } := by
  unfold State.endDrive
  split
  · exact s.advance_changes v _ _
  · exact s.advance_changes v _ _
  · rfl

/-- R111, R112. -/
theorem State.grant_changes (s : State) (g : AisleNo) (v : VehicleNo) (mode : AisleMode) :
    s.grant g v mode =
    { s with
      orders := (s.grant g v mode).orders, vehicles := (s.grant g v mode).vehicles,
      outbound := (s.grant g v mode).outbound, aisles := (s.grant g v mode).aisles } := by
  generalize ht : s.grant g v mode = t
  unfold State.grant at ht
  extract_lets s1 s2 at ht
  have h1 : s2 = { s with aisles := s2.aisles, outbound := s2.outbound } := rfl
  clear_value s2
  have h2 := (s2.modVehicle v fun x => { x with waiting := none }).endDrive_changes v
  rw [ht] at h2
  rw [h2, h1]
  rfl

theorem State.enterWaiting_changes (s : State) (g : AisleNo) (v : VehicleNo) :
    s.enterWaiting g v =
    { s with
      aisles := (s.enterWaiting g v).aisles } := by
  unfold State.enterWaiting
  repeat' split
  all_goals rfl

theorem State.waitForAisle_changes (s : State) (g : AisleNo) (v : VehicleNo) :
    s.waitForAisle g v =
    { s with
      vehicles := (s.waitForAisle g v).vehicles, outbound := (s.waitForAisle g v).outbound,
      aisles := (s.waitForAisle g v).aisles } := by
  unfold State.waitForAisle
  have h0 := s.enterWaiting_changes g v
  dsimp only
  generalize s.enterWaiting g v = t0 at *
  rw [h0]
  rfl

/-- R111. -/
theorem State.arrive_changes (s : State) (g : AisleNo) (v : VehicleNo) :
    s.arrive g v =
    { s with
      orders := (s.arrive g v).orders, vehicles := (s.arrive g v).vehicles,
      outbound := (s.arrive g v).outbound, aisles := (s.arrive g v).aisles } := by
  unfold State.arrive
  dsimp only
  split
  · exact s.grant_changes g v _
  · split
    · exact s.grant_changes g v _
    · have h0 := (s.modAisle g fun a =>
        { a with mode := .calledOff, counter := loadCounter s.working.fleet.tenureLimit }).waitForAisle_changes g v
      generalize State.waitForAisle _ g v = t0 at *
      split
      · rw [h0]; rfl
      · rw [h0]; rfl
  · split
    · split
      · rfl
      · rfl
      · exact s.grant_changes g v _
    · have h0 := s.waitForAisle_changes g v
      generalize s.waitForAisle g v = t0 at *
      rw [h0]

/-- R112. -/
theorem State.handOver_changes (s : State) (g : AisleNo) :
    s.handOver g =
    { s with
      orders := (s.handOver g).orders, vehicles := (s.handOver g).vehicles,
      outbound := (s.handOver g).outbound, aisles := (s.handOver g).aisles } := by
  unfold State.handOver
  split
  · rfl
  · exact (State.grant_changes _ g _ _).trans rfl

theorem State.releaseTenure_changes (s : State) (v : VehicleNo) :
    s.releaseTenure v =
    { s with
      orders := (s.releaseTenure v).orders, vehicles := (s.releaseTenure v).vehicles,
      outbound := (s.releaseTenure v).outbound, aisles := (s.releaseTenure v).aisles } := by
  unfold State.releaseTenure
  split
  · rfl
  · exact s.handOver_changes _

theorem State.demote_changes (s : State) (n : StandNo) (a : Arm) (b : Bool) :
    s.demote n a b =
    { s with
      stands := (s.demote n a b).stands, notices := (s.demote n a b).notices } := by
  unfold State.demote
  dsimp only
  repeat' split
  all_goals rfl

theorem State.compareStandby_changes (s : State) (n : StandNo) (b : Bool) :
    s.compareStandby n b =
    { s with
      stands := (s.compareStandby n b).stands, notices := (s.compareStandby n b).notices } := by
  unfold State.compareStandby
  split
  · rfl
  · exact s.demote_changes n _ b

theorem State.enterSplicing_changes (s : State) (n : StandNo) :
    s.enterSplicing n =
    { s with
      stands := (s.enterSplicing n).stands } := by
  rfl

/-- R129. -/
theorem State.callUpCheck_changes (s : State) (n : StandNo) (r : Nat) :
    s.callUpCheck n r =
    { s with
      rolls := (s.callUpCheck n r).rolls, orders := (s.callUpCheck n r).orders,
      nextNumber := (s.callUpCheck n r).nextNumber, waiting := (s.callUpCheck n r).waiting,
      demand := (s.callUpCheck n r).demand, stands := (s.callUpCheck n r).stands,
      notices := (s.callUpCheck n r).notices } := by
  unfold State.callUpCheck
  dsimp only
  split
  · split
    · exact (State.raiseDemand_changes _ n).trans rfl
    · rfl
  · rfl

/-- R130. -/
theorem State.zeroCheck_changes (s : State) (n : StandNo) (r tag : Nat) :
    s.zeroCheck n r tag =
    { s with
      stands := (s.zeroCheck n r tag).stands, notices := (s.zeroCheck n r tag).notices } := by
  unfold State.zeroCheck
  dsimp only
  split
  · split
    · have h0 := (s.setStandState n .webOut).compareStandby_changes n true
      generalize (s.setStandState n .webOut).compareStandby n true = t0 at *
      rw [h0]
      rfl
    · rfl
  · rfl

/-- R131. -/
theorem State.spliceMarkCheck_changes (s : State) (n : StandNo) (r : Nat) :
    s.spliceMarkCheck n r =
    { s with
      stands := (s.spliceMarkCheck n r).stands } := by
  unfold State.spliceMarkCheck
  dsimp only
  repeat' split
  all_goals rfl

/-- R128. -/
theorem State.markChecks_changes (s : State) (n : StandNo) :
    s.markChecks n =
    { s with
      rolls := (s.markChecks n).rolls, orders := (s.markChecks n).orders,
      nextNumber := (s.markChecks n).nextNumber, waiting := (s.markChecks n).waiting,
      demand := (s.markChecks n).demand, stands := (s.markChecks n).stands,
      notices := (s.markChecks n).notices } := by
  unfold State.markChecks
  split
  · rfl
  · rename_i r _
    have h0 := s.callUpCheck_changes n r.remaining
    generalize s.callUpCheck n r.remaining = t0 at *
    have h1 := t0.zeroCheck_changes n r.remaining r.tag
    generalize t0.zeroCheck n r.remaining r.tag = t1 at *
    have h2 := t1.spliceMarkCheck_changes n r.remaining
    generalize t1.spliceMarkCheck n r.remaining = t2 at *
    rw [h2, h1, h0]

/-- R133. -/
theorem State.windowExpiry_changes (s : State) (n : StandNo) :
    s.windowExpiry n =
    { s with
      stands := (s.windowExpiry n).stands, notices := (s.windowExpiry n).notices } := by
  exact (State.compareStandby_changes _ n true).trans rfl

theorem State.countWindow_changes (s : State) (n : StandNo) :
    s.countWindow n =
    { s with
      stands := (s.countWindow n).stands, notices := (s.countWindow n).notices } := by
  unfold State.countWindow
  dsimp only
  repeat' split
  · exact (State.windowExpiry_changes _ n).trans rfl
  · rfl
  · rfl

theorem State.countPaper_changes (s : State) (n : StandNo) :
    s.countPaper n =
    { s with
      jobs := (s.countPaper n).jobs } := by
  unfold State.countPaper
  split
  · exact s.charge_changes _
  · rfl

/-- R9. -/
theorem State.metreStep_changes (s : State) (n : StandNo) :
    s.metreStep n =
    { s with
      rolls := (s.metreStep n).rolls, orders := (s.metreStep n).orders,
      nextNumber := (s.metreStep n).nextNumber, waiting := (s.metreStep n).waiting,
      demand := (s.metreStep n).demand, stands := (s.metreStep n).stands, jobs := (s.metreStep n).jobs,
      notices := (s.metreStep n).notices } := by
  unfold State.metreStep
  split
  · rfl
  · rename_i k _
    have h0 := (s.modRoll k Roll.stepped).markChecks_changes n
    generalize (s.modRoll k Roll.stepped).markChecks n = t0 at *
    have h1 := t0.countPaper_changes n
    generalize t0.countPaper n = t1 at *
    have h2 := t1.countWindow_changes n
    generalize t1.countWindow n = t2 at *
    rw [h2, h1, h0]
    rfl

/-- R8. -/
theorem State.lengthInput_changes (s : State) (n : StandNo) (m : Nat) :
    s.lengthInput n m =
    { s with
      rolls := (s.lengthInput n m).rolls, orders := (s.lengthInput n m).orders,
      nextNumber := (s.lengthInput n m).nextNumber, waiting := (s.lengthInput n m).waiting,
      demand := (s.lengthInput n m).demand, stands := (s.lengthInput n m).stands,
      jobs := (s.lengthInput n m).jobs, notices := (s.lengthInput n m).notices } := by
  unfold State.lengthInput
  dsimp only
  split
  · rfl
  · split
    · exact (State.metreStep_changes _ n).trans rfl
    · rfl

theorem foldl_lengthInput_changes (p : StandNo → Prop) [DecidablePred p] (m : Nat) (l : List StandNo) (s : State) :
    l.foldl (fun t n => if p n then t.lengthInput n m else t) s =
    { s with rolls := (l.foldl (fun t n => if p n then t.lengthInput n m else t) s).rolls,
             orders := (l.foldl (fun t n => if p n then t.lengthInput n m else t) s).orders,
             nextNumber := (l.foldl (fun t n => if p n then t.lengthInput n m else t) s).nextNumber,
             waiting := (l.foldl (fun t n => if p n then t.lengthInput n m else t) s).waiting,
             demand := (l.foldl (fun t n => if p n then t.lengthInput n m else t) s).demand,
             stands := (l.foldl (fun t n => if p n then t.lengthInput n m else t) s).stands,
             jobs := (l.foldl (fun t n => if p n then t.lengthInput n m else t) s).jobs,
             notices := (l.foldl (fun t n => if p n then t.lengthInput n m else t) s).notices } := by
  induction l generalizing s with
  | nil => rfl
  | cons n l ih =>
    simp only [List.foldl_cons]
    by_cases hp : p n
    · simp only [hp, if_true]
      have h0 := s.lengthInput_changes n m
      have h1 := ih (s.lengthInput n m)
      generalize s.lengthInput n m = t0 at *
      generalize List.foldl _ t0 l = t1 at *
      rw [h1, h0]
    · simp only [hp, if_false]
      exact ih s

/-- R7. -/
theorem State.copyStands_changes (s : State) :
    s.copyStands =
    { s with
      rolls := (s.copyStands).rolls, orders := (s.copyStands).orders,
      nextNumber := (s.copyStands).nextNumber, waiting := (s.copyStands).waiting,
      demand := (s.copyStands).demand, stands := (s.copyStands).stands, jobs := (s.copyStands).jobs,
      notices := (s.copyStands).notices } := by
  unfold State.copyStands
  split
  · rfl
  · exact foldl_lengthInput_changes _ _ _ s

theorem State.promote_changes (s : State) (n : StandNo) (a : Arm) (k : RollSlot) :
    s.promote n a k =
    { s with
      rolls := (s.promote n a k).rolls, stands := (s.promote n a k).stands } := by
  rfl

theorem State.retireOld_changes (s : State) (n : StandNo) (a : Arm) (k : RollSlot) (r : Roll) :
    s.retireOld n a k r =
    { s with
      rolls := (s.retireOld n a k r).rolls, stands := (s.retireOld n a k r).stands,
      jobs := (s.retireOld n a k r).jobs } := by
  unfold State.retireOld
  have h0 := s.charge_changes (Job.chargeStub r.remaining)
  generalize s.charge (Job.chargeStub r.remaining) = t0 at *
  rw [h0]
  rfl

/-- R136. -/
theorem State.keepStub_changes (s : State) (n : StandNo) (a : Arm) (k : RollSlot) (r : Roll) :
    s.keepStub n a k r =
    { s with
      rolls := (s.keepStub n a k r).rolls, lanes := (s.keepStub n a k r).lanes,
      orders := (s.keepStub n a k r).orders, nextNumber := (s.keepStub n a k r).nextNumber,
      waiting := (s.keepStub n a k r).waiting, stands := (s.keepStub n a k r).stands,
      notices := (s.keepStub n a k r).notices } := by
  generalize ht : s.keepStub n a k r = t
  unfold State.keepStub at ht
  extract_lets s1 s2 at ht
  have h1 : s1 = { s with rolls := s1.rolls } := rfl
  have h2 : s2 = { s1 with stands := s2.stands } := rfl
  clear_value s2
  clear_value s1
  split at ht
  · rename_i l c _ _
    have h3 := s2.createReturn_changes c .automatic k r n a l
    rw [ht] at h3
    rw [h3, h2, h1]
  · subst ht
    rw [h2, h1]
    rfl

/-- R136: the old running roll is kept as a stub or retired. -/
theorem State.dispose_changes (s : State) (n : StandNo) (a : Arm) (k : RollSlot) (r : Roll) {p : Prop}
    [Decidable p] :
    (if p then s.keepStub n a k r else s.retireOld n a k r) =
    { s with
      rolls := (if p then s.keepStub n a k r else s.retireOld n a k r).rolls
      lanes := (if p then s.keepStub n a k r else s.retireOld n a k r).lanes
      orders := (if p then s.keepStub n a k r else s.retireOld n a k r).orders
      nextNumber := (if p then s.keepStub n a k r else s.retireOld n a k r).nextNumber
      waiting := (if p then s.keepStub n a k r else s.retireOld n a k r).waiting
      stands := (if p then s.keepStub n a k r else s.retireOld n a k r).stands
      jobs := (if p then s.keepStub n a k r else s.retireOld n a k r).jobs
      notices := (if p then s.keepStub n a k r else s.retireOld n a k r).notices } := by
  have hk := s.keepStub_changes n a k r
  have hr := s.retireOld_changes n a k r
  generalize s.keepStub n a k r = u at *
  generalize s.retireOld n a k r = w at *
  split
  · rw [hk]
  · rw [hr]

/-- R135. -/
theorem State.spliceDone_changes (s : State) (n : StandNo) (a : Arm) (i j : RollSlot) (old new : Roll) :
    s.spliceDone n a i j old new =
    { s with
      rolls := (s.spliceDone n a i j old new).rolls, lanes := (s.spliceDone n a i j old new).lanes,
      orders := (s.spliceDone n a i j old new).orders,
      nextNumber := (s.spliceDone n a i j old new).nextNumber,
      waiting := (s.spliceDone n a i j old new).waiting, demand := (s.spliceDone n a i j old new).demand,
      stands := (s.spliceDone n a i j old new).stands, jobs := (s.spliceDone n a i j old new).jobs,
      notices := (s.spliceDone n a i j old new).notices } := by
  generalize ht : s.spliceDone n a i j old new = t
  unfold State.spliceDone at ht
  extract_lets splicing setting s1 s2 s3 s4 s5 at ht
  have h1 : s1 = { s with rolls := s1.rolls, stands := s1.stands } := rfl
  have hc := (s1.deduct j setting.spliceWaste).charge_changes
    (Job.chargeSplice (min setting.spliceWaste new.remaining))
  have h2 : s2 = { s1 with rolls := s2.rolls, jobs := s2.jobs } := by
    change s2 = _ at hc
    generalize s2 = u at *
    rw [hc]
    rfl
  have h3 : s3 = { s2 with jobs := s3.jobs } := State.charge_changes _ _
  have h4 : s4 = _ := s3.dispose_changes n a i old
  have h5 : s5 = { s4 with stands := s5.stands, notices := s5.notices } := rfl
  clear_value s5
  clear_value s4
  clear_value s3
  clear_value s2
  clear_value s1
  have h6 := s5.markChecks_changes n
  generalize s5.markChecks n = s6 at *
  have h7 := s6.examine_changes
  rw [ht] at h7
  rw [h7, h6, h5, h4, h3, h2, h1]

/-- R139. -/
theorem State.placeStandby_changes (s : State) (n : StandNo) (a : Arm) (k : RollSlot) (r : Roll) :
    s.placeStandby n a k r =
    { s with
      rolls := (s.placeStandby n a k r).rolls, stands := (s.placeStandby n a k r).stands,
      notices := (s.placeStandby n a k r).notices } := by
  unfold State.placeStandby
  dsimp only
  repeat' split
  all_goals rfl

theorem State.budgetCheck_changes (s : State) (j : JobSlot) :
    s.budgetCheck j =
    { s with
      jobs := (s.budgetCheck j).jobs, notices := (s.budgetCheck j).notices } := by
  unfold State.budgetCheck
  dsimp only
  split <;> rfl

/-- R155. -/
theorem State.countCopy_changes (s : State) (reject : Bool) :
    s.countCopy reject =
    { s with
      jobs := (s.countCopy reject).jobs, wasteFraction := (s.countCopy reject).wasteFraction,
      notices := (s.countCopy reject).notices } := by
  unfold State.countCopy
  split
  · rfl
  · rename_i j _
    dsimp only
    split
    · rfl
    · split
      · generalize hu : (s.chargeRun j).modJob j (Job.countCopy reject) = u
        have h0 : u = { s with jobs := u.jobs, wasteFraction := u.wasteFraction } := by
          subst hu
          rfl
        have h1 := u.budgetCheck_changes j
        generalize u.budgetCheck j = t at *
        rw [h1, h0]
      · rfl

theorem State.compareArm_changes (s : State) (n : StandNo) (a : Arm) :
    s.compareArm n a =
    { s with
      stands := (s.compareArm n a).stands, notices := (s.compareArm n a).notices } := by
  unfold State.compareArm
  dsimp only
  split
  · exact s.demote_changes n a true
  · repeat' split
    all_goals rfl
  · rfl

/-- R141. -/
theorem State.compareStand_changes (s : State) (n : StandNo) :
    s.compareStand n =
    { s with
      stands := (s.compareStand n).stands, notices := (s.compareStand n).notices } := by
  unfold State.compareStand
  split
  · rfl
  · have h0 := s.compareArm_changes n .A
    generalize s.compareArm n .A = t0 at *
    have h1 := t0.compareArm_changes n .B
    generalize t0.compareArm n .B = t1 at *
    rw [h1, h0]

theorem foldl_compareStand_changes (l : List StandNo) (s : State) :
    l.foldl State.compareStand s =
    { s with
      stands := (l.foldl State.compareStand s).stands, notices := (l.foldl State.compareStand s).notices } := by
  induction l generalizing s with
  | nil => rfl
  | cons n l ih =>
    simp only [List.foldl_cons]
    have h0 : s.compareStand n = { s with stands := (s.compareStand n).stands, notices := (s.compareStand n).notices } := by
      exact s.compareStand_changes n
    have h1 := ih (s.compareStand n)
    generalize s.compareStand n = t0 at *
    generalize List.foldl _ t0 l = t1 at *
    rw [h1, h0]

theorem foldl_appendDemand_changes (l : List StandNo) (s : State) :
    l.foldl State.appendDemand s =
    { s with
      demand := (l.foldl State.appendDemand s).demand } := by
  induction l generalizing s with
  | nil => rfl
  | cons n l ih =>
    simp only [List.foldl_cons]
    have h0 : s.appendDemand n = { s with demand := (s.appendDemand n).demand } := by
      exact s.appendDemand_changes n
    have h1 := ih (s.appendDemand n)
    generalize s.appendDemand n = t0 at *
    generalize List.foldl _ t0 l = t1 at *
    rw [h1, h0]

theorem foldl_postShort_changes (l : List StandNo) (s : State) :
    l.foldl State.postShort s =
    { s with
      notices := (l.foldl State.postShort s).notices } := by
  induction l generalizing s with
  | nil => rfl
  | cons n l ih =>
    simp only [List.foldl_cons]
    have h0 : s.postShort n = { s with notices := (s.postShort n).notices } := by
      exact s.postShort_changes n
    have h1 := ih (s.postShort n)
    generalize s.postShort n = t0 at *
    generalize List.foldl _ t0 l = t1 at *
    rw [h1, h0]

theorem State.closeJob_changes (s : State) :
    s.closeJob =
    { s with
      jobs := (s.closeJob).jobs, notices := (s.closeJob).notices } := by
  unfold State.closeJob
  split <;> rfl

/-- R152. -/
theorem State.activate_changes (s : State) (j : JobSlot) :
    s.activate j =
    { s with
      jobs := (s.activate j).jobs, wasteFraction := (s.activate j).wasteFraction,
      notices := (s.activate j).notices } := by
  unfold State.activate
  have h0 := s.closeJob_changes
  generalize s.closeJob = t0 at *
  rw [h0]
  rfl

/-- R85 step 1. -/
theorem State.pruneSlot_changes (s : State) (k : OrderSlot) :
    (s.pruneSlot k).1 =
    { s with
      rolls := ((s.pruneSlot k).1).rolls, lanes := ((s.pruneSlot k).1).lanes,
      orders := ((s.pruneSlot k).1).orders, waiting := ((s.pruneSlot k).1).waiting,
      idle := ((s.pruneSlot k).1).idle, vehicles := ((s.pruneSlot k).1).vehicles,
      outbound := ((s.pruneSlot k).1).outbound, aisles := ((s.pruneSlot k).1).aisles,
      stands := ((s.pruneSlot k).1).stands, notices := ((s.pruneSlot k).1).notices } := by
  unfold State.pruneSlot
  split
  · rfl
  · rename_i o _
    split
    · rfl
    · have h0 := s.withdraw_changes k o
      dsimp only
      generalize s.withdraw k o = t0 at *
      have h1 := t0.markCancelled_changes k o
      generalize t0.markCancelled k o = t1 at *
      rw [h1, h0]

theorem foldl_pruneSlot_changes (f : State × List StandNo → OrderSlot → State × List StandNo)
    (hf : ∀ p k, (f p k).1 = (p.1.pruneSlot k).1) (l : List OrderSlot) (p : State × List StandNo) :
    (l.foldl f p).1 =
    { p.1 with rolls := (l.foldl f p).1.rolls, lanes := (l.foldl f p).1.lanes, orders := (l.foldl f p).1.orders, waiting := (l.foldl f p).1.waiting, idle := (l.foldl f p).1.idle, vehicles := (l.foldl f p).1.vehicles, outbound := (l.foldl f p).1.outbound, aisles := (l.foldl f p).1.aisles, stands := (l.foldl f p).1.stands, notices := (l.foldl f p).1.notices } := by
  induction l generalizing p with
  | nil => rfl
  | cons k l ih =>
    simp only [List.foldl_cons]
    have h0 := p.1.pruneSlot_changes k
    rw [← hf p k] at h0
    have h1 := ih (f p k)
    generalize f p k = q at *
    generalize (List.foldl f q l).1 = t1 at *
    rw [h1, h0]

/-- R85 step 1. -/
theorem State.pruneOrders_changes (s : State) :
    s.pruneOrders.1 =
    { s with
      rolls := (s.pruneOrders.1).rolls, lanes := (s.pruneOrders.1).lanes,
      orders := (s.pruneOrders.1).orders, waiting := (s.pruneOrders.1).waiting,
      idle := (s.pruneOrders.1).idle, vehicles := (s.pruneOrders.1).vehicles,
      outbound := (s.pruneOrders.1).outbound, aisles := (s.pruneOrders.1).aisles,
      stands := (s.pruneOrders.1).stands, notices := (s.pruneOrders.1).notices } := by
  exact foldl_pruneSlot_changes _ (fun _ _ => rfl) _ (s, [])

/-- R153 steps 5 to 7. -/
theorem State.adoptPlan_changes (s : State) :
    s.adoptPlan.1 =
    { s with
      rolls := (s.adoptPlan.1).rolls, lanes := (s.adoptPlan.1).lanes, orders := (s.adoptPlan.1).orders,
      nextNumber := (s.adoptPlan.1).nextNumber, waiting := (s.adoptPlan.1).waiting,
      idle := (s.adoptPlan.1).idle, demand := (s.adoptPlan.1).demand, vehicles := (s.adoptPlan.1).vehicles,
      outbound := (s.adoptPlan.1).outbound, aisles := (s.adoptPlan.1).aisles,
      stands := (s.adoptPlan.1).stands, notices := (s.adoptPlan.1).notices } := by
  generalize ht : s.adoptPlan.1 = t
  unfold State.adoptPlan at ht
  have h0 := s.pruneOrders_changes
  generalize s.pruneOrders = p at *
  extract_lets q again s1 s2 at ht
  have h1 : s1 = _ := foldl_appendDemand_changes again p.1
  have h2 : s2 = { s1 with demand := s2.demand } := rfl
  clear_value s2
  have h3 := s2.examine_changes
  have h4 := foldl_postShort_changes again s2.examine
  rw [show again.foldl State.postShort s2.examine = t from ht] at h4
  generalize s2.examine = s3 at *
  change s1 = { p.1 with demand := s1.demand } at h1
  clear_value s1
  rw [h4, h3, h2, h1, h0]

/-- R152, R153. -/
theorem State.changeover_changes (s : State) (j : JobSlot) :
    (s.changeover j).1 =
    { s with
      rolls := ((s.changeover j).1).rolls, lanes := ((s.changeover j).1).lanes,
      orders := ((s.changeover j).1).orders, nextNumber := ((s.changeover j).1).nextNumber,
      waiting := ((s.changeover j).1).waiting, idle := ((s.changeover j).1).idle,
      demand := ((s.changeover j).1).demand, vehicles := ((s.changeover j).1).vehicles,
      outbound := ((s.changeover j).1).outbound, aisles := ((s.changeover j).1).aisles,
      stands := ((s.changeover j).1).stands, jobs := ((s.changeover j).1).jobs,
      wasteFraction := ((s.changeover j).1).wasteFraction, notices := ((s.changeover j).1).notices } := by
  unfold State.changeover
  dsimp only
  have h0 := s.activate_changes j
  generalize s.activate j = t0 at *
  have h1 := foldl_compareStand_changes (List.finRange 8) t0
  generalize (List.finRange 8).foldl State.compareStand t0 = t1 at *
  have h2 := t1.adoptPlan_changes
  generalize t1.adoptPlan.1 = t2 at *
  have h3 := t2.pair_changes
  generalize t2.pair = t3 at *
  rw [h3, h2, h1, h0]

theorem State.expireDeadline_changes (s : State) (k : OrderSlot) (o : Order) :
    s.expireDeadline k o =
    { s with
      orders := (s.expireDeadline k o).orders, notices := (s.expireDeadline k o).notices } := by
  rfl

/-- R76. -/
theorem State.tickDeadline_changes (s : State) (k : OrderSlot) :
    s.tickDeadline k =
    { s with
      orders := (s.tickDeadline k).orders, notices := (s.tickDeadline k).notices } := by
  unfold State.tickDeadline
  repeat' split
  all_goals rfl

/-- R117, R118. -/
theorem State.tickTenure_changes (s : State) (g : AisleNo) :
    s.tickTenure g =
    { s with
      aisles := (s.tickTenure g).aisles, notices := (s.tickTenure g).notices } := by
  unfold State.tickTenure State.expireTenure State.postBlocked
  repeat' split
  all_goals rfl

theorem foldl_tickDeadline_changes (l : List OrderSlot) (s : State) :
    l.foldl State.tickDeadline s =
    { s with
      orders := (l.foldl State.tickDeadline s).orders, notices := (l.foldl State.tickDeadline s).notices } := by
  induction l generalizing s with
  | nil => rfl
  | cons n l ih =>
    simp only [List.foldl_cons]
    have h0 : s.tickDeadline n = { s with orders := (s.tickDeadline n).orders, notices := (s.tickDeadline n).notices } := by
      exact s.tickDeadline_changes n
    have h1 := ih (s.tickDeadline n)
    generalize s.tickDeadline n = t0 at *
    generalize List.foldl _ t0 l = t1 at *
    rw [h1, h0]

theorem foldl_tickTenure_changes (l : List AisleNo) (s : State) :
    l.foldl State.tickTenure s =
    { s with
      aisles := (l.foldl State.tickTenure s).aisles, notices := (l.foldl State.tickTenure s).notices } := by
  induction l generalizing s with
  | nil => rfl
  | cons n l ih =>
    simp only [List.foldl_cons]
    have h0 : s.tickTenure n = { s with aisles := (s.tickTenure n).aisles, notices := (s.tickTenure n).notices } := by
      exact s.tickTenure_changes n
    have h1 := ih (s.tickTenure n)
    generalize s.tickTenure n = t0 at *
    generalize List.foldl _ t0 l = t1 at *
    rw [h1, h0]

/-- R75. -/
theorem State.tick_changes (s : State) :
    s.tick =
    { s with
      orders := (s.tick).orders, aisles := (s.tick).aisles, notices := (s.tick).notices } := by
  unfold State.tick
  have h0 := foldl_tickDeadline_changes (List.finRange 32) s
  generalize (List.finRange 32).foldl State.tickDeadline s = t0 at *
  have h1 := foldl_tickTenure_changes (List.finRange 8) t0
  generalize (List.finRange 8).foldl State.tickTenure t0 = t1 at *
  rw [h1, h0]

/-- R75. -/
theorem State.refclk_changes (s : State) :
    s.refclk =
    { s with
      hallAccumulator := (s.refclk).hallAccumulator, orders := (s.refclk).orders,
      aisles := (s.refclk).aisles, notices := (s.refclk).notices } := by
  unfold State.refclk
  dsimp only
  split
  · rfl
  · have h := State.tick_changes { s with hallAccumulator := s.hallAccumulator + s.hallIncrement - Config.hallModulus }
    generalize State.tick _ = t at *
    rw [h]

theorem State.hallSecond_changes (s : State) :
    s.hallSecond =
    { s with
      hallAccumulator := (s.hallSecond).hallAccumulator, orders := (s.hallSecond).orders,
      aisles := (s.hallSecond).aisles, notices := (s.hallSecond).notices } := by
  unfold State.hallSecond
  split
  · rfl
  · generalize hu : { s with hallAccumulator := _ } = u
    have h0 : u = { s with hallAccumulator := u.hallAccumulator } := by
      subst hu
      rfl
    have h := u.tick_changes
    generalize u.tick = t at *
    rw [h, h0]

theorem hallSeconds_changes (m : Nat) (s : State) :
    hallSeconds m s =
    { s with hallAccumulator := (hallSeconds m s).hallAccumulator, orders := (hallSeconds m s).orders,
             aisles := (hallSeconds m s).aisles, notices := (hallSeconds m s).notices } := by
  induction m generalizing s with
  | zero => rfl
  | succ m ih =>
    unfold hallSeconds
    have h0 := s.hallSecond_changes
    have h1 := ih s.hallSecond
    generalize s.hallSecond = t0 at *
    generalize hallSeconds m t0 = t1 at *
    rw [h1, h0]

theorem State.refuse_changes (s : State) (v : VehicleNo) (b : Byte) (e : Reason) :
    s.refuse v b e =
    { s with
      outbound := (s.refuse v b e).outbound, notices := (s.refuse v b e).notices } := by
  rfl

/-- R90, R92, R93. -/
theorem State.reportOnline_changes (s : State) (tag : Option Nat) (aisle : Option AisleNo) (v : VehicleNo) :
    State.reportOnline tag aisle v s =
    { s with
      idle := (State.reportOnline tag aisle v s).idle,
      vehicles := (State.reportOnline tag aisle v s).vehicles,
      outbound := (State.reportOnline tag aisle v s).outbound,
      aisles := (State.reportOnline tag aisle v s).aisles,
      notices := (State.reportOnline tag aisle v s).notices } := by
  have hp : ∀ t : State, t.parkIn v aisle = { t with aisles := (t.parkIn v aisle).aisles } := by
    intro t
    cases aisle <;> rfl
  have hi : ∀ t : State, t.idleIfEmpty v = { t with idle := (t.idleIfEmpty v).idle } := by
    intro t
    unfold State.idleIfEmpty
    split <;> rfl
  unfold State.reportOnline
  dsimp only
  split
  · split
    · rfl
    · split
      · rfl
      · have h1 := hp (s.modVehicle v fun x => { x with state := .idle })
        generalize State.parkIn _ v aisle = t1 at *
        have h2 := hi t1
        generalize t1.idleIfEmpty v = t2 at *
        rw [h2, h1]
        rfl
  · split
    · rfl
    · generalize hu : State.instruct _ v _ = u
      have h1 : u = { s with vehicles := u.vehicles, outbound := u.outbound } := by
        subst hu
        rfl
      have h2 := hi u
      generalize u.idleIfEmpty v = t2 at *
      rw [h2, h1]
  · rfl

/-- R94. -/
theorem State.atLegPlace_changes (s : State) (v : VehicleNo) (k : OrderSlot) (p : Place) :
    s.atLegPlace v k p =
    { s with
      orders := (s.atLegPlace v k p).orders, vehicles := (s.atLegPlace v k p).vehicles,
      outbound := (s.atLegPlace v k p).outbound, aisles := (s.atLegPlace v k p).aisles,
      notices := (s.atLegPlace v k p).notices } := by
  unfold State.atLegPlace
  cases p with
  | lane l =>
    dsimp only
    split
    · have h0 := s.arrive_changes s.working.lanes[l].aisle v
      generalize s.arrive s.working.lanes[l].aisle v = t0 at *
      rw [h0]
    · split
      · have h0 := s.arrive_changes s.working.lanes[l].aisle v
        generalize s.arrive s.working.lanes[l].aisle v = t0 at *
        rw [h0]
      · rfl
  | arm n a =>
    dsimp only
    split
    · rfl
    · have h0 := s.endDrive_changes v
      generalize s.endDrive v = t0 at *
      rw [h0]
      rfl
  | dock =>
    have h0 := s.endDrive_changes v
    generalize s.endDrive v = t0 at *
    rw [h0]
    rfl
  | exitBay =>
    have h0 := s.endDrive_changes v
    generalize s.endDrive v = t0 at *
    rw [h0]
    rfl
  | vehicle w =>
    have h0 := s.endDrive_changes v
    generalize s.endDrive v = t0 at *
    rw [h0]
    rfl

/-- R94. -/
theorem State.reportAtPlace_changes (s : State) (p : Place) (v : VehicleNo) :
    State.reportAtPlace p v s =
    { s with
      orders := (State.reportAtPlace p v s).orders, vehicles := (State.reportAtPlace p v s).vehicles,
      outbound := (State.reportAtPlace p v s).outbound, aisles := (State.reportAtPlace p v s).aisles,
      notices := (State.reportAtPlace p v s).notices } := by
  unfold State.reportAtPlace
  dsimp only
  repeat' first | split | rfl | exact s.atLegPlace_changes _ _ _

/-- R22, R72. -/
theorem State.pick_changes (s : State) (v : VehicleNo) (o : Order) :
    s.pick v o =
    { s with
      rolls := (s.pick v o).rolls, dock := (s.pick v o).dock, lanes := (s.pick v o).lanes,
      orders := (s.pick v o).orders, nextNumber := (s.pick v o).nextNumber, waiting := (s.pick v o).waiting,
      demand := (s.pick v o).demand, vehicles := (s.pick v o).vehicles, outbound := (s.pick v o).outbound,
      stands := (s.pick v o).stands } := by
  unfold State.pick
  dsimp only
  have h0 : ∀ t : State, ∀ p : Place, t.leaveSource o.roll p = { t with
      dock := (t.leaveSource o.roll p).dock, lanes := (t.leaveSource o.roll p).lanes
      vehicles := (t.leaveSource o.roll p).vehicles, outbound := (t.leaveSource o.roll p).outbound
      stands := (t.leaveSource o.roll p).stands } := by
    intro t p
    cases p with
    | arm n a =>
      have h := t.vacateArm_changes n a
      simp only [State.leaveSource]
      generalize t.vacateArm n a = u at *
      rw [h]
    | _ => rfl
  have h1 := h0 ((s.ack v 0x03).modRoll o.roll fun r => { r with state := .carried, location := .vehicle v }) o.source
  generalize State.leaveSource _ o.roll o.source = t1 at *
  have h2 := (t1.modVehicle v fun x => { x with roll := some o.roll }).advance_changes v .laden .laden
  generalize State.advance _ v .laden .laden = t2 at *
  have h3 := t2.examine_changes
  unfold State.examineAfterPick
  split
  · generalize t2.examine = t3 at *
    rw [h3, h2, h1]
    rfl
  · generalize t2.examine = t3 at *
    rw [h3, h2, h1]
    rfl
  · rw [h2, h1]
    rfl

/-- R72. -/
theorem State.reportPicked_changes (s : State) (tag : Nat) (v : VehicleNo) :
    State.reportPicked tag v s =
    { s with
      rolls := (State.reportPicked tag v s).rolls, dock := (State.reportPicked tag v s).dock,
      lanes := (State.reportPicked tag v s).lanes, orders := (State.reportPicked tag v s).orders,
      nextNumber := (State.reportPicked tag v s).nextNumber,
      waiting := (State.reportPicked tag v s).waiting, demand := (State.reportPicked tag v s).demand,
      vehicles := (State.reportPicked tag v s).vehicles, outbound := (State.reportPicked tag v s).outbound,
      stands := (State.reportPicked tag v s).stands, notices := (State.reportPicked tag v s).notices } := by
  unfold State.reportPicked
  dsimp only
  repeat' first | split | rfl
  all_goals
    rename_i o _ _ _ _
    have h0 := s.pick_changes v o
    generalize s.pick v o = t0 at *
    rw [h0]

theorem State.placeDropped_changes (s : State) (k : RollSlot) (r : Roll) (p : Place) :
    s.placeDropped k r p =
    { s with
      rolls := (s.placeDropped k r p).rolls, lanes := (s.placeDropped k r p).lanes,
      stands := (s.placeDropped k r p).stands, notices := (s.placeDropped k r p).notices } := by
  cases p with
  | arm n a =>
    have h := s.placeStandby_changes n a k r
    simp only [State.placeDropped]
    generalize s.placeStandby n a k r = u at *
    rw [h]
  | _ => rfl

/-- R74. -/
theorem State.complete_changes (s : State) (v : VehicleNo) (k : OrderSlot) (o : Order) (r : Roll) :
    s.complete v k o r =
    { s with
      rolls := (s.complete v k o r).rolls, lanes := (s.complete v k o r).lanes,
      orders := (s.complete v k o r).orders, nextNumber := (s.complete v k o r).nextNumber,
      waiting := (s.complete v k o r).waiting, idle := (s.complete v k o r).idle,
      demand := (s.complete v k o r).demand, vehicles := (s.complete v k o r).vehicles,
      outbound := (s.complete v k o r).outbound, stands := (s.complete v k o r).stands,
      notices := (s.complete v k o r).notices } := by
  unfold State.complete
  dsimp only
  have h0 := (s.modVehicle v fun x => { x with roll := none }).placeDropped_changes o.roll r o.dest
  generalize State.placeDropped _ o.roll r o.dest = t0 at *
  have h1 : ∀ t : State, t = { t0 with
      rolls := t.rolls, orders := t.orders, vehicles := t.vehicles, idle := t.idle, outbound := t.outbound,
      notices := t.notices } → t.examine = { s with
        rolls := t.examine.rolls, lanes := t.examine.lanes, orders := t.examine.orders
        nextNumber := t.examine.nextNumber, waiting := t.examine.waiting, idle := t.examine.idle
        demand := t.examine.demand, vehicles := t.examine.vehicles, outbound := t.examine.outbound
        stands := t.examine.stands, notices := t.examine.notices } := by
    intro t ht
    have h2 := t.examine_changes
    generalize t.examine = t2 at *
    rw [h2, ht, h0]
    rfl
  exact h1 _ rfl

/-- R74. -/
theorem State.reportDropped_changes (s : State) (v : VehicleNo) :
    State.reportDropped v s =
    { s with
      rolls := (State.reportDropped v s).rolls, lanes := (State.reportDropped v s).lanes,
      orders := (State.reportDropped v s).orders, nextNumber := (State.reportDropped v s).nextNumber,
      waiting := (State.reportDropped v s).waiting, idle := (State.reportDropped v s).idle,
      demand := (State.reportDropped v s).demand, vehicles := (State.reportDropped v s).vehicles,
      outbound := (State.reportDropped v s).outbound, stands := (State.reportDropped v s).stands,
      notices := (State.reportDropped v s).notices } := by
  unfold State.reportDropped
  dsimp only
  repeat' first | split | rfl
  all_goals exact s.complete_changes _ _ _ _

/-- R96, R113. -/
theorem State.reportClear_changes (s : State) (v : VehicleNo) :
    State.reportClear v s =
    { s with
      orders := (State.reportClear v s).orders, vehicles := (State.reportClear v s).vehicles,
      outbound := (State.reportClear v s).outbound, aisles := (State.reportClear v s).aisles,
      notices := (State.reportClear v s).notices } := by
  unfold State.reportClear
  repeat' first | split | rfl
  all_goals
    rename_i g _
    have h0 := (s.ack v 0x05).handOver_changes g
    generalize (s.ack v 0x05).handOver g = t0 at *
    rw [h0]
    rfl

/-- R96, R114. -/
theorem State.reportPark_changes (s : State) (v : VehicleNo) :
    State.reportPark v s =
    { s with
      outbound := (State.reportPark v s).outbound, aisles := (State.reportPark v s).aisles,
      notices := (State.reportPark v s).notices } := by
  unfold State.reportPark State.parkHolder
  dsimp only
  repeat' first | split | rfl

theorem State.stallOrderOf_changes (s : State) (v : VehicleNo) :
    s.stallOrderOf v =
    { s with
      orders := (s.stallOrderOf v).orders, notices := (s.stallOrderOf v).notices } := by
  unfold State.stallOrderOf
  repeat' first | split | rfl

/-- R97. -/
theorem State.reportFault_changes (s : State) (code : Nat) (v : VehicleNo) :
    State.reportFault code v s =
    { s with
      orders := (State.reportFault code v s).orders, idle := (State.reportFault code v s).idle,
      vehicles := (State.reportFault code v s).vehicles, outbound := (State.reportFault code v s).outbound,
      aisles := (State.reportFault code v s).aisles, notices := (State.reportFault code v s).notices } := by
  unfold State.reportFault
  split
  · rfl
  · rfl
  · dsimp only
    have h0 : ∀ t : State, t = { s with vehicles := t.vehicles, idle := t.idle } →
        ((t.endWait v).post (.vehicleFault v) (.faultCode code)) = { s with
          vehicles := (t.endWait v).vehicles, idle := t.idle, aisles := (t.endWait v).aisles
          notices := ((t.endWait v).post (.vehicleFault v) (.faultCode code)).notices } := by
      intro t ht
      have h := t.endWait_changes v
      generalize t.endWait v = u at *
      rw [h, ht]
      rfl
    have h1 := h0 (State.leaveIdle (s.modVehicle v fun x =>
      { x with state := .faulted, beforeFault := some s.vehicles[v].state, faultCode := code }) v) rfl
    generalize State.post _ (.vehicleFault v) (.faultCode code) = t1 at *
    have h2 := t1.stallOrderOf_changes v
    generalize t1.stallOrderOf v = t2 at *
    rw [h2, h1]
    rfl

/-- R98, R113. -/
theorem State.reportOffline_changes (s : State) (v : VehicleNo) :
    State.reportOffline v s =
    { s with
      orders := (State.reportOffline v s).orders, idle := (State.reportOffline v s).idle,
      vehicles := (State.reportOffline v s).vehicles, outbound := (State.reportOffline v s).outbound,
      aisles := (State.reportOffline v s).aisles, notices := (State.reportOffline v s).notices } := by
  have h : s.goOffline v = { s with
      orders := (s.goOffline v).orders, idle := (s.goOffline v).idle, vehicles := (s.goOffline v).vehicles
      outbound := (s.goOffline v).outbound, aisles := (s.goOffline v).aisles } := by
    generalize ht : s.goOffline v = t
    unfold State.goOffline at ht
    extract_lets s1 at ht
    have h1 : s1 = { s with vehicles := s1.vehicles } := rfl
    clear_value s1
    have h2 := ((s1.leaveIdle v).ack v 0x08).releaseTenure_changes v
    rw [ht] at h2
    rw [h2, h1]
    rfl
  unfold State.reportOffline
  generalize s.goOffline v = t at *
  repeat' first | split | rfl
  all_goals (rw [h])

/-- R32 to R34. -/
theorem State.placeDeclared_changes (s : State) (k : RollSlot) (r : Roll) :
    s.placeDeclared k r =
    { s with
      rolls := (s.placeDeclared k r).rolls, dock := (s.placeDeclared k r).dock,
      lanes := (s.placeDeclared k r).lanes, orders := (s.placeDeclared k r).orders,
      nextNumber := (s.placeDeclared k r).nextNumber, waiting := (s.placeDeclared k r).waiting,
      idle := (s.placeDeclared k r).idle, demand := (s.placeDeclared k r).demand,
      vehicles := (s.placeDeclared k r).vehicles, outbound := (s.placeDeclared k r).outbound,
      stands := (s.placeDeclared k r).stands } := by
  unfold State.placeDeclared
  split
  · rfl
  · rename_i l _
    dsimp only
    generalize ht : State.modLane s l _ = t
    have h0 := t.examine_changes
    have h1 := t.examine.pair_changes
    split
    · generalize t.examine = t1 at *
      generalize t1.pair = t2 at *
      rw [h1, h0, ← ht]
      rfl
    · rw [← ht]
      rfl
  · rfl
  · split <;> rfl

end Sys2Proof.Machine
end

