-- ==== Sys2Proof/Laws/State.lean ====
section
/-! SUPPORT. What each named update of the state makes of each field, by definition. -/

namespace Sys2Proof.Machine

variable (s : State)

/-! ### State.modLane -/

@[simp] theorem State.modLane_device (l : LaneNo) (f : Lane → Lane) :
    (s.modLane l f).device = s.device := rfl
@[simp] theorem State.modLane_setmem (l : LaneNo) (f : Lane → Lane) :
    (s.modLane l f).setmem = s.setmem := rfl
@[simp] theorem State.modLane_working (l : LaneNo) (f : Lane → Lane) :
    (s.modLane l f).working = s.working := rfl
@[simp] theorem State.modLane_loaded (l : LaneNo) (f : Lane → Lane) :
    (s.modLane l f).loaded = s.loaded := rfl
@[simp] theorem State.modLane_store (l : LaneNo) (f : Lane → Lane) :
    (s.modLane l f).store = s.store := rfl
@[simp] theorem State.modLane_hallIncrement (l : LaneNo) (f : Lane → Lane) :
    (s.modLane l f).hallIncrement = s.hallIncrement := rfl
@[simp] theorem State.modLane_hallAccumulator (l : LaneNo) (f : Lane → Lane) :
    (s.modLane l f).hallAccumulator = s.hallAccumulator := rfl
@[simp] theorem State.modLane_rolls (l : LaneNo) (f : Lane → Lane) :
    (s.modLane l f).rolls = s.rolls := rfl
@[simp] theorem State.modLane_sequence (l : LaneNo) (f : Lane → Lane) :
    (s.modLane l f).sequence = s.sequence := rfl
@[simp] theorem State.modLane_dock (l : LaneNo) (f : Lane → Lane) :
    (s.modLane l f).dock = s.dock := rfl
@[simp] theorem State.modLane_lanes (l : LaneNo) (f : Lane → Lane) :
    (s.modLane l f).lanes = s.lanes.set l (f s.lanes[l]) := rfl
@[simp] theorem State.modLane_orders (l : LaneNo) (f : Lane → Lane) :
    (s.modLane l f).orders = s.orders := rfl
@[simp] theorem State.modLane_nextNumber (l : LaneNo) (f : Lane → Lane) :
    (s.modLane l f).nextNumber = s.nextNumber := rfl
@[simp] theorem State.modLane_waiting (l : LaneNo) (f : Lane → Lane) :
    (s.modLane l f).waiting = s.waiting := rfl
@[simp] theorem State.modLane_idle (l : LaneNo) (f : Lane → Lane) :
    (s.modLane l f).idle = s.idle := rfl
@[simp] theorem State.modLane_demand (l : LaneNo) (f : Lane → Lane) :
    (s.modLane l f).demand = s.demand := rfl
@[simp] theorem State.modLane_vehicles (l : LaneNo) (f : Lane → Lane) :
    (s.modLane l f).vehicles = s.vehicles := rfl
@[simp] theorem State.modLane_lineBytes (l : LaneNo) (f : Lane → Lane) :
    (s.modLane l f).lineBytes = s.lineBytes := rfl
@[simp] theorem State.modLane_received (l : LaneNo) (f : Lane → Lane) :
    (s.modLane l f).received = s.received := rfl
@[simp] theorem State.modLane_outbound (l : LaneNo) (f : Lane → Lane) :
    (s.modLane l f).outbound = s.outbound := rfl
@[simp] theorem State.modLane_finishing (l : LaneNo) (f : Lane → Lane) :
    (s.modLane l f).finishing = s.finishing := rfl
@[simp] theorem State.modLane_aisles (l : LaneNo) (f : Lane → Lane) :
    (s.modLane l f).aisles = s.aisles := rfl
@[simp] theorem State.modLane_stands (l : LaneNo) (f : Lane → Lane) :
    (s.modLane l f).stands = s.stands := rfl
@[simp] theorem State.modLane_jobs (l : LaneNo) (f : Lane → Lane) :
    (s.modLane l f).jobs = s.jobs := rfl
@[simp] theorem State.modLane_wasteFraction (l : LaneNo) (f : Lane → Lane) :
    (s.modLane l f).wasteFraction = s.wasteFraction := rfl
@[simp] theorem State.modLane_saleable (l : LaneNo) (f : Lane → Lane) :
    (s.modLane l f).saleable = s.saleable := rfl
@[simp] theorem State.modLane_requests (l : LaneNo) (f : Lane → Lane) :
    (s.modLane l f).requests = s.requests := rfl
@[simp] theorem State.modLane_answers (l : LaneNo) (f : Lane → Lane) :
    (s.modLane l f).answers = s.answers := rfl
@[simp] theorem State.modLane_overrunMark (l : LaneNo) (f : Lane → Lane) :
    (s.modLane l f).overrunMark = s.overrunMark := rfl
@[simp] theorem State.modLane_framingMark (l : LaneNo) (f : Lane → Lane) :
    (s.modLane l f).framingMark = s.framingMark := rfl
@[simp] theorem State.modLane_resetPending (l : LaneNo) (f : Lane → Lane) :
    (s.modLane l f).resetPending = s.resetPending := rfl
@[simp] theorem State.modLane_period (l : LaneNo) (f : Lane → Lane) :
    (s.modLane l f).period = s.period := rfl
@[simp] theorem State.modLane_frameSpoiled (l : LaneNo) (f : Lane → Lane) :
    (s.modLane l f).frameSpoiled = s.frameSpoiled := rfl
@[simp] theorem State.modLane_notices (l : LaneNo) (f : Lane → Lane) :
    (s.modLane l f).notices = s.notices := rfl
@[simp] theorem State.modLane_pending (l : LaneNo) (f : Lane → Lane) :
    (s.modLane l f).pending = s.pending := rfl

/-! ### State.setOrder -/

@[simp] theorem State.setOrder_device (k : OrderSlot) (o : Option Order) :
    (s.setOrder k o).device = s.device := rfl
@[simp] theorem State.setOrder_setmem (k : OrderSlot) (o : Option Order) :
    (s.setOrder k o).setmem = s.setmem := rfl
@[simp] theorem State.setOrder_working (k : OrderSlot) (o : Option Order) :
    (s.setOrder k o).working = s.working := rfl
@[simp] theorem State.setOrder_loaded (k : OrderSlot) (o : Option Order) :
    (s.setOrder k o).loaded = s.loaded := rfl
@[simp] theorem State.setOrder_store (k : OrderSlot) (o : Option Order) :
    (s.setOrder k o).store = s.store := rfl
@[simp] theorem State.setOrder_hallIncrement (k : OrderSlot) (o : Option Order) :
    (s.setOrder k o).hallIncrement = s.hallIncrement := rfl
@[simp] theorem State.setOrder_hallAccumulator (k : OrderSlot) (o : Option Order) :
    (s.setOrder k o).hallAccumulator = s.hallAccumulator := rfl
@[simp] theorem State.setOrder_rolls (k : OrderSlot) (o : Option Order) :
    (s.setOrder k o).rolls = s.rolls := rfl
@[simp] theorem State.setOrder_sequence (k : OrderSlot) (o : Option Order) :
    (s.setOrder k o).sequence = s.sequence := rfl
@[simp] theorem State.setOrder_dock (k : OrderSlot) (o : Option Order) :
    (s.setOrder k o).dock = s.dock := rfl
@[simp] theorem State.setOrder_lanes (k : OrderSlot) (o : Option Order) :
    (s.setOrder k o).lanes = s.lanes := rfl
@[simp] theorem State.setOrder_orders (k : OrderSlot) (o : Option Order) :
    (s.setOrder k o).orders = s.orders.set k o := rfl
@[simp] theorem State.setOrder_nextNumber (k : OrderSlot) (o : Option Order) :
    (s.setOrder k o).nextNumber = s.nextNumber := rfl
@[simp] theorem State.setOrder_waiting (k : OrderSlot) (o : Option Order) :
    (s.setOrder k o).waiting = s.waiting := rfl
@[simp] theorem State.setOrder_idle (k : OrderSlot) (o : Option Order) :
    (s.setOrder k o).idle = s.idle := rfl
@[simp] theorem State.setOrder_demand (k : OrderSlot) (o : Option Order) :
    (s.setOrder k o).demand = s.demand := rfl
@[simp] theorem State.setOrder_vehicles (k : OrderSlot) (o : Option Order) :
    (s.setOrder k o).vehicles = s.vehicles := rfl
@[simp] theorem State.setOrder_lineBytes (k : OrderSlot) (o : Option Order) :
    (s.setOrder k o).lineBytes = s.lineBytes := rfl
@[simp] theorem State.setOrder_received (k : OrderSlot) (o : Option Order) :
    (s.setOrder k o).received = s.received := rfl
@[simp] theorem State.setOrder_outbound (k : OrderSlot) (o : Option Order) :
    (s.setOrder k o).outbound = s.outbound := rfl
@[simp] theorem State.setOrder_finishing (k : OrderSlot) (o : Option Order) :
    (s.setOrder k o).finishing = s.finishing := rfl
@[simp] theorem State.setOrder_aisles (k : OrderSlot) (o : Option Order) :
    (s.setOrder k o).aisles = s.aisles := rfl
@[simp] theorem State.setOrder_stands (k : OrderSlot) (o : Option Order) :
    (s.setOrder k o).stands = s.stands := rfl
@[simp] theorem State.setOrder_jobs (k : OrderSlot) (o : Option Order) :
    (s.setOrder k o).jobs = s.jobs := rfl
@[simp] theorem State.setOrder_wasteFraction (k : OrderSlot) (o : Option Order) :
    (s.setOrder k o).wasteFraction = s.wasteFraction := rfl
@[simp] theorem State.setOrder_saleable (k : OrderSlot) (o : Option Order) :
    (s.setOrder k o).saleable = s.saleable := rfl
@[simp] theorem State.setOrder_requests (k : OrderSlot) (o : Option Order) :
    (s.setOrder k o).requests = s.requests := rfl
@[simp] theorem State.setOrder_answers (k : OrderSlot) (o : Option Order) :
    (s.setOrder k o).answers = s.answers := rfl
@[simp] theorem State.setOrder_overrunMark (k : OrderSlot) (o : Option Order) :
    (s.setOrder k o).overrunMark = s.overrunMark := rfl
@[simp] theorem State.setOrder_framingMark (k : OrderSlot) (o : Option Order) :
    (s.setOrder k o).framingMark = s.framingMark := rfl
@[simp] theorem State.setOrder_resetPending (k : OrderSlot) (o : Option Order) :
    (s.setOrder k o).resetPending = s.resetPending := rfl
@[simp] theorem State.setOrder_period (k : OrderSlot) (o : Option Order) :
    (s.setOrder k o).period = s.period := rfl
@[simp] theorem State.setOrder_frameSpoiled (k : OrderSlot) (o : Option Order) :
    (s.setOrder k o).frameSpoiled = s.frameSpoiled := rfl
@[simp] theorem State.setOrder_notices (k : OrderSlot) (o : Option Order) :
    (s.setOrder k o).notices = s.notices := rfl
@[simp] theorem State.setOrder_pending (k : OrderSlot) (o : Option Order) :
    (s.setOrder k o).pending = s.pending := rfl

/-! ### State.modOrder -/

@[simp] theorem State.modOrder_device (k : OrderSlot) (f : Order → Order) :
    (s.modOrder k f).device = s.device := rfl
@[simp] theorem State.modOrder_setmem (k : OrderSlot) (f : Order → Order) :
    (s.modOrder k f).setmem = s.setmem := rfl
@[simp] theorem State.modOrder_working (k : OrderSlot) (f : Order → Order) :
    (s.modOrder k f).working = s.working := rfl
@[simp] theorem State.modOrder_loaded (k : OrderSlot) (f : Order → Order) :
    (s.modOrder k f).loaded = s.loaded := rfl
@[simp] theorem State.modOrder_store (k : OrderSlot) (f : Order → Order) :
    (s.modOrder k f).store = s.store := rfl
@[simp] theorem State.modOrder_hallIncrement (k : OrderSlot) (f : Order → Order) :
    (s.modOrder k f).hallIncrement = s.hallIncrement := rfl
@[simp] theorem State.modOrder_hallAccumulator (k : OrderSlot) (f : Order → Order) :
    (s.modOrder k f).hallAccumulator = s.hallAccumulator := rfl
@[simp] theorem State.modOrder_rolls (k : OrderSlot) (f : Order → Order) :
    (s.modOrder k f).rolls = s.rolls := rfl
@[simp] theorem State.modOrder_sequence (k : OrderSlot) (f : Order → Order) :
    (s.modOrder k f).sequence = s.sequence := rfl
@[simp] theorem State.modOrder_dock (k : OrderSlot) (f : Order → Order) :
    (s.modOrder k f).dock = s.dock := rfl
@[simp] theorem State.modOrder_lanes (k : OrderSlot) (f : Order → Order) :
    (s.modOrder k f).lanes = s.lanes := rfl
@[simp] theorem State.modOrder_orders (k : OrderSlot) (f : Order → Order) :
    (s.modOrder k f).orders = s.orders.set k (s.orders[k].map f) := rfl
@[simp] theorem State.modOrder_nextNumber (k : OrderSlot) (f : Order → Order) :
    (s.modOrder k f).nextNumber = s.nextNumber := rfl
@[simp] theorem State.modOrder_waiting (k : OrderSlot) (f : Order → Order) :
    (s.modOrder k f).waiting = s.waiting := rfl
@[simp] theorem State.modOrder_idle (k : OrderSlot) (f : Order → Order) :
    (s.modOrder k f).idle = s.idle := rfl
@[simp] theorem State.modOrder_demand (k : OrderSlot) (f : Order → Order) :
    (s.modOrder k f).demand = s.demand := rfl
@[simp] theorem State.modOrder_vehicles (k : OrderSlot) (f : Order → Order) :
    (s.modOrder k f).vehicles = s.vehicles := rfl
@[simp] theorem State.modOrder_lineBytes (k : OrderSlot) (f : Order → Order) :
    (s.modOrder k f).lineBytes = s.lineBytes := rfl
@[simp] theorem State.modOrder_received (k : OrderSlot) (f : Order → Order) :
    (s.modOrder k f).received = s.received := rfl
@[simp] theorem State.modOrder_outbound (k : OrderSlot) (f : Order → Order) :
    (s.modOrder k f).outbound = s.outbound := rfl
@[simp] theorem State.modOrder_finishing (k : OrderSlot) (f : Order → Order) :
    (s.modOrder k f).finishing = s.finishing := rfl
@[simp] theorem State.modOrder_aisles (k : OrderSlot) (f : Order → Order) :
    (s.modOrder k f).aisles = s.aisles := rfl
@[simp] theorem State.modOrder_stands (k : OrderSlot) (f : Order → Order) :
    (s.modOrder k f).stands = s.stands := rfl
@[simp] theorem State.modOrder_jobs (k : OrderSlot) (f : Order → Order) :
    (s.modOrder k f).jobs = s.jobs := rfl
@[simp] theorem State.modOrder_wasteFraction (k : OrderSlot) (f : Order → Order) :
    (s.modOrder k f).wasteFraction = s.wasteFraction := rfl
@[simp] theorem State.modOrder_saleable (k : OrderSlot) (f : Order → Order) :
    (s.modOrder k f).saleable = s.saleable := rfl
@[simp] theorem State.modOrder_requests (k : OrderSlot) (f : Order → Order) :
    (s.modOrder k f).requests = s.requests := rfl
@[simp] theorem State.modOrder_answers (k : OrderSlot) (f : Order → Order) :
    (s.modOrder k f).answers = s.answers := rfl
@[simp] theorem State.modOrder_overrunMark (k : OrderSlot) (f : Order → Order) :
    (s.modOrder k f).overrunMark = s.overrunMark := rfl
@[simp] theorem State.modOrder_framingMark (k : OrderSlot) (f : Order → Order) :
    (s.modOrder k f).framingMark = s.framingMark := rfl
@[simp] theorem State.modOrder_resetPending (k : OrderSlot) (f : Order → Order) :
    (s.modOrder k f).resetPending = s.resetPending := rfl
@[simp] theorem State.modOrder_period (k : OrderSlot) (f : Order → Order) :
    (s.modOrder k f).period = s.period := rfl
@[simp] theorem State.modOrder_frameSpoiled (k : OrderSlot) (f : Order → Order) :
    (s.modOrder k f).frameSpoiled = s.frameSpoiled := rfl
@[simp] theorem State.modOrder_notices (k : OrderSlot) (f : Order → Order) :
    (s.modOrder k f).notices = s.notices := rfl
@[simp] theorem State.modOrder_pending (k : OrderSlot) (f : Order → Order) :
    (s.modOrder k f).pending = s.pending := rfl

/-! ### State.modVehicle -/

@[simp] theorem State.modVehicle_device (v : VehicleNo) (f : Vehicle → Vehicle) :
    (s.modVehicle v f).device = s.device := rfl
@[simp] theorem State.modVehicle_setmem (v : VehicleNo) (f : Vehicle → Vehicle) :
    (s.modVehicle v f).setmem = s.setmem := rfl
@[simp] theorem State.modVehicle_working (v : VehicleNo) (f : Vehicle → Vehicle) :
    (s.modVehicle v f).working = s.working := rfl
@[simp] theorem State.modVehicle_loaded (v : VehicleNo) (f : Vehicle → Vehicle) :
    (s.modVehicle v f).loaded = s.loaded := rfl
@[simp] theorem State.modVehicle_store (v : VehicleNo) (f : Vehicle → Vehicle) :
    (s.modVehicle v f).store = s.store := rfl
@[simp] theorem State.modVehicle_hallIncrement (v : VehicleNo) (f : Vehicle → Vehicle) :
    (s.modVehicle v f).hallIncrement = s.hallIncrement := rfl
@[simp] theorem State.modVehicle_hallAccumulator (v : VehicleNo) (f : Vehicle → Vehicle) :
    (s.modVehicle v f).hallAccumulator = s.hallAccumulator := rfl
@[simp] theorem State.modVehicle_rolls (v : VehicleNo) (f : Vehicle → Vehicle) :
    (s.modVehicle v f).rolls = s.rolls := rfl
@[simp] theorem State.modVehicle_sequence (v : VehicleNo) (f : Vehicle → Vehicle) :
    (s.modVehicle v f).sequence = s.sequence := rfl
@[simp] theorem State.modVehicle_dock (v : VehicleNo) (f : Vehicle → Vehicle) :
    (s.modVehicle v f).dock = s.dock := rfl
@[simp] theorem State.modVehicle_lanes (v : VehicleNo) (f : Vehicle → Vehicle) :
    (s.modVehicle v f).lanes = s.lanes := rfl
@[simp] theorem State.modVehicle_orders (v : VehicleNo) (f : Vehicle → Vehicle) :
    (s.modVehicle v f).orders = s.orders := rfl
@[simp] theorem State.modVehicle_nextNumber (v : VehicleNo) (f : Vehicle → Vehicle) :
    (s.modVehicle v f).nextNumber = s.nextNumber := rfl
@[simp] theorem State.modVehicle_waiting (v : VehicleNo) (f : Vehicle → Vehicle) :
    (s.modVehicle v f).waiting = s.waiting := rfl
@[simp] theorem State.modVehicle_idle (v : VehicleNo) (f : Vehicle → Vehicle) :
    (s.modVehicle v f).idle = s.idle := rfl
@[simp] theorem State.modVehicle_demand (v : VehicleNo) (f : Vehicle → Vehicle) :
    (s.modVehicle v f).demand = s.demand := rfl
@[simp] theorem State.modVehicle_vehicles (v : VehicleNo) (f : Vehicle → Vehicle) :
    (s.modVehicle v f).vehicles = s.vehicles.set v (f s.vehicles[v]) := rfl
@[simp] theorem State.modVehicle_lineBytes (v : VehicleNo) (f : Vehicle → Vehicle) :
    (s.modVehicle v f).lineBytes = s.lineBytes := rfl
@[simp] theorem State.modVehicle_received (v : VehicleNo) (f : Vehicle → Vehicle) :
    (s.modVehicle v f).received = s.received := rfl
@[simp] theorem State.modVehicle_outbound (v : VehicleNo) (f : Vehicle → Vehicle) :
    (s.modVehicle v f).outbound = s.outbound := rfl
@[simp] theorem State.modVehicle_finishing (v : VehicleNo) (f : Vehicle → Vehicle) :
    (s.modVehicle v f).finishing = s.finishing := rfl
@[simp] theorem State.modVehicle_aisles (v : VehicleNo) (f : Vehicle → Vehicle) :
    (s.modVehicle v f).aisles = s.aisles := rfl
@[simp] theorem State.modVehicle_stands (v : VehicleNo) (f : Vehicle → Vehicle) :
    (s.modVehicle v f).stands = s.stands := rfl
@[simp] theorem State.modVehicle_jobs (v : VehicleNo) (f : Vehicle → Vehicle) :
    (s.modVehicle v f).jobs = s.jobs := rfl
@[simp] theorem State.modVehicle_wasteFraction (v : VehicleNo) (f : Vehicle → Vehicle) :
    (s.modVehicle v f).wasteFraction = s.wasteFraction := rfl
@[simp] theorem State.modVehicle_saleable (v : VehicleNo) (f : Vehicle → Vehicle) :
    (s.modVehicle v f).saleable = s.saleable := rfl
@[simp] theorem State.modVehicle_requests (v : VehicleNo) (f : Vehicle → Vehicle) :
    (s.modVehicle v f).requests = s.requests := rfl
@[simp] theorem State.modVehicle_answers (v : VehicleNo) (f : Vehicle → Vehicle) :
    (s.modVehicle v f).answers = s.answers := rfl
@[simp] theorem State.modVehicle_overrunMark (v : VehicleNo) (f : Vehicle → Vehicle) :
    (s.modVehicle v f).overrunMark = s.overrunMark := rfl
@[simp] theorem State.modVehicle_framingMark (v : VehicleNo) (f : Vehicle → Vehicle) :
    (s.modVehicle v f).framingMark = s.framingMark := rfl
@[simp] theorem State.modVehicle_resetPending (v : VehicleNo) (f : Vehicle → Vehicle) :
    (s.modVehicle v f).resetPending = s.resetPending := rfl
@[simp] theorem State.modVehicle_period (v : VehicleNo) (f : Vehicle → Vehicle) :
    (s.modVehicle v f).period = s.period := rfl
@[simp] theorem State.modVehicle_frameSpoiled (v : VehicleNo) (f : Vehicle → Vehicle) :
    (s.modVehicle v f).frameSpoiled = s.frameSpoiled := rfl
@[simp] theorem State.modVehicle_notices (v : VehicleNo) (f : Vehicle → Vehicle) :
    (s.modVehicle v f).notices = s.notices := rfl
@[simp] theorem State.modVehicle_pending (v : VehicleNo) (f : Vehicle → Vehicle) :
    (s.modVehicle v f).pending = s.pending := rfl

/-! ### State.modAisle -/

@[simp] theorem State.modAisle_device (g : AisleNo) (f : Aisle → Aisle) :
    (s.modAisle g f).device = s.device := rfl
@[simp] theorem State.modAisle_setmem (g : AisleNo) (f : Aisle → Aisle) :
    (s.modAisle g f).setmem = s.setmem := rfl
@[simp] theorem State.modAisle_working (g : AisleNo) (f : Aisle → Aisle) :
    (s.modAisle g f).working = s.working := rfl
@[simp] theorem State.modAisle_loaded (g : AisleNo) (f : Aisle → Aisle) :
    (s.modAisle g f).loaded = s.loaded := rfl
@[simp] theorem State.modAisle_store (g : AisleNo) (f : Aisle → Aisle) :
    (s.modAisle g f).store = s.store := rfl
@[simp] theorem State.modAisle_hallIncrement (g : AisleNo) (f : Aisle → Aisle) :
    (s.modAisle g f).hallIncrement = s.hallIncrement := rfl
@[simp] theorem State.modAisle_hallAccumulator (g : AisleNo) (f : Aisle → Aisle) :
    (s.modAisle g f).hallAccumulator = s.hallAccumulator := rfl
@[simp] theorem State.modAisle_rolls (g : AisleNo) (f : Aisle → Aisle) :
    (s.modAisle g f).rolls = s.rolls := rfl
@[simp] theorem State.modAisle_sequence (g : AisleNo) (f : Aisle → Aisle) :
    (s.modAisle g f).sequence = s.sequence := rfl
@[simp] theorem State.modAisle_dock (g : AisleNo) (f : Aisle → Aisle) :
    (s.modAisle g f).dock = s.dock := rfl
@[simp] theorem State.modAisle_lanes (g : AisleNo) (f : Aisle → Aisle) :
    (s.modAisle g f).lanes = s.lanes := rfl
@[simp] theorem State.modAisle_orders (g : AisleNo) (f : Aisle → Aisle) :
    (s.modAisle g f).orders = s.orders := rfl
@[simp] theorem State.modAisle_nextNumber (g : AisleNo) (f : Aisle → Aisle) :
    (s.modAisle g f).nextNumber = s.nextNumber := rfl
@[simp] theorem State.modAisle_waiting (g : AisleNo) (f : Aisle → Aisle) :
    (s.modAisle g f).waiting = s.waiting := rfl
@[simp] theorem State.modAisle_idle (g : AisleNo) (f : Aisle → Aisle) :
    (s.modAisle g f).idle = s.idle := rfl
@[simp] theorem State.modAisle_demand (g : AisleNo) (f : Aisle → Aisle) :
    (s.modAisle g f).demand = s.demand := rfl
@[simp] theorem State.modAisle_vehicles (g : AisleNo) (f : Aisle → Aisle) :
    (s.modAisle g f).vehicles = s.vehicles := rfl
@[simp] theorem State.modAisle_lineBytes (g : AisleNo) (f : Aisle → Aisle) :
    (s.modAisle g f).lineBytes = s.lineBytes := rfl
@[simp] theorem State.modAisle_received (g : AisleNo) (f : Aisle → Aisle) :
    (s.modAisle g f).received = s.received := rfl
@[simp] theorem State.modAisle_outbound (g : AisleNo) (f : Aisle → Aisle) :
    (s.modAisle g f).outbound = s.outbound := rfl
@[simp] theorem State.modAisle_finishing (g : AisleNo) (f : Aisle → Aisle) :
    (s.modAisle g f).finishing = s.finishing := rfl
@[simp] theorem State.modAisle_aisles (g : AisleNo) (f : Aisle → Aisle) :
    (s.modAisle g f).aisles = s.aisles.set g (f s.aisles[g]) := rfl
@[simp] theorem State.modAisle_stands (g : AisleNo) (f : Aisle → Aisle) :
    (s.modAisle g f).stands = s.stands := rfl
@[simp] theorem State.modAisle_jobs (g : AisleNo) (f : Aisle → Aisle) :
    (s.modAisle g f).jobs = s.jobs := rfl
@[simp] theorem State.modAisle_wasteFraction (g : AisleNo) (f : Aisle → Aisle) :
    (s.modAisle g f).wasteFraction = s.wasteFraction := rfl
@[simp] theorem State.modAisle_saleable (g : AisleNo) (f : Aisle → Aisle) :
    (s.modAisle g f).saleable = s.saleable := rfl
@[simp] theorem State.modAisle_requests (g : AisleNo) (f : Aisle → Aisle) :
    (s.modAisle g f).requests = s.requests := rfl
@[simp] theorem State.modAisle_answers (g : AisleNo) (f : Aisle → Aisle) :
    (s.modAisle g f).answers = s.answers := rfl
@[simp] theorem State.modAisle_overrunMark (g : AisleNo) (f : Aisle → Aisle) :
    (s.modAisle g f).overrunMark = s.overrunMark := rfl
@[simp] theorem State.modAisle_framingMark (g : AisleNo) (f : Aisle → Aisle) :
    (s.modAisle g f).framingMark = s.framingMark := rfl
@[simp] theorem State.modAisle_resetPending (g : AisleNo) (f : Aisle → Aisle) :
    (s.modAisle g f).resetPending = s.resetPending := rfl
@[simp] theorem State.modAisle_period (g : AisleNo) (f : Aisle → Aisle) :
    (s.modAisle g f).period = s.period := rfl
@[simp] theorem State.modAisle_frameSpoiled (g : AisleNo) (f : Aisle → Aisle) :
    (s.modAisle g f).frameSpoiled = s.frameSpoiled := rfl
@[simp] theorem State.modAisle_notices (g : AisleNo) (f : Aisle → Aisle) :
    (s.modAisle g f).notices = s.notices := rfl
@[simp] theorem State.modAisle_pending (g : AisleNo) (f : Aisle → Aisle) :
    (s.modAisle g f).pending = s.pending := rfl

/-! ### State.modStand -/

@[simp] theorem State.modStand_device (n : StandNo) (f : Stand → Stand) :
    (s.modStand n f).device = s.device := rfl
@[simp] theorem State.modStand_setmem (n : StandNo) (f : Stand → Stand) :
    (s.modStand n f).setmem = s.setmem := rfl
@[simp] theorem State.modStand_working (n : StandNo) (f : Stand → Stand) :
    (s.modStand n f).working = s.working := rfl
@[simp] theorem State.modStand_loaded (n : StandNo) (f : Stand → Stand) :
    (s.modStand n f).loaded = s.loaded := rfl
@[simp] theorem State.modStand_store (n : StandNo) (f : Stand → Stand) :
    (s.modStand n f).store = s.store := rfl
@[simp] theorem State.modStand_hallIncrement (n : StandNo) (f : Stand → Stand) :
    (s.modStand n f).hallIncrement = s.hallIncrement := rfl
@[simp] theorem State.modStand_hallAccumulator (n : StandNo) (f : Stand → Stand) :
    (s.modStand n f).hallAccumulator = s.hallAccumulator := rfl
@[simp] theorem State.modStand_rolls (n : StandNo) (f : Stand → Stand) :
    (s.modStand n f).rolls = s.rolls := rfl
@[simp] theorem State.modStand_sequence (n : StandNo) (f : Stand → Stand) :
    (s.modStand n f).sequence = s.sequence := rfl
@[simp] theorem State.modStand_dock (n : StandNo) (f : Stand → Stand) :
    (s.modStand n f).dock = s.dock := rfl
@[simp] theorem State.modStand_lanes (n : StandNo) (f : Stand → Stand) :
    (s.modStand n f).lanes = s.lanes := rfl
@[simp] theorem State.modStand_orders (n : StandNo) (f : Stand → Stand) :
    (s.modStand n f).orders = s.orders := rfl
@[simp] theorem State.modStand_nextNumber (n : StandNo) (f : Stand → Stand) :
    (s.modStand n f).nextNumber = s.nextNumber := rfl
@[simp] theorem State.modStand_waiting (n : StandNo) (f : Stand → Stand) :
    (s.modStand n f).waiting = s.waiting := rfl
@[simp] theorem State.modStand_idle (n : StandNo) (f : Stand → Stand) :
    (s.modStand n f).idle = s.idle := rfl
@[simp] theorem State.modStand_demand (n : StandNo) (f : Stand → Stand) :
    (s.modStand n f).demand = s.demand := rfl
@[simp] theorem State.modStand_vehicles (n : StandNo) (f : Stand → Stand) :
    (s.modStand n f).vehicles = s.vehicles := rfl
@[simp] theorem State.modStand_lineBytes (n : StandNo) (f : Stand → Stand) :
    (s.modStand n f).lineBytes = s.lineBytes := rfl
@[simp] theorem State.modStand_received (n : StandNo) (f : Stand → Stand) :
    (s.modStand n f).received = s.received := rfl
@[simp] theorem State.modStand_outbound (n : StandNo) (f : Stand → Stand) :
    (s.modStand n f).outbound = s.outbound := rfl
@[simp] theorem State.modStand_finishing (n : StandNo) (f : Stand → Stand) :
    (s.modStand n f).finishing = s.finishing := rfl
@[simp] theorem State.modStand_aisles (n : StandNo) (f : Stand → Stand) :
    (s.modStand n f).aisles = s.aisles := rfl
@[simp] theorem State.modStand_stands (n : StandNo) (f : Stand → Stand) :
    (s.modStand n f).stands = s.stands.set n (f s.stands[n]) := rfl
@[simp] theorem State.modStand_jobs (n : StandNo) (f : Stand → Stand) :
    (s.modStand n f).jobs = s.jobs := rfl
@[simp] theorem State.modStand_wasteFraction (n : StandNo) (f : Stand → Stand) :
    (s.modStand n f).wasteFraction = s.wasteFraction := rfl
@[simp] theorem State.modStand_saleable (n : StandNo) (f : Stand → Stand) :
    (s.modStand n f).saleable = s.saleable := rfl
@[simp] theorem State.modStand_requests (n : StandNo) (f : Stand → Stand) :
    (s.modStand n f).requests = s.requests := rfl
@[simp] theorem State.modStand_answers (n : StandNo) (f : Stand → Stand) :
    (s.modStand n f).answers = s.answers := rfl
@[simp] theorem State.modStand_overrunMark (n : StandNo) (f : Stand → Stand) :
    (s.modStand n f).overrunMark = s.overrunMark := rfl
@[simp] theorem State.modStand_framingMark (n : StandNo) (f : Stand → Stand) :
    (s.modStand n f).framingMark = s.framingMark := rfl
@[simp] theorem State.modStand_resetPending (n : StandNo) (f : Stand → Stand) :
    (s.modStand n f).resetPending = s.resetPending := rfl
@[simp] theorem State.modStand_period (n : StandNo) (f : Stand → Stand) :
    (s.modStand n f).period = s.period := rfl
@[simp] theorem State.modStand_frameSpoiled (n : StandNo) (f : Stand → Stand) :
    (s.modStand n f).frameSpoiled = s.frameSpoiled := rfl
@[simp] theorem State.modStand_notices (n : StandNo) (f : Stand → Stand) :
    (s.modStand n f).notices = s.notices := rfl
@[simp] theorem State.modStand_pending (n : StandNo) (f : Stand → Stand) :
    (s.modStand n f).pending = s.pending := rfl

/-! ### State.modArm -/

@[simp] theorem State.modArm_device (n : StandNo) (a : Arm) (f : ArmRecord → ArmRecord) :
    (s.modArm n a f).device = s.device := rfl
@[simp] theorem State.modArm_setmem (n : StandNo) (a : Arm) (f : ArmRecord → ArmRecord) :
    (s.modArm n a f).setmem = s.setmem := rfl
@[simp] theorem State.modArm_working (n : StandNo) (a : Arm) (f : ArmRecord → ArmRecord) :
    (s.modArm n a f).working = s.working := rfl
@[simp] theorem State.modArm_loaded (n : StandNo) (a : Arm) (f : ArmRecord → ArmRecord) :
    (s.modArm n a f).loaded = s.loaded := rfl
@[simp] theorem State.modArm_store (n : StandNo) (a : Arm) (f : ArmRecord → ArmRecord) :
    (s.modArm n a f).store = s.store := rfl
@[simp] theorem State.modArm_hallIncrement (n : StandNo) (a : Arm) (f : ArmRecord → ArmRecord) :
    (s.modArm n a f).hallIncrement = s.hallIncrement := rfl
@[simp] theorem State.modArm_hallAccumulator (n : StandNo) (a : Arm) (f : ArmRecord → ArmRecord) :
    (s.modArm n a f).hallAccumulator = s.hallAccumulator := rfl
@[simp] theorem State.modArm_rolls (n : StandNo) (a : Arm) (f : ArmRecord → ArmRecord) :
    (s.modArm n a f).rolls = s.rolls := rfl
@[simp] theorem State.modArm_sequence (n : StandNo) (a : Arm) (f : ArmRecord → ArmRecord) :
    (s.modArm n a f).sequence = s.sequence := rfl
@[simp] theorem State.modArm_dock (n : StandNo) (a : Arm) (f : ArmRecord → ArmRecord) :
    (s.modArm n a f).dock = s.dock := rfl
@[simp] theorem State.modArm_lanes (n : StandNo) (a : Arm) (f : ArmRecord → ArmRecord) :
    (s.modArm n a f).lanes = s.lanes := rfl
@[simp] theorem State.modArm_orders (n : StandNo) (a : Arm) (f : ArmRecord → ArmRecord) :
    (s.modArm n a f).orders = s.orders := rfl
@[simp] theorem State.modArm_nextNumber (n : StandNo) (a : Arm) (f : ArmRecord → ArmRecord) :
    (s.modArm n a f).nextNumber = s.nextNumber := rfl
@[simp] theorem State.modArm_waiting (n : StandNo) (a : Arm) (f : ArmRecord → ArmRecord) :
    (s.modArm n a f).waiting = s.waiting := rfl
@[simp] theorem State.modArm_idle (n : StandNo) (a : Arm) (f : ArmRecord → ArmRecord) :
    (s.modArm n a f).idle = s.idle := rfl
@[simp] theorem State.modArm_demand (n : StandNo) (a : Arm) (f : ArmRecord → ArmRecord) :
    (s.modArm n a f).demand = s.demand := rfl
@[simp] theorem State.modArm_vehicles (n : StandNo) (a : Arm) (f : ArmRecord → ArmRecord) :
    (s.modArm n a f).vehicles = s.vehicles := rfl
@[simp] theorem State.modArm_lineBytes (n : StandNo) (a : Arm) (f : ArmRecord → ArmRecord) :
    (s.modArm n a f).lineBytes = s.lineBytes := rfl
@[simp] theorem State.modArm_received (n : StandNo) (a : Arm) (f : ArmRecord → ArmRecord) :
    (s.modArm n a f).received = s.received := rfl
@[simp] theorem State.modArm_outbound (n : StandNo) (a : Arm) (f : ArmRecord → ArmRecord) :
    (s.modArm n a f).outbound = s.outbound := rfl
@[simp] theorem State.modArm_finishing (n : StandNo) (a : Arm) (f : ArmRecord → ArmRecord) :
    (s.modArm n a f).finishing = s.finishing := rfl
@[simp] theorem State.modArm_aisles (n : StandNo) (a : Arm) (f : ArmRecord → ArmRecord) :
    (s.modArm n a f).aisles = s.aisles := rfl
@[simp] theorem State.modArm_stands (n : StandNo) (a : Arm) (f : ArmRecord → ArmRecord) :
    (s.modArm n a f).stands = s.stands.set n (s.stands[n].setArm a (f (s.stands[n].arm a))) := rfl
@[simp] theorem State.modArm_jobs (n : StandNo) (a : Arm) (f : ArmRecord → ArmRecord) :
    (s.modArm n a f).jobs = s.jobs := rfl
@[simp] theorem State.modArm_wasteFraction (n : StandNo) (a : Arm) (f : ArmRecord → ArmRecord) :
    (s.modArm n a f).wasteFraction = s.wasteFraction := rfl
@[simp] theorem State.modArm_saleable (n : StandNo) (a : Arm) (f : ArmRecord → ArmRecord) :
    (s.modArm n a f).saleable = s.saleable := rfl
@[simp] theorem State.modArm_requests (n : StandNo) (a : Arm) (f : ArmRecord → ArmRecord) :
    (s.modArm n a f).requests = s.requests := rfl
@[simp] theorem State.modArm_answers (n : StandNo) (a : Arm) (f : ArmRecord → ArmRecord) :
    (s.modArm n a f).answers = s.answers := rfl
@[simp] theorem State.modArm_overrunMark (n : StandNo) (a : Arm) (f : ArmRecord → ArmRecord) :
    (s.modArm n a f).overrunMark = s.overrunMark := rfl
@[simp] theorem State.modArm_framingMark (n : StandNo) (a : Arm) (f : ArmRecord → ArmRecord) :
    (s.modArm n a f).framingMark = s.framingMark := rfl
@[simp] theorem State.modArm_resetPending (n : StandNo) (a : Arm) (f : ArmRecord → ArmRecord) :
    (s.modArm n a f).resetPending = s.resetPending := rfl
@[simp] theorem State.modArm_period (n : StandNo) (a : Arm) (f : ArmRecord → ArmRecord) :
    (s.modArm n a f).period = s.period := rfl
@[simp] theorem State.modArm_frameSpoiled (n : StandNo) (a : Arm) (f : ArmRecord → ArmRecord) :
    (s.modArm n a f).frameSpoiled = s.frameSpoiled := rfl
@[simp] theorem State.modArm_notices (n : StandNo) (a : Arm) (f : ArmRecord → ArmRecord) :
    (s.modArm n a f).notices = s.notices := rfl
@[simp] theorem State.modArm_pending (n : StandNo) (a : Arm) (f : ArmRecord → ArmRecord) :
    (s.modArm n a f).pending = s.pending := rfl

/-! ### State.modJob -/

@[simp] theorem State.modJob_device (j : JobSlot) (f : Job → Job) :
    (s.modJob j f).device = s.device := rfl
@[simp] theorem State.modJob_setmem (j : JobSlot) (f : Job → Job) :
    (s.modJob j f).setmem = s.setmem := rfl
@[simp] theorem State.modJob_working (j : JobSlot) (f : Job → Job) :
    (s.modJob j f).working = s.working := rfl
@[simp] theorem State.modJob_loaded (j : JobSlot) (f : Job → Job) :
    (s.modJob j f).loaded = s.loaded := rfl
@[simp] theorem State.modJob_store (j : JobSlot) (f : Job → Job) :
    (s.modJob j f).store = s.store := rfl
@[simp] theorem State.modJob_hallIncrement (j : JobSlot) (f : Job → Job) :
    (s.modJob j f).hallIncrement = s.hallIncrement := rfl
@[simp] theorem State.modJob_hallAccumulator (j : JobSlot) (f : Job → Job) :
    (s.modJob j f).hallAccumulator = s.hallAccumulator := rfl
@[simp] theorem State.modJob_rolls (j : JobSlot) (f : Job → Job) :
    (s.modJob j f).rolls = s.rolls := rfl
@[simp] theorem State.modJob_sequence (j : JobSlot) (f : Job → Job) :
    (s.modJob j f).sequence = s.sequence := rfl
@[simp] theorem State.modJob_dock (j : JobSlot) (f : Job → Job) :
    (s.modJob j f).dock = s.dock := rfl
@[simp] theorem State.modJob_lanes (j : JobSlot) (f : Job → Job) :
    (s.modJob j f).lanes = s.lanes := rfl
@[simp] theorem State.modJob_orders (j : JobSlot) (f : Job → Job) :
    (s.modJob j f).orders = s.orders := rfl
@[simp] theorem State.modJob_nextNumber (j : JobSlot) (f : Job → Job) :
    (s.modJob j f).nextNumber = s.nextNumber := rfl
@[simp] theorem State.modJob_waiting (j : JobSlot) (f : Job → Job) :
    (s.modJob j f).waiting = s.waiting := rfl
@[simp] theorem State.modJob_idle (j : JobSlot) (f : Job → Job) :
    (s.modJob j f).idle = s.idle := rfl
@[simp] theorem State.modJob_demand (j : JobSlot) (f : Job → Job) :
    (s.modJob j f).demand = s.demand := rfl
@[simp] theorem State.modJob_vehicles (j : JobSlot) (f : Job → Job) :
    (s.modJob j f).vehicles = s.vehicles := rfl
@[simp] theorem State.modJob_lineBytes (j : JobSlot) (f : Job → Job) :
    (s.modJob j f).lineBytes = s.lineBytes := rfl
@[simp] theorem State.modJob_received (j : JobSlot) (f : Job → Job) :
    (s.modJob j f).received = s.received := rfl
@[simp] theorem State.modJob_outbound (j : JobSlot) (f : Job → Job) :
    (s.modJob j f).outbound = s.outbound := rfl
@[simp] theorem State.modJob_finishing (j : JobSlot) (f : Job → Job) :
    (s.modJob j f).finishing = s.finishing := rfl
@[simp] theorem State.modJob_aisles (j : JobSlot) (f : Job → Job) :
    (s.modJob j f).aisles = s.aisles := rfl
@[simp] theorem State.modJob_stands (j : JobSlot) (f : Job → Job) :
    (s.modJob j f).stands = s.stands := rfl
@[simp] theorem State.modJob_jobs (j : JobSlot) (f : Job → Job) :
    (s.modJob j f).jobs = s.jobs.set j (f s.jobs[j]) := rfl
@[simp] theorem State.modJob_wasteFraction (j : JobSlot) (f : Job → Job) :
    (s.modJob j f).wasteFraction = s.wasteFraction := rfl
@[simp] theorem State.modJob_saleable (j : JobSlot) (f : Job → Job) :
    (s.modJob j f).saleable = s.saleable := rfl
@[simp] theorem State.modJob_requests (j : JobSlot) (f : Job → Job) :
    (s.modJob j f).requests = s.requests := rfl
@[simp] theorem State.modJob_answers (j : JobSlot) (f : Job → Job) :
    (s.modJob j f).answers = s.answers := rfl
@[simp] theorem State.modJob_overrunMark (j : JobSlot) (f : Job → Job) :
    (s.modJob j f).overrunMark = s.overrunMark := rfl
@[simp] theorem State.modJob_framingMark (j : JobSlot) (f : Job → Job) :
    (s.modJob j f).framingMark = s.framingMark := rfl
@[simp] theorem State.modJob_resetPending (j : JobSlot) (f : Job → Job) :
    (s.modJob j f).resetPending = s.resetPending := rfl
@[simp] theorem State.modJob_period (j : JobSlot) (f : Job → Job) :
    (s.modJob j f).period = s.period := rfl
@[simp] theorem State.modJob_frameSpoiled (j : JobSlot) (f : Job → Job) :
    (s.modJob j f).frameSpoiled = s.frameSpoiled := rfl
@[simp] theorem State.modJob_notices (j : JobSlot) (f : Job → Job) :
    (s.modJob j f).notices = s.notices := rfl
@[simp] theorem State.modJob_pending (j : JobSlot) (f : Job → Job) :
    (s.modJob j f).pending = s.pending := rfl

/-! ### State.modRoll -/

@[simp] theorem State.modRoll_device (k : RollSlot) (f : Roll → Roll) :
    (s.modRoll k f).device = s.device := rfl
@[simp] theorem State.modRoll_setmem (k : RollSlot) (f : Roll → Roll) :
    (s.modRoll k f).setmem = s.setmem := rfl
@[simp] theorem State.modRoll_working (k : RollSlot) (f : Roll → Roll) :
    (s.modRoll k f).working = s.working := rfl
@[simp] theorem State.modRoll_loaded (k : RollSlot) (f : Roll → Roll) :
    (s.modRoll k f).loaded = s.loaded := rfl
@[simp] theorem State.modRoll_store (k : RollSlot) (f : Roll → Roll) :
    (s.modRoll k f).store = s.store := rfl
@[simp] theorem State.modRoll_hallIncrement (k : RollSlot) (f : Roll → Roll) :
    (s.modRoll k f).hallIncrement = s.hallIncrement := rfl
@[simp] theorem State.modRoll_hallAccumulator (k : RollSlot) (f : Roll → Roll) :
    (s.modRoll k f).hallAccumulator = s.hallAccumulator := rfl
@[simp] theorem State.modRoll_rolls (k : RollSlot) (f : Roll → Roll) :
    (s.modRoll k f).rolls = tableModify s.rolls k f := rfl
@[simp] theorem State.modRoll_sequence (k : RollSlot) (f : Roll → Roll) :
    (s.modRoll k f).sequence = s.sequence := rfl
@[simp] theorem State.modRoll_dock (k : RollSlot) (f : Roll → Roll) :
    (s.modRoll k f).dock = s.dock := rfl
@[simp] theorem State.modRoll_lanes (k : RollSlot) (f : Roll → Roll) :
    (s.modRoll k f).lanes = s.lanes := rfl
@[simp] theorem State.modRoll_orders (k : RollSlot) (f : Roll → Roll) :
    (s.modRoll k f).orders = s.orders := rfl
@[simp] theorem State.modRoll_nextNumber (k : RollSlot) (f : Roll → Roll) :
    (s.modRoll k f).nextNumber = s.nextNumber := rfl
@[simp] theorem State.modRoll_waiting (k : RollSlot) (f : Roll → Roll) :
    (s.modRoll k f).waiting = s.waiting := rfl
@[simp] theorem State.modRoll_idle (k : RollSlot) (f : Roll → Roll) :
    (s.modRoll k f).idle = s.idle := rfl
@[simp] theorem State.modRoll_demand (k : RollSlot) (f : Roll → Roll) :
    (s.modRoll k f).demand = s.demand := rfl
@[simp] theorem State.modRoll_vehicles (k : RollSlot) (f : Roll → Roll) :
    (s.modRoll k f).vehicles = s.vehicles := rfl
@[simp] theorem State.modRoll_lineBytes (k : RollSlot) (f : Roll → Roll) :
    (s.modRoll k f).lineBytes = s.lineBytes := rfl
@[simp] theorem State.modRoll_received (k : RollSlot) (f : Roll → Roll) :
    (s.modRoll k f).received = s.received := rfl
@[simp] theorem State.modRoll_outbound (k : RollSlot) (f : Roll → Roll) :
    (s.modRoll k f).outbound = s.outbound := rfl
@[simp] theorem State.modRoll_finishing (k : RollSlot) (f : Roll → Roll) :
    (s.modRoll k f).finishing = s.finishing := rfl
@[simp] theorem State.modRoll_aisles (k : RollSlot) (f : Roll → Roll) :
    (s.modRoll k f).aisles = s.aisles := rfl
@[simp] theorem State.modRoll_stands (k : RollSlot) (f : Roll → Roll) :
    (s.modRoll k f).stands = s.stands := rfl
@[simp] theorem State.modRoll_jobs (k : RollSlot) (f : Roll → Roll) :
    (s.modRoll k f).jobs = s.jobs := rfl
@[simp] theorem State.modRoll_wasteFraction (k : RollSlot) (f : Roll → Roll) :
    (s.modRoll k f).wasteFraction = s.wasteFraction := rfl
@[simp] theorem State.modRoll_saleable (k : RollSlot) (f : Roll → Roll) :
    (s.modRoll k f).saleable = s.saleable := rfl
@[simp] theorem State.modRoll_requests (k : RollSlot) (f : Roll → Roll) :
    (s.modRoll k f).requests = s.requests := rfl
@[simp] theorem State.modRoll_answers (k : RollSlot) (f : Roll → Roll) :
    (s.modRoll k f).answers = s.answers := rfl
@[simp] theorem State.modRoll_overrunMark (k : RollSlot) (f : Roll → Roll) :
    (s.modRoll k f).overrunMark = s.overrunMark := rfl
@[simp] theorem State.modRoll_framingMark (k : RollSlot) (f : Roll → Roll) :
    (s.modRoll k f).framingMark = s.framingMark := rfl
@[simp] theorem State.modRoll_resetPending (k : RollSlot) (f : Roll → Roll) :
    (s.modRoll k f).resetPending = s.resetPending := rfl
@[simp] theorem State.modRoll_period (k : RollSlot) (f : Roll → Roll) :
    (s.modRoll k f).period = s.period := rfl
@[simp] theorem State.modRoll_frameSpoiled (k : RollSlot) (f : Roll → Roll) :
    (s.modRoll k f).frameSpoiled = s.frameSpoiled := rfl
@[simp] theorem State.modRoll_notices (k : RollSlot) (f : Roll → Roll) :
    (s.modRoll k f).notices = s.notices := rfl
@[simp] theorem State.modRoll_pending (k : RollSlot) (f : Roll → Roll) :
    (s.modRoll k f).pending = s.pending := rfl

/-! ### State.eraseRoll -/

@[simp] theorem State.eraseRoll_device (k : RollSlot) :
    (s.eraseRoll k).device = s.device := rfl
@[simp] theorem State.eraseRoll_setmem (k : RollSlot) :
    (s.eraseRoll k).setmem = s.setmem := rfl
@[simp] theorem State.eraseRoll_working (k : RollSlot) :
    (s.eraseRoll k).working = s.working := rfl
@[simp] theorem State.eraseRoll_loaded (k : RollSlot) :
    (s.eraseRoll k).loaded = s.loaded := rfl
@[simp] theorem State.eraseRoll_store (k : RollSlot) :
    (s.eraseRoll k).store = s.store := rfl
@[simp] theorem State.eraseRoll_hallIncrement (k : RollSlot) :
    (s.eraseRoll k).hallIncrement = s.hallIncrement := rfl
@[simp] theorem State.eraseRoll_hallAccumulator (k : RollSlot) :
    (s.eraseRoll k).hallAccumulator = s.hallAccumulator := rfl
@[simp] theorem State.eraseRoll_rolls (k : RollSlot) :
    (s.eraseRoll k).rolls = tableErase s.rolls k := rfl
@[simp] theorem State.eraseRoll_sequence (k : RollSlot) :
    (s.eraseRoll k).sequence = s.sequence := rfl
@[simp] theorem State.eraseRoll_dock (k : RollSlot) :
    (s.eraseRoll k).dock = s.dock := rfl
@[simp] theorem State.eraseRoll_lanes (k : RollSlot) :
    (s.eraseRoll k).lanes = s.lanes := rfl
@[simp] theorem State.eraseRoll_orders (k : RollSlot) :
    (s.eraseRoll k).orders = s.orders := rfl
@[simp] theorem State.eraseRoll_nextNumber (k : RollSlot) :
    (s.eraseRoll k).nextNumber = s.nextNumber := rfl
@[simp] theorem State.eraseRoll_waiting (k : RollSlot) :
    (s.eraseRoll k).waiting = s.waiting := rfl
@[simp] theorem State.eraseRoll_idle (k : RollSlot) :
    (s.eraseRoll k).idle = s.idle := rfl
@[simp] theorem State.eraseRoll_demand (k : RollSlot) :
    (s.eraseRoll k).demand = s.demand := rfl
@[simp] theorem State.eraseRoll_vehicles (k : RollSlot) :
    (s.eraseRoll k).vehicles = s.vehicles := rfl
@[simp] theorem State.eraseRoll_lineBytes (k : RollSlot) :
    (s.eraseRoll k).lineBytes = s.lineBytes := rfl
@[simp] theorem State.eraseRoll_received (k : RollSlot) :
    (s.eraseRoll k).received = s.received := rfl
@[simp] theorem State.eraseRoll_outbound (k : RollSlot) :
    (s.eraseRoll k).outbound = s.outbound := rfl
@[simp] theorem State.eraseRoll_finishing (k : RollSlot) :
    (s.eraseRoll k).finishing = s.finishing := rfl
@[simp] theorem State.eraseRoll_aisles (k : RollSlot) :
    (s.eraseRoll k).aisles = s.aisles := rfl
@[simp] theorem State.eraseRoll_stands (k : RollSlot) :
    (s.eraseRoll k).stands = s.stands := rfl
@[simp] theorem State.eraseRoll_jobs (k : RollSlot) :
    (s.eraseRoll k).jobs = s.jobs := rfl
@[simp] theorem State.eraseRoll_wasteFraction (k : RollSlot) :
    (s.eraseRoll k).wasteFraction = s.wasteFraction := rfl
@[simp] theorem State.eraseRoll_saleable (k : RollSlot) :
    (s.eraseRoll k).saleable = s.saleable := rfl
@[simp] theorem State.eraseRoll_requests (k : RollSlot) :
    (s.eraseRoll k).requests = s.requests := rfl
@[simp] theorem State.eraseRoll_answers (k : RollSlot) :
    (s.eraseRoll k).answers = s.answers := rfl
@[simp] theorem State.eraseRoll_overrunMark (k : RollSlot) :
    (s.eraseRoll k).overrunMark = s.overrunMark := rfl
@[simp] theorem State.eraseRoll_framingMark (k : RollSlot) :
    (s.eraseRoll k).framingMark = s.framingMark := rfl
@[simp] theorem State.eraseRoll_resetPending (k : RollSlot) :
    (s.eraseRoll k).resetPending = s.resetPending := rfl
@[simp] theorem State.eraseRoll_period (k : RollSlot) :
    (s.eraseRoll k).period = s.period := rfl
@[simp] theorem State.eraseRoll_frameSpoiled (k : RollSlot) :
    (s.eraseRoll k).frameSpoiled = s.frameSpoiled := rfl
@[simp] theorem State.eraseRoll_notices (k : RollSlot) :
    (s.eraseRoll k).notices = s.notices := rfl
@[simp] theorem State.eraseRoll_pending (k : RollSlot) :
    (s.eraseRoll k).pending = s.pending := rfl

/-! ### State.post -/

@[simp] theorem State.post_device (key : NoticeKey) (d : NoticeDetail) :
    (s.post key d).device = s.device := rfl
@[simp] theorem State.post_setmem (key : NoticeKey) (d : NoticeDetail) :
    (s.post key d).setmem = s.setmem := rfl
@[simp] theorem State.post_working (key : NoticeKey) (d : NoticeDetail) :
    (s.post key d).working = s.working := rfl
@[simp] theorem State.post_loaded (key : NoticeKey) (d : NoticeDetail) :
    (s.post key d).loaded = s.loaded := rfl
@[simp] theorem State.post_store (key : NoticeKey) (d : NoticeDetail) :
    (s.post key d).store = s.store := rfl
@[simp] theorem State.post_hallIncrement (key : NoticeKey) (d : NoticeDetail) :
    (s.post key d).hallIncrement = s.hallIncrement := rfl
@[simp] theorem State.post_hallAccumulator (key : NoticeKey) (d : NoticeDetail) :
    (s.post key d).hallAccumulator = s.hallAccumulator := rfl
@[simp] theorem State.post_rolls (key : NoticeKey) (d : NoticeDetail) :
    (s.post key d).rolls = s.rolls := rfl
@[simp] theorem State.post_sequence (key : NoticeKey) (d : NoticeDetail) :
    (s.post key d).sequence = s.sequence := rfl
@[simp] theorem State.post_dock (key : NoticeKey) (d : NoticeDetail) :
    (s.post key d).dock = s.dock := rfl
@[simp] theorem State.post_lanes (key : NoticeKey) (d : NoticeDetail) :
    (s.post key d).lanes = s.lanes := rfl
@[simp] theorem State.post_orders (key : NoticeKey) (d : NoticeDetail) :
    (s.post key d).orders = s.orders := rfl
@[simp] theorem State.post_nextNumber (key : NoticeKey) (d : NoticeDetail) :
    (s.post key d).nextNumber = s.nextNumber := rfl
@[simp] theorem State.post_waiting (key : NoticeKey) (d : NoticeDetail) :
    (s.post key d).waiting = s.waiting := rfl
@[simp] theorem State.post_idle (key : NoticeKey) (d : NoticeDetail) :
    (s.post key d).idle = s.idle := rfl
@[simp] theorem State.post_demand (key : NoticeKey) (d : NoticeDetail) :
    (s.post key d).demand = s.demand := rfl
@[simp] theorem State.post_vehicles (key : NoticeKey) (d : NoticeDetail) :
    (s.post key d).vehicles = s.vehicles := rfl
@[simp] theorem State.post_lineBytes (key : NoticeKey) (d : NoticeDetail) :
    (s.post key d).lineBytes = s.lineBytes := rfl
@[simp] theorem State.post_received (key : NoticeKey) (d : NoticeDetail) :
    (s.post key d).received = s.received := rfl
@[simp] theorem State.post_outbound (key : NoticeKey) (d : NoticeDetail) :
    (s.post key d).outbound = s.outbound := rfl
@[simp] theorem State.post_finishing (key : NoticeKey) (d : NoticeDetail) :
    (s.post key d).finishing = s.finishing := rfl
@[simp] theorem State.post_aisles (key : NoticeKey) (d : NoticeDetail) :
    (s.post key d).aisles = s.aisles := rfl
@[simp] theorem State.post_stands (key : NoticeKey) (d : NoticeDetail) :
    (s.post key d).stands = s.stands := rfl
@[simp] theorem State.post_jobs (key : NoticeKey) (d : NoticeDetail) :
    (s.post key d).jobs = s.jobs := rfl
@[simp] theorem State.post_wasteFraction (key : NoticeKey) (d : NoticeDetail) :
    (s.post key d).wasteFraction = s.wasteFraction := rfl
@[simp] theorem State.post_saleable (key : NoticeKey) (d : NoticeDetail) :
    (s.post key d).saleable = s.saleable := rfl
@[simp] theorem State.post_requests (key : NoticeKey) (d : NoticeDetail) :
    (s.post key d).requests = s.requests := rfl
@[simp] theorem State.post_answers (key : NoticeKey) (d : NoticeDetail) :
    (s.post key d).answers = s.answers := rfl
@[simp] theorem State.post_overrunMark (key : NoticeKey) (d : NoticeDetail) :
    (s.post key d).overrunMark = s.overrunMark := rfl
@[simp] theorem State.post_framingMark (key : NoticeKey) (d : NoticeDetail) :
    (s.post key d).framingMark = s.framingMark := rfl
@[simp] theorem State.post_resetPending (key : NoticeKey) (d : NoticeDetail) :
    (s.post key d).resetPending = s.resetPending := rfl
@[simp] theorem State.post_period (key : NoticeKey) (d : NoticeDetail) :
    (s.post key d).period = s.period := rfl
@[simp] theorem State.post_frameSpoiled (key : NoticeKey) (d : NoticeDetail) :
    (s.post key d).frameSpoiled = s.frameSpoiled := rfl
@[simp] theorem State.post_notices (key : NoticeKey) (d : NoticeDetail) :
    (s.post key d).notices = postInto s.notices key d := rfl
@[simp] theorem State.post_pending (key : NoticeKey) (d : NoticeDetail) :
    (s.post key d).pending = s.pending := rfl

/-! ### State.instruct -/

@[simp] theorem State.instruct_device (v : VehicleNo) (m : Message) :
    (s.instruct v m).device = s.device := rfl
@[simp] theorem State.instruct_setmem (v : VehicleNo) (m : Message) :
    (s.instruct v m).setmem = s.setmem := rfl
@[simp] theorem State.instruct_working (v : VehicleNo) (m : Message) :
    (s.instruct v m).working = s.working := rfl
@[simp] theorem State.instruct_loaded (v : VehicleNo) (m : Message) :
    (s.instruct v m).loaded = s.loaded := rfl
@[simp] theorem State.instruct_store (v : VehicleNo) (m : Message) :
    (s.instruct v m).store = s.store := rfl
@[simp] theorem State.instruct_hallIncrement (v : VehicleNo) (m : Message) :
    (s.instruct v m).hallIncrement = s.hallIncrement := rfl
@[simp] theorem State.instruct_hallAccumulator (v : VehicleNo) (m : Message) :
    (s.instruct v m).hallAccumulator = s.hallAccumulator := rfl
@[simp] theorem State.instruct_rolls (v : VehicleNo) (m : Message) :
    (s.instruct v m).rolls = s.rolls := rfl
@[simp] theorem State.instruct_sequence (v : VehicleNo) (m : Message) :
    (s.instruct v m).sequence = s.sequence := rfl
@[simp] theorem State.instruct_dock (v : VehicleNo) (m : Message) :
    (s.instruct v m).dock = s.dock := rfl
@[simp] theorem State.instruct_lanes (v : VehicleNo) (m : Message) :
    (s.instruct v m).lanes = s.lanes := rfl
@[simp] theorem State.instruct_orders (v : VehicleNo) (m : Message) :
    (s.instruct v m).orders = s.orders := rfl
@[simp] theorem State.instruct_nextNumber (v : VehicleNo) (m : Message) :
    (s.instruct v m).nextNumber = s.nextNumber := rfl
@[simp] theorem State.instruct_waiting (v : VehicleNo) (m : Message) :
    (s.instruct v m).waiting = s.waiting := rfl
@[simp] theorem State.instruct_idle (v : VehicleNo) (m : Message) :
    (s.instruct v m).idle = s.idle := rfl
@[simp] theorem State.instruct_demand (v : VehicleNo) (m : Message) :
    (s.instruct v m).demand = s.demand := rfl
@[simp] theorem State.instruct_vehicles (v : VehicleNo) (m : Message) :
    (s.instruct v m).vehicles = s.vehicles := rfl
@[simp] theorem State.instruct_lineBytes (v : VehicleNo) (m : Message) :
    (s.instruct v m).lineBytes = s.lineBytes := rfl
@[simp] theorem State.instruct_received (v : VehicleNo) (m : Message) :
    (s.instruct v m).received = s.received := rfl
@[simp] theorem State.instruct_outbound (v : VehicleNo) (m : Message) :
    (s.instruct v m).outbound = s.outbound ++ [⟨v, m⟩] := rfl
@[simp] theorem State.instruct_finishing (v : VehicleNo) (m : Message) :
    (s.instruct v m).finishing = s.finishing := rfl
@[simp] theorem State.instruct_aisles (v : VehicleNo) (m : Message) :
    (s.instruct v m).aisles = s.aisles := rfl
@[simp] theorem State.instruct_stands (v : VehicleNo) (m : Message) :
    (s.instruct v m).stands = s.stands := rfl
@[simp] theorem State.instruct_jobs (v : VehicleNo) (m : Message) :
    (s.instruct v m).jobs = s.jobs := rfl
@[simp] theorem State.instruct_wasteFraction (v : VehicleNo) (m : Message) :
    (s.instruct v m).wasteFraction = s.wasteFraction := rfl
@[simp] theorem State.instruct_saleable (v : VehicleNo) (m : Message) :
    (s.instruct v m).saleable = s.saleable := rfl
@[simp] theorem State.instruct_requests (v : VehicleNo) (m : Message) :
    (s.instruct v m).requests = s.requests := rfl
@[simp] theorem State.instruct_answers (v : VehicleNo) (m : Message) :
    (s.instruct v m).answers = s.answers := rfl
@[simp] theorem State.instruct_overrunMark (v : VehicleNo) (m : Message) :
    (s.instruct v m).overrunMark = s.overrunMark := rfl
@[simp] theorem State.instruct_framingMark (v : VehicleNo) (m : Message) :
    (s.instruct v m).framingMark = s.framingMark := rfl
@[simp] theorem State.instruct_resetPending (v : VehicleNo) (m : Message) :
    (s.instruct v m).resetPending = s.resetPending := rfl
@[simp] theorem State.instruct_period (v : VehicleNo) (m : Message) :
    (s.instruct v m).period = s.period := rfl
@[simp] theorem State.instruct_frameSpoiled (v : VehicleNo) (m : Message) :
    (s.instruct v m).frameSpoiled = s.frameSpoiled := rfl
@[simp] theorem State.instruct_notices (v : VehicleNo) (m : Message) :
    (s.instruct v m).notices = s.notices := rfl
@[simp] theorem State.instruct_pending (v : VehicleNo) (m : Message) :
    (s.instruct v m).pending = s.pending := rfl

/-! ### State.unclaim -/

@[simp] theorem State.unclaim_device (k : RollSlot) :
    (s.unclaim k).device = s.device := rfl
@[simp] theorem State.unclaim_setmem (k : RollSlot) :
    (s.unclaim k).setmem = s.setmem := rfl
@[simp] theorem State.unclaim_working (k : RollSlot) :
    (s.unclaim k).working = s.working := rfl
@[simp] theorem State.unclaim_loaded (k : RollSlot) :
    (s.unclaim k).loaded = s.loaded := rfl
@[simp] theorem State.unclaim_store (k : RollSlot) :
    (s.unclaim k).store = s.store := rfl
@[simp] theorem State.unclaim_hallIncrement (k : RollSlot) :
    (s.unclaim k).hallIncrement = s.hallIncrement := rfl
@[simp] theorem State.unclaim_hallAccumulator (k : RollSlot) :
    (s.unclaim k).hallAccumulator = s.hallAccumulator := rfl
@[simp] theorem State.unclaim_rolls (k : RollSlot) :
    (s.unclaim k).rolls = tableModify s.rolls k (fun r => { r with claim := none }) := rfl
@[simp] theorem State.unclaim_sequence (k : RollSlot) :
    (s.unclaim k).sequence = s.sequence := rfl
@[simp] theorem State.unclaim_dock (k : RollSlot) :
    (s.unclaim k).dock = s.dock := rfl
@[simp] theorem State.unclaim_lanes (k : RollSlot) :
    (s.unclaim k).lanes = s.lanes := rfl
@[simp] theorem State.unclaim_orders (k : RollSlot) :
    (s.unclaim k).orders = s.orders := rfl
@[simp] theorem State.unclaim_nextNumber (k : RollSlot) :
    (s.unclaim k).nextNumber = s.nextNumber := rfl
@[simp] theorem State.unclaim_waiting (k : RollSlot) :
    (s.unclaim k).waiting = s.waiting := rfl
@[simp] theorem State.unclaim_idle (k : RollSlot) :
    (s.unclaim k).idle = s.idle := rfl
@[simp] theorem State.unclaim_demand (k : RollSlot) :
    (s.unclaim k).demand = s.demand := rfl
@[simp] theorem State.unclaim_vehicles (k : RollSlot) :
    (s.unclaim k).vehicles = s.vehicles := rfl
@[simp] theorem State.unclaim_lineBytes (k : RollSlot) :
    (s.unclaim k).lineBytes = s.lineBytes := rfl
@[simp] theorem State.unclaim_received (k : RollSlot) :
    (s.unclaim k).received = s.received := rfl
@[simp] theorem State.unclaim_outbound (k : RollSlot) :
    (s.unclaim k).outbound = s.outbound := rfl
@[simp] theorem State.unclaim_finishing (k : RollSlot) :
    (s.unclaim k).finishing = s.finishing := rfl
@[simp] theorem State.unclaim_aisles (k : RollSlot) :
    (s.unclaim k).aisles = s.aisles := rfl
@[simp] theorem State.unclaim_stands (k : RollSlot) :
    (s.unclaim k).stands = s.stands := rfl
@[simp] theorem State.unclaim_jobs (k : RollSlot) :
    (s.unclaim k).jobs = s.jobs := rfl
@[simp] theorem State.unclaim_wasteFraction (k : RollSlot) :
    (s.unclaim k).wasteFraction = s.wasteFraction := rfl
@[simp] theorem State.unclaim_saleable (k : RollSlot) :
    (s.unclaim k).saleable = s.saleable := rfl
@[simp] theorem State.unclaim_requests (k : RollSlot) :
    (s.unclaim k).requests = s.requests := rfl
@[simp] theorem State.unclaim_answers (k : RollSlot) :
    (s.unclaim k).answers = s.answers := rfl
@[simp] theorem State.unclaim_overrunMark (k : RollSlot) :
    (s.unclaim k).overrunMark = s.overrunMark := rfl
@[simp] theorem State.unclaim_framingMark (k : RollSlot) :
    (s.unclaim k).framingMark = s.framingMark := rfl
@[simp] theorem State.unclaim_resetPending (k : RollSlot) :
    (s.unclaim k).resetPending = s.resetPending := rfl
@[simp] theorem State.unclaim_period (k : RollSlot) :
    (s.unclaim k).period = s.period := rfl
@[simp] theorem State.unclaim_frameSpoiled (k : RollSlot) :
    (s.unclaim k).frameSpoiled = s.frameSpoiled := rfl
@[simp] theorem State.unclaim_notices (k : RollSlot) :
    (s.unclaim k).notices = s.notices := rfl
@[simp] theorem State.unclaim_pending (k : RollSlot) :
    (s.unclaim k).pending = s.pending := rfl

/-! ### State.enterIdle -/

@[simp] theorem State.enterIdle_device (v : VehicleNo) :
    (s.enterIdle v).device = s.device := rfl
@[simp] theorem State.enterIdle_setmem (v : VehicleNo) :
    (s.enterIdle v).setmem = s.setmem := rfl
@[simp] theorem State.enterIdle_working (v : VehicleNo) :
    (s.enterIdle v).working = s.working := rfl
@[simp] theorem State.enterIdle_loaded (v : VehicleNo) :
    (s.enterIdle v).loaded = s.loaded := rfl
@[simp] theorem State.enterIdle_store (v : VehicleNo) :
    (s.enterIdle v).store = s.store := rfl
@[simp] theorem State.enterIdle_hallIncrement (v : VehicleNo) :
    (s.enterIdle v).hallIncrement = s.hallIncrement := rfl
@[simp] theorem State.enterIdle_hallAccumulator (v : VehicleNo) :
    (s.enterIdle v).hallAccumulator = s.hallAccumulator := rfl
@[simp] theorem State.enterIdle_rolls (v : VehicleNo) :
    (s.enterIdle v).rolls = s.rolls := rfl
@[simp] theorem State.enterIdle_sequence (v : VehicleNo) :
    (s.enterIdle v).sequence = s.sequence := rfl
@[simp] theorem State.enterIdle_dock (v : VehicleNo) :
    (s.enterIdle v).dock = s.dock := rfl
@[simp] theorem State.enterIdle_lanes (v : VehicleNo) :
    (s.enterIdle v).lanes = s.lanes := rfl
@[simp] theorem State.enterIdle_orders (v : VehicleNo) :
    (s.enterIdle v).orders = s.orders := rfl
@[simp] theorem State.enterIdle_nextNumber (v : VehicleNo) :
    (s.enterIdle v).nextNumber = s.nextNumber := rfl
@[simp] theorem State.enterIdle_waiting (v : VehicleNo) :
    (s.enterIdle v).waiting = s.waiting := rfl
@[simp] theorem State.enterIdle_idle (v : VehicleNo) :
    (s.enterIdle v).idle = s.idle ++ [v] := rfl
@[simp] theorem State.enterIdle_demand (v : VehicleNo) :
    (s.enterIdle v).demand = s.demand := rfl
@[simp] theorem State.enterIdle_vehicles (v : VehicleNo) :
    (s.enterIdle v).vehicles = s.vehicles := rfl
@[simp] theorem State.enterIdle_lineBytes (v : VehicleNo) :
    (s.enterIdle v).lineBytes = s.lineBytes := rfl
@[simp] theorem State.enterIdle_received (v : VehicleNo) :
    (s.enterIdle v).received = s.received := rfl
@[simp] theorem State.enterIdle_outbound (v : VehicleNo) :
    (s.enterIdle v).outbound = s.outbound := rfl
@[simp] theorem State.enterIdle_finishing (v : VehicleNo) :
    (s.enterIdle v).finishing = s.finishing := rfl
@[simp] theorem State.enterIdle_aisles (v : VehicleNo) :
    (s.enterIdle v).aisles = s.aisles := rfl
@[simp] theorem State.enterIdle_stands (v : VehicleNo) :
    (s.enterIdle v).stands = s.stands := rfl
@[simp] theorem State.enterIdle_jobs (v : VehicleNo) :
    (s.enterIdle v).jobs = s.jobs := rfl
@[simp] theorem State.enterIdle_wasteFraction (v : VehicleNo) :
    (s.enterIdle v).wasteFraction = s.wasteFraction := rfl
@[simp] theorem State.enterIdle_saleable (v : VehicleNo) :
    (s.enterIdle v).saleable = s.saleable := rfl
@[simp] theorem State.enterIdle_requests (v : VehicleNo) :
    (s.enterIdle v).requests = s.requests := rfl
@[simp] theorem State.enterIdle_answers (v : VehicleNo) :
    (s.enterIdle v).answers = s.answers := rfl
@[simp] theorem State.enterIdle_overrunMark (v : VehicleNo) :
    (s.enterIdle v).overrunMark = s.overrunMark := rfl
@[simp] theorem State.enterIdle_framingMark (v : VehicleNo) :
    (s.enterIdle v).framingMark = s.framingMark := rfl
@[simp] theorem State.enterIdle_resetPending (v : VehicleNo) :
    (s.enterIdle v).resetPending = s.resetPending := rfl
@[simp] theorem State.enterIdle_period (v : VehicleNo) :
    (s.enterIdle v).period = s.period := rfl
@[simp] theorem State.enterIdle_frameSpoiled (v : VehicleNo) :
    (s.enterIdle v).frameSpoiled = s.frameSpoiled := rfl
@[simp] theorem State.enterIdle_notices (v : VehicleNo) :
    (s.enterIdle v).notices = s.notices := rfl
@[simp] theorem State.enterIdle_pending (v : VehicleNo) :
    (s.enterIdle v).pending = s.pending := rfl

/-! ### State.leaveIdle -/

@[simp] theorem State.leaveIdle_device (v : VehicleNo) :
    (s.leaveIdle v).device = s.device := rfl
@[simp] theorem State.leaveIdle_setmem (v : VehicleNo) :
    (s.leaveIdle v).setmem = s.setmem := rfl
@[simp] theorem State.leaveIdle_working (v : VehicleNo) :
    (s.leaveIdle v).working = s.working := rfl
@[simp] theorem State.leaveIdle_loaded (v : VehicleNo) :
    (s.leaveIdle v).loaded = s.loaded := rfl
@[simp] theorem State.leaveIdle_store (v : VehicleNo) :
    (s.leaveIdle v).store = s.store := rfl
@[simp] theorem State.leaveIdle_hallIncrement (v : VehicleNo) :
    (s.leaveIdle v).hallIncrement = s.hallIncrement := rfl
@[simp] theorem State.leaveIdle_hallAccumulator (v : VehicleNo) :
    (s.leaveIdle v).hallAccumulator = s.hallAccumulator := rfl
@[simp] theorem State.leaveIdle_rolls (v : VehicleNo) :
    (s.leaveIdle v).rolls = s.rolls := rfl
@[simp] theorem State.leaveIdle_sequence (v : VehicleNo) :
    (s.leaveIdle v).sequence = s.sequence := rfl
@[simp] theorem State.leaveIdle_dock (v : VehicleNo) :
    (s.leaveIdle v).dock = s.dock := rfl
@[simp] theorem State.leaveIdle_lanes (v : VehicleNo) :
    (s.leaveIdle v).lanes = s.lanes := rfl
@[simp] theorem State.leaveIdle_orders (v : VehicleNo) :
    (s.leaveIdle v).orders = s.orders := rfl
@[simp] theorem State.leaveIdle_nextNumber (v : VehicleNo) :
    (s.leaveIdle v).nextNumber = s.nextNumber := rfl
@[simp] theorem State.leaveIdle_waiting (v : VehicleNo) :
    (s.leaveIdle v).waiting = s.waiting := rfl
@[simp] theorem State.leaveIdle_idle (v : VehicleNo) :
    (s.leaveIdle v).idle = s.idle.filter (· ≠ v) := rfl
@[simp] theorem State.leaveIdle_demand (v : VehicleNo) :
    (s.leaveIdle v).demand = s.demand := rfl
@[simp] theorem State.leaveIdle_vehicles (v : VehicleNo) :
    (s.leaveIdle v).vehicles = s.vehicles := rfl
@[simp] theorem State.leaveIdle_lineBytes (v : VehicleNo) :
    (s.leaveIdle v).lineBytes = s.lineBytes := rfl
@[simp] theorem State.leaveIdle_received (v : VehicleNo) :
    (s.leaveIdle v).received = s.received := rfl
@[simp] theorem State.leaveIdle_outbound (v : VehicleNo) :
    (s.leaveIdle v).outbound = s.outbound := rfl
@[simp] theorem State.leaveIdle_finishing (v : VehicleNo) :
    (s.leaveIdle v).finishing = s.finishing := rfl
@[simp] theorem State.leaveIdle_aisles (v : VehicleNo) :
    (s.leaveIdle v).aisles = s.aisles := rfl
@[simp] theorem State.leaveIdle_stands (v : VehicleNo) :
    (s.leaveIdle v).stands = s.stands := rfl
@[simp] theorem State.leaveIdle_jobs (v : VehicleNo) :
    (s.leaveIdle v).jobs = s.jobs := rfl
@[simp] theorem State.leaveIdle_wasteFraction (v : VehicleNo) :
    (s.leaveIdle v).wasteFraction = s.wasteFraction := rfl
@[simp] theorem State.leaveIdle_saleable (v : VehicleNo) :
    (s.leaveIdle v).saleable = s.saleable := rfl
@[simp] theorem State.leaveIdle_requests (v : VehicleNo) :
    (s.leaveIdle v).requests = s.requests := rfl
@[simp] theorem State.leaveIdle_answers (v : VehicleNo) :
    (s.leaveIdle v).answers = s.answers := rfl
@[simp] theorem State.leaveIdle_overrunMark (v : VehicleNo) :
    (s.leaveIdle v).overrunMark = s.overrunMark := rfl
@[simp] theorem State.leaveIdle_framingMark (v : VehicleNo) :
    (s.leaveIdle v).framingMark = s.framingMark := rfl
@[simp] theorem State.leaveIdle_resetPending (v : VehicleNo) :
    (s.leaveIdle v).resetPending = s.resetPending := rfl
@[simp] theorem State.leaveIdle_period (v : VehicleNo) :
    (s.leaveIdle v).period = s.period := rfl
@[simp] theorem State.leaveIdle_frameSpoiled (v : VehicleNo) :
    (s.leaveIdle v).frameSpoiled = s.frameSpoiled := rfl
@[simp] theorem State.leaveIdle_notices (v : VehicleNo) :
    (s.leaveIdle v).notices = s.notices := rfl
@[simp] theorem State.leaveIdle_pending (v : VehicleNo) :
    (s.leaveIdle v).pending = s.pending := rfl

/-! ### State.leaveQueue -/

@[simp] theorem State.leaveQueue_device (k : OrderSlot) :
    (s.leaveQueue k).device = s.device := rfl
@[simp] theorem State.leaveQueue_setmem (k : OrderSlot) :
    (s.leaveQueue k).setmem = s.setmem := rfl
@[simp] theorem State.leaveQueue_working (k : OrderSlot) :
    (s.leaveQueue k).working = s.working := rfl
@[simp] theorem State.leaveQueue_loaded (k : OrderSlot) :
    (s.leaveQueue k).loaded = s.loaded := rfl
@[simp] theorem State.leaveQueue_store (k : OrderSlot) :
    (s.leaveQueue k).store = s.store := rfl
@[simp] theorem State.leaveQueue_hallIncrement (k : OrderSlot) :
    (s.leaveQueue k).hallIncrement = s.hallIncrement := rfl
@[simp] theorem State.leaveQueue_hallAccumulator (k : OrderSlot) :
    (s.leaveQueue k).hallAccumulator = s.hallAccumulator := rfl
@[simp] theorem State.leaveQueue_rolls (k : OrderSlot) :
    (s.leaveQueue k).rolls = s.rolls := rfl
@[simp] theorem State.leaveQueue_sequence (k : OrderSlot) :
    (s.leaveQueue k).sequence = s.sequence := rfl
@[simp] theorem State.leaveQueue_dock (k : OrderSlot) :
    (s.leaveQueue k).dock = s.dock := rfl
@[simp] theorem State.leaveQueue_lanes (k : OrderSlot) :
    (s.leaveQueue k).lanes = s.lanes := rfl
@[simp] theorem State.leaveQueue_orders (k : OrderSlot) :
    (s.leaveQueue k).orders = s.orders := rfl
@[simp] theorem State.leaveQueue_nextNumber (k : OrderSlot) :
    (s.leaveQueue k).nextNumber = s.nextNumber := rfl
@[simp] theorem State.leaveQueue_waiting (k : OrderSlot) :
    (s.leaveQueue k).waiting = s.waiting.filter (· ≠ k) := rfl
@[simp] theorem State.leaveQueue_idle (k : OrderSlot) :
    (s.leaveQueue k).idle = s.idle := rfl
@[simp] theorem State.leaveQueue_demand (k : OrderSlot) :
    (s.leaveQueue k).demand = s.demand := rfl
@[simp] theorem State.leaveQueue_vehicles (k : OrderSlot) :
    (s.leaveQueue k).vehicles = s.vehicles := rfl
@[simp] theorem State.leaveQueue_lineBytes (k : OrderSlot) :
    (s.leaveQueue k).lineBytes = s.lineBytes := rfl
@[simp] theorem State.leaveQueue_received (k : OrderSlot) :
    (s.leaveQueue k).received = s.received := rfl
@[simp] theorem State.leaveQueue_outbound (k : OrderSlot) :
    (s.leaveQueue k).outbound = s.outbound := rfl
@[simp] theorem State.leaveQueue_finishing (k : OrderSlot) :
    (s.leaveQueue k).finishing = s.finishing := rfl
@[simp] theorem State.leaveQueue_aisles (k : OrderSlot) :
    (s.leaveQueue k).aisles = s.aisles := rfl
@[simp] theorem State.leaveQueue_stands (k : OrderSlot) :
    (s.leaveQueue k).stands = s.stands := rfl
@[simp] theorem State.leaveQueue_jobs (k : OrderSlot) :
    (s.leaveQueue k).jobs = s.jobs := rfl
@[simp] theorem State.leaveQueue_wasteFraction (k : OrderSlot) :
    (s.leaveQueue k).wasteFraction = s.wasteFraction := rfl
@[simp] theorem State.leaveQueue_saleable (k : OrderSlot) :
    (s.leaveQueue k).saleable = s.saleable := rfl
@[simp] theorem State.leaveQueue_requests (k : OrderSlot) :
    (s.leaveQueue k).requests = s.requests := rfl
@[simp] theorem State.leaveQueue_answers (k : OrderSlot) :
    (s.leaveQueue k).answers = s.answers := rfl
@[simp] theorem State.leaveQueue_overrunMark (k : OrderSlot) :
    (s.leaveQueue k).overrunMark = s.overrunMark := rfl
@[simp] theorem State.leaveQueue_framingMark (k : OrderSlot) :
    (s.leaveQueue k).framingMark = s.framingMark := rfl
@[simp] theorem State.leaveQueue_resetPending (k : OrderSlot) :
    (s.leaveQueue k).resetPending = s.resetPending := rfl
@[simp] theorem State.leaveQueue_period (k : OrderSlot) :
    (s.leaveQueue k).period = s.period := rfl
@[simp] theorem State.leaveQueue_frameSpoiled (k : OrderSlot) :
    (s.leaveQueue k).frameSpoiled = s.frameSpoiled := rfl
@[simp] theorem State.leaveQueue_notices (k : OrderSlot) :
    (s.leaveQueue k).notices = s.notices := rfl
@[simp] theorem State.leaveQueue_pending (k : OrderSlot) :
    (s.leaveQueue k).pending = s.pending := rfl

/-! ### State.leaveDock -/

@[simp] theorem State.leaveDock_device (k : RollSlot) :
    (s.leaveDock k).device = s.device := rfl
@[simp] theorem State.leaveDock_setmem (k : RollSlot) :
    (s.leaveDock k).setmem = s.setmem := rfl
@[simp] theorem State.leaveDock_working (k : RollSlot) :
    (s.leaveDock k).working = s.working := rfl
@[simp] theorem State.leaveDock_loaded (k : RollSlot) :
    (s.leaveDock k).loaded = s.loaded := rfl
@[simp] theorem State.leaveDock_store (k : RollSlot) :
    (s.leaveDock k).store = s.store := rfl
@[simp] theorem State.leaveDock_hallIncrement (k : RollSlot) :
    (s.leaveDock k).hallIncrement = s.hallIncrement := rfl
@[simp] theorem State.leaveDock_hallAccumulator (k : RollSlot) :
    (s.leaveDock k).hallAccumulator = s.hallAccumulator := rfl
@[simp] theorem State.leaveDock_rolls (k : RollSlot) :
    (s.leaveDock k).rolls = s.rolls := rfl
@[simp] theorem State.leaveDock_sequence (k : RollSlot) :
    (s.leaveDock k).sequence = s.sequence := rfl
@[simp] theorem State.leaveDock_dock (k : RollSlot) :
    (s.leaveDock k).dock = s.dock.filter (· ≠ k) := rfl
@[simp] theorem State.leaveDock_lanes (k : RollSlot) :
    (s.leaveDock k).lanes = s.lanes := rfl
@[simp] theorem State.leaveDock_orders (k : RollSlot) :
    (s.leaveDock k).orders = s.orders := rfl
@[simp] theorem State.leaveDock_nextNumber (k : RollSlot) :
    (s.leaveDock k).nextNumber = s.nextNumber := rfl
@[simp] theorem State.leaveDock_waiting (k : RollSlot) :
    (s.leaveDock k).waiting = s.waiting := rfl
@[simp] theorem State.leaveDock_idle (k : RollSlot) :
    (s.leaveDock k).idle = s.idle := rfl
@[simp] theorem State.leaveDock_demand (k : RollSlot) :
    (s.leaveDock k).demand = s.demand := rfl
@[simp] theorem State.leaveDock_vehicles (k : RollSlot) :
    (s.leaveDock k).vehicles = s.vehicles := rfl
@[simp] theorem State.leaveDock_lineBytes (k : RollSlot) :
    (s.leaveDock k).lineBytes = s.lineBytes := rfl
@[simp] theorem State.leaveDock_received (k : RollSlot) :
    (s.leaveDock k).received = s.received := rfl
@[simp] theorem State.leaveDock_outbound (k : RollSlot) :
    (s.leaveDock k).outbound = s.outbound := rfl
@[simp] theorem State.leaveDock_finishing (k : RollSlot) :
    (s.leaveDock k).finishing = s.finishing := rfl
@[simp] theorem State.leaveDock_aisles (k : RollSlot) :
    (s.leaveDock k).aisles = s.aisles := rfl
@[simp] theorem State.leaveDock_stands (k : RollSlot) :
    (s.leaveDock k).stands = s.stands := rfl
@[simp] theorem State.leaveDock_jobs (k : RollSlot) :
    (s.leaveDock k).jobs = s.jobs := rfl
@[simp] theorem State.leaveDock_wasteFraction (k : RollSlot) :
    (s.leaveDock k).wasteFraction = s.wasteFraction := rfl
@[simp] theorem State.leaveDock_saleable (k : RollSlot) :
    (s.leaveDock k).saleable = s.saleable := rfl
@[simp] theorem State.leaveDock_requests (k : RollSlot) :
    (s.leaveDock k).requests = s.requests := rfl
@[simp] theorem State.leaveDock_answers (k : RollSlot) :
    (s.leaveDock k).answers = s.answers := rfl
@[simp] theorem State.leaveDock_overrunMark (k : RollSlot) :
    (s.leaveDock k).overrunMark = s.overrunMark := rfl
@[simp] theorem State.leaveDock_framingMark (k : RollSlot) :
    (s.leaveDock k).framingMark = s.framingMark := rfl
@[simp] theorem State.leaveDock_resetPending (k : RollSlot) :
    (s.leaveDock k).resetPending = s.resetPending := rfl
@[simp] theorem State.leaveDock_period (k : RollSlot) :
    (s.leaveDock k).period = s.period := rfl
@[simp] theorem State.leaveDock_frameSpoiled (k : RollSlot) :
    (s.leaveDock k).frameSpoiled = s.frameSpoiled := rfl
@[simp] theorem State.leaveDock_notices (k : RollSlot) :
    (s.leaveDock k).notices = s.notices := rfl
@[simp] theorem State.leaveDock_pending (k : RollSlot) :
    (s.leaveDock k).pending = s.pending := rfl

/-! ### State.deduct -/

@[simp] theorem State.deduct_device (k : RollSlot) (m : Nat) :
    (s.deduct k m).device = s.device := rfl
@[simp] theorem State.deduct_setmem (k : RollSlot) (m : Nat) :
    (s.deduct k m).setmem = s.setmem := rfl
@[simp] theorem State.deduct_working (k : RollSlot) (m : Nat) :
    (s.deduct k m).working = s.working := rfl
@[simp] theorem State.deduct_loaded (k : RollSlot) (m : Nat) :
    (s.deduct k m).loaded = s.loaded := rfl
@[simp] theorem State.deduct_store (k : RollSlot) (m : Nat) :
    (s.deduct k m).store = s.store := rfl
@[simp] theorem State.deduct_hallIncrement (k : RollSlot) (m : Nat) :
    (s.deduct k m).hallIncrement = s.hallIncrement := rfl
@[simp] theorem State.deduct_hallAccumulator (k : RollSlot) (m : Nat) :
    (s.deduct k m).hallAccumulator = s.hallAccumulator := rfl
@[simp] theorem State.deduct_rolls (k : RollSlot) (m : Nat) :
    (s.deduct k m).rolls = tableModify s.rolls k (fun r => { r with remaining := r.remaining - min m r.remaining }) := rfl
@[simp] theorem State.deduct_sequence (k : RollSlot) (m : Nat) :
    (s.deduct k m).sequence = s.sequence := rfl
@[simp] theorem State.deduct_dock (k : RollSlot) (m : Nat) :
    (s.deduct k m).dock = s.dock := rfl
@[simp] theorem State.deduct_lanes (k : RollSlot) (m : Nat) :
    (s.deduct k m).lanes = s.lanes := rfl
@[simp] theorem State.deduct_orders (k : RollSlot) (m : Nat) :
    (s.deduct k m).orders = s.orders := rfl
@[simp] theorem State.deduct_nextNumber (k : RollSlot) (m : Nat) :
    (s.deduct k m).nextNumber = s.nextNumber := rfl
@[simp] theorem State.deduct_waiting (k : RollSlot) (m : Nat) :
    (s.deduct k m).waiting = s.waiting := rfl
@[simp] theorem State.deduct_idle (k : RollSlot) (m : Nat) :
    (s.deduct k m).idle = s.idle := rfl
@[simp] theorem State.deduct_demand (k : RollSlot) (m : Nat) :
    (s.deduct k m).demand = s.demand := rfl
@[simp] theorem State.deduct_vehicles (k : RollSlot) (m : Nat) :
    (s.deduct k m).vehicles = s.vehicles := rfl
@[simp] theorem State.deduct_lineBytes (k : RollSlot) (m : Nat) :
    (s.deduct k m).lineBytes = s.lineBytes := rfl
@[simp] theorem State.deduct_received (k : RollSlot) (m : Nat) :
    (s.deduct k m).received = s.received := rfl
@[simp] theorem State.deduct_outbound (k : RollSlot) (m : Nat) :
    (s.deduct k m).outbound = s.outbound := rfl
@[simp] theorem State.deduct_finishing (k : RollSlot) (m : Nat) :
    (s.deduct k m).finishing = s.finishing := rfl
@[simp] theorem State.deduct_aisles (k : RollSlot) (m : Nat) :
    (s.deduct k m).aisles = s.aisles := rfl
@[simp] theorem State.deduct_stands (k : RollSlot) (m : Nat) :
    (s.deduct k m).stands = s.stands := rfl
@[simp] theorem State.deduct_jobs (k : RollSlot) (m : Nat) :
    (s.deduct k m).jobs = s.jobs := rfl
@[simp] theorem State.deduct_wasteFraction (k : RollSlot) (m : Nat) :
    (s.deduct k m).wasteFraction = s.wasteFraction := rfl
@[simp] theorem State.deduct_saleable (k : RollSlot) (m : Nat) :
    (s.deduct k m).saleable = s.saleable := rfl
@[simp] theorem State.deduct_requests (k : RollSlot) (m : Nat) :
    (s.deduct k m).requests = s.requests := rfl
@[simp] theorem State.deduct_answers (k : RollSlot) (m : Nat) :
    (s.deduct k m).answers = s.answers := rfl
@[simp] theorem State.deduct_overrunMark (k : RollSlot) (m : Nat) :
    (s.deduct k m).overrunMark = s.overrunMark := rfl
@[simp] theorem State.deduct_framingMark (k : RollSlot) (m : Nat) :
    (s.deduct k m).framingMark = s.framingMark := rfl
@[simp] theorem State.deduct_resetPending (k : RollSlot) (m : Nat) :
    (s.deduct k m).resetPending = s.resetPending := rfl
@[simp] theorem State.deduct_period (k : RollSlot) (m : Nat) :
    (s.deduct k m).period = s.period := rfl
@[simp] theorem State.deduct_frameSpoiled (k : RollSlot) (m : Nat) :
    (s.deduct k m).frameSpoiled = s.frameSpoiled := rfl
@[simp] theorem State.deduct_notices (k : RollSlot) (m : Nat) :
    (s.deduct k m).notices = s.notices := rfl
@[simp] theorem State.deduct_pending (k : RollSlot) (m : Nat) :
    (s.deduct k m).pending = s.pending := rfl

/-! ### State.ack -/

@[simp] theorem State.ack_device (v : VehicleNo) (kind : Byte) :
    (s.ack v kind).device = s.device := rfl
@[simp] theorem State.ack_setmem (v : VehicleNo) (kind : Byte) :
    (s.ack v kind).setmem = s.setmem := rfl
@[simp] theorem State.ack_working (v : VehicleNo) (kind : Byte) :
    (s.ack v kind).working = s.working := rfl
@[simp] theorem State.ack_loaded (v : VehicleNo) (kind : Byte) :
    (s.ack v kind).loaded = s.loaded := rfl
@[simp] theorem State.ack_store (v : VehicleNo) (kind : Byte) :
    (s.ack v kind).store = s.store := rfl
@[simp] theorem State.ack_hallIncrement (v : VehicleNo) (kind : Byte) :
    (s.ack v kind).hallIncrement = s.hallIncrement := rfl
@[simp] theorem State.ack_hallAccumulator (v : VehicleNo) (kind : Byte) :
    (s.ack v kind).hallAccumulator = s.hallAccumulator := rfl
@[simp] theorem State.ack_rolls (v : VehicleNo) (kind : Byte) :
    (s.ack v kind).rolls = s.rolls := rfl
@[simp] theorem State.ack_sequence (v : VehicleNo) (kind : Byte) :
    (s.ack v kind).sequence = s.sequence := rfl
@[simp] theorem State.ack_dock (v : VehicleNo) (kind : Byte) :
    (s.ack v kind).dock = s.dock := rfl
@[simp] theorem State.ack_lanes (v : VehicleNo) (kind : Byte) :
    (s.ack v kind).lanes = s.lanes := rfl
@[simp] theorem State.ack_orders (v : VehicleNo) (kind : Byte) :
    (s.ack v kind).orders = s.orders := rfl
@[simp] theorem State.ack_nextNumber (v : VehicleNo) (kind : Byte) :
    (s.ack v kind).nextNumber = s.nextNumber := rfl
@[simp] theorem State.ack_waiting (v : VehicleNo) (kind : Byte) :
    (s.ack v kind).waiting = s.waiting := rfl
@[simp] theorem State.ack_idle (v : VehicleNo) (kind : Byte) :
    (s.ack v kind).idle = s.idle := rfl
@[simp] theorem State.ack_demand (v : VehicleNo) (kind : Byte) :
    (s.ack v kind).demand = s.demand := rfl
@[simp] theorem State.ack_vehicles (v : VehicleNo) (kind : Byte) :
    (s.ack v kind).vehicles = s.vehicles := rfl
@[simp] theorem State.ack_lineBytes (v : VehicleNo) (kind : Byte) :
    (s.ack v kind).lineBytes = s.lineBytes := rfl
@[simp] theorem State.ack_received (v : VehicleNo) (kind : Byte) :
    (s.ack v kind).received = s.received := rfl
@[simp] theorem State.ack_outbound (v : VehicleNo) (kind : Byte) :
    (s.ack v kind).outbound = s.outbound ++ [⟨v, .ack kind⟩] := rfl
@[simp] theorem State.ack_finishing (v : VehicleNo) (kind : Byte) :
    (s.ack v kind).finishing = s.finishing := rfl
@[simp] theorem State.ack_aisles (v : VehicleNo) (kind : Byte) :
    (s.ack v kind).aisles = s.aisles := rfl
@[simp] theorem State.ack_stands (v : VehicleNo) (kind : Byte) :
    (s.ack v kind).stands = s.stands := rfl
@[simp] theorem State.ack_jobs (v : VehicleNo) (kind : Byte) :
    (s.ack v kind).jobs = s.jobs := rfl
@[simp] theorem State.ack_wasteFraction (v : VehicleNo) (kind : Byte) :
    (s.ack v kind).wasteFraction = s.wasteFraction := rfl
@[simp] theorem State.ack_saleable (v : VehicleNo) (kind : Byte) :
    (s.ack v kind).saleable = s.saleable := rfl
@[simp] theorem State.ack_requests (v : VehicleNo) (kind : Byte) :
    (s.ack v kind).requests = s.requests := rfl
@[simp] theorem State.ack_answers (v : VehicleNo) (kind : Byte) :
    (s.ack v kind).answers = s.answers := rfl
@[simp] theorem State.ack_overrunMark (v : VehicleNo) (kind : Byte) :
    (s.ack v kind).overrunMark = s.overrunMark := rfl
@[simp] theorem State.ack_framingMark (v : VehicleNo) (kind : Byte) :
    (s.ack v kind).framingMark = s.framingMark := rfl
@[simp] theorem State.ack_resetPending (v : VehicleNo) (kind : Byte) :
    (s.ack v kind).resetPending = s.resetPending := rfl
@[simp] theorem State.ack_period (v : VehicleNo) (kind : Byte) :
    (s.ack v kind).period = s.period := rfl
@[simp] theorem State.ack_frameSpoiled (v : VehicleNo) (kind : Byte) :
    (s.ack v kind).frameSpoiled = s.frameSpoiled := rfl
@[simp] theorem State.ack_notices (v : VehicleNo) (kind : Byte) :
    (s.ack v kind).notices = s.notices := rfl
@[simp] theorem State.ack_pending (v : VehicleNo) (kind : Byte) :
    (s.ack v kind).pending = s.pending := rfl

/-! ### State.refuse -/

@[simp] theorem State.refuse_device (v : VehicleNo) (kind : Byte) (e : Reason) :
    (s.refuse v kind e).device = s.device := rfl
@[simp] theorem State.refuse_setmem (v : VehicleNo) (kind : Byte) (e : Reason) :
    (s.refuse v kind e).setmem = s.setmem := rfl
@[simp] theorem State.refuse_working (v : VehicleNo) (kind : Byte) (e : Reason) :
    (s.refuse v kind e).working = s.working := rfl
@[simp] theorem State.refuse_loaded (v : VehicleNo) (kind : Byte) (e : Reason) :
    (s.refuse v kind e).loaded = s.loaded := rfl
@[simp] theorem State.refuse_store (v : VehicleNo) (kind : Byte) (e : Reason) :
    (s.refuse v kind e).store = s.store := rfl
@[simp] theorem State.refuse_hallIncrement (v : VehicleNo) (kind : Byte) (e : Reason) :
    (s.refuse v kind e).hallIncrement = s.hallIncrement := rfl
@[simp] theorem State.refuse_hallAccumulator (v : VehicleNo) (kind : Byte) (e : Reason) :
    (s.refuse v kind e).hallAccumulator = s.hallAccumulator := rfl
@[simp] theorem State.refuse_rolls (v : VehicleNo) (kind : Byte) (e : Reason) :
    (s.refuse v kind e).rolls = s.rolls := rfl
@[simp] theorem State.refuse_sequence (v : VehicleNo) (kind : Byte) (e : Reason) :
    (s.refuse v kind e).sequence = s.sequence := rfl
@[simp] theorem State.refuse_dock (v : VehicleNo) (kind : Byte) (e : Reason) :
    (s.refuse v kind e).dock = s.dock := rfl
@[simp] theorem State.refuse_lanes (v : VehicleNo) (kind : Byte) (e : Reason) :
    (s.refuse v kind e).lanes = s.lanes := rfl
@[simp] theorem State.refuse_orders (v : VehicleNo) (kind : Byte) (e : Reason) :
    (s.refuse v kind e).orders = s.orders := rfl
@[simp] theorem State.refuse_nextNumber (v : VehicleNo) (kind : Byte) (e : Reason) :
    (s.refuse v kind e).nextNumber = s.nextNumber := rfl
@[simp] theorem State.refuse_waiting (v : VehicleNo) (kind : Byte) (e : Reason) :
    (s.refuse v kind e).waiting = s.waiting := rfl
@[simp] theorem State.refuse_idle (v : VehicleNo) (kind : Byte) (e : Reason) :
    (s.refuse v kind e).idle = s.idle := rfl
@[simp] theorem State.refuse_demand (v : VehicleNo) (kind : Byte) (e : Reason) :
    (s.refuse v kind e).demand = s.demand := rfl
@[simp] theorem State.refuse_vehicles (v : VehicleNo) (kind : Byte) (e : Reason) :
    (s.refuse v kind e).vehicles = s.vehicles := rfl
@[simp] theorem State.refuse_lineBytes (v : VehicleNo) (kind : Byte) (e : Reason) :
    (s.refuse v kind e).lineBytes = s.lineBytes := rfl
@[simp] theorem State.refuse_received (v : VehicleNo) (kind : Byte) (e : Reason) :
    (s.refuse v kind e).received = s.received := rfl
@[simp] theorem State.refuse_outbound (v : VehicleNo) (kind : Byte) (e : Reason) :
    (s.refuse v kind e).outbound = s.outbound ++ [⟨v, .refuse kind e⟩] := rfl
@[simp] theorem State.refuse_finishing (v : VehicleNo) (kind : Byte) (e : Reason) :
    (s.refuse v kind e).finishing = s.finishing := rfl
@[simp] theorem State.refuse_aisles (v : VehicleNo) (kind : Byte) (e : Reason) :
    (s.refuse v kind e).aisles = s.aisles := rfl
@[simp] theorem State.refuse_stands (v : VehicleNo) (kind : Byte) (e : Reason) :
    (s.refuse v kind e).stands = s.stands := rfl
@[simp] theorem State.refuse_jobs (v : VehicleNo) (kind : Byte) (e : Reason) :
    (s.refuse v kind e).jobs = s.jobs := rfl
@[simp] theorem State.refuse_wasteFraction (v : VehicleNo) (kind : Byte) (e : Reason) :
    (s.refuse v kind e).wasteFraction = s.wasteFraction := rfl
@[simp] theorem State.refuse_saleable (v : VehicleNo) (kind : Byte) (e : Reason) :
    (s.refuse v kind e).saleable = s.saleable := rfl
@[simp] theorem State.refuse_requests (v : VehicleNo) (kind : Byte) (e : Reason) :
    (s.refuse v kind e).requests = s.requests := rfl
@[simp] theorem State.refuse_answers (v : VehicleNo) (kind : Byte) (e : Reason) :
    (s.refuse v kind e).answers = s.answers := rfl
@[simp] theorem State.refuse_overrunMark (v : VehicleNo) (kind : Byte) (e : Reason) :
    (s.refuse v kind e).overrunMark = s.overrunMark := rfl
@[simp] theorem State.refuse_framingMark (v : VehicleNo) (kind : Byte) (e : Reason) :
    (s.refuse v kind e).framingMark = s.framingMark := rfl
@[simp] theorem State.refuse_resetPending (v : VehicleNo) (kind : Byte) (e : Reason) :
    (s.refuse v kind e).resetPending = s.resetPending := rfl
@[simp] theorem State.refuse_period (v : VehicleNo) (kind : Byte) (e : Reason) :
    (s.refuse v kind e).period = s.period := rfl
@[simp] theorem State.refuse_frameSpoiled (v : VehicleNo) (kind : Byte) (e : Reason) :
    (s.refuse v kind e).frameSpoiled = s.frameSpoiled := rfl
@[simp] theorem State.refuse_notices (v : VehicleNo) (kind : Byte) (e : Reason) :
    (s.refuse v kind e).notices = postInto s.notices (.vehicleRefused v) (.reason e) := rfl
@[simp] theorem State.refuse_pending (v : VehicleNo) (kind : Byte) (e : Reason) :
    (s.refuse v kind e).pending = s.pending := rfl

/-! ### State.answer -/

@[simp] theorem State.answer_device (r : Request) (e : Result) (out : List Byte) :
    (s.answer r e out).device = s.device := rfl
@[simp] theorem State.answer_setmem (r : Request) (e : Result) (out : List Byte) :
    (s.answer r e out).setmem = s.setmem := rfl
@[simp] theorem State.answer_working (r : Request) (e : Result) (out : List Byte) :
    (s.answer r e out).working = s.working := rfl
@[simp] theorem State.answer_loaded (r : Request) (e : Result) (out : List Byte) :
    (s.answer r e out).loaded = s.loaded := rfl
@[simp] theorem State.answer_store (r : Request) (e : Result) (out : List Byte) :
    (s.answer r e out).store = s.store := rfl
@[simp] theorem State.answer_hallIncrement (r : Request) (e : Result) (out : List Byte) :
    (s.answer r e out).hallIncrement = s.hallIncrement := rfl
@[simp] theorem State.answer_hallAccumulator (r : Request) (e : Result) (out : List Byte) :
    (s.answer r e out).hallAccumulator = s.hallAccumulator := rfl
@[simp] theorem State.answer_rolls (r : Request) (e : Result) (out : List Byte) :
    (s.answer r e out).rolls = s.rolls := rfl
@[simp] theorem State.answer_sequence (r : Request) (e : Result) (out : List Byte) :
    (s.answer r e out).sequence = s.sequence := rfl
@[simp] theorem State.answer_dock (r : Request) (e : Result) (out : List Byte) :
    (s.answer r e out).dock = s.dock := rfl
@[simp] theorem State.answer_lanes (r : Request) (e : Result) (out : List Byte) :
    (s.answer r e out).lanes = s.lanes := rfl
@[simp] theorem State.answer_orders (r : Request) (e : Result) (out : List Byte) :
    (s.answer r e out).orders = s.orders := rfl
@[simp] theorem State.answer_nextNumber (r : Request) (e : Result) (out : List Byte) :
    (s.answer r e out).nextNumber = s.nextNumber := rfl
@[simp] theorem State.answer_waiting (r : Request) (e : Result) (out : List Byte) :
    (s.answer r e out).waiting = s.waiting := rfl
@[simp] theorem State.answer_idle (r : Request) (e : Result) (out : List Byte) :
    (s.answer r e out).idle = s.idle := rfl
@[simp] theorem State.answer_demand (r : Request) (e : Result) (out : List Byte) :
    (s.answer r e out).demand = s.demand := rfl
@[simp] theorem State.answer_vehicles (r : Request) (e : Result) (out : List Byte) :
    (s.answer r e out).vehicles = s.vehicles := rfl
@[simp] theorem State.answer_lineBytes (r : Request) (e : Result) (out : List Byte) :
    (s.answer r e out).lineBytes = s.lineBytes := rfl
@[simp] theorem State.answer_received (r : Request) (e : Result) (out : List Byte) :
    (s.answer r e out).received = s.received := rfl
@[simp] theorem State.answer_outbound (r : Request) (e : Result) (out : List Byte) :
    (s.answer r e out).outbound = s.outbound := rfl
@[simp] theorem State.answer_finishing (r : Request) (e : Result) (out : List Byte) :
    (s.answer r e out).finishing = s.finishing := rfl
@[simp] theorem State.answer_aisles (r : Request) (e : Result) (out : List Byte) :
    (s.answer r e out).aisles = s.aisles := rfl
@[simp] theorem State.answer_stands (r : Request) (e : Result) (out : List Byte) :
    (s.answer r e out).stands = s.stands := rfl
@[simp] theorem State.answer_jobs (r : Request) (e : Result) (out : List Byte) :
    (s.answer r e out).jobs = s.jobs := rfl
@[simp] theorem State.answer_wasteFraction (r : Request) (e : Result) (out : List Byte) :
    (s.answer r e out).wasteFraction = s.wasteFraction := rfl
@[simp] theorem State.answer_saleable (r : Request) (e : Result) (out : List Byte) :
    (s.answer r e out).saleable = s.saleable := rfl
@[simp] theorem State.answer_requests (r : Request) (e : Result) (out : List Byte) :
    (s.answer r e out).requests = s.requests := rfl
@[simp] theorem State.answer_answers (r : Request) (e : Result) (out : List Byte) :
    (s.answer r e out).answers = s.answers ++ [⟨r.code, r.tag, e, out⟩] := rfl
@[simp] theorem State.answer_overrunMark (r : Request) (e : Result) (out : List Byte) :
    (s.answer r e out).overrunMark = s.overrunMark := rfl
@[simp] theorem State.answer_framingMark (r : Request) (e : Result) (out : List Byte) :
    (s.answer r e out).framingMark = s.framingMark := rfl
@[simp] theorem State.answer_resetPending (r : Request) (e : Result) (out : List Byte) :
    (s.answer r e out).resetPending = s.resetPending := rfl
@[simp] theorem State.answer_period (r : Request) (e : Result) (out : List Byte) :
    (s.answer r e out).period = s.period := rfl
@[simp] theorem State.answer_frameSpoiled (r : Request) (e : Result) (out : List Byte) :
    (s.answer r e out).frameSpoiled = s.frameSpoiled := rfl
@[simp] theorem State.answer_notices (r : Request) (e : Result) (out : List Byte) :
    (s.answer r e out).notices = s.notices := rfl
@[simp] theorem State.answer_pending (r : Request) (e : Result) (out : List Byte) :
    (s.answer r e out).pending = s.pending := rfl

/-! ### State.okAnswer -/

@[simp] theorem State.okAnswer_device (q : RequestKind) (tag : Byte) (out : List Byte) :
    (s.okAnswer q tag out).device = s.device := rfl
@[simp] theorem State.okAnswer_setmem (q : RequestKind) (tag : Byte) (out : List Byte) :
    (s.okAnswer q tag out).setmem = s.setmem := rfl
@[simp] theorem State.okAnswer_working (q : RequestKind) (tag : Byte) (out : List Byte) :
    (s.okAnswer q tag out).working = s.working := rfl
@[simp] theorem State.okAnswer_loaded (q : RequestKind) (tag : Byte) (out : List Byte) :
    (s.okAnswer q tag out).loaded = s.loaded := rfl
@[simp] theorem State.okAnswer_store (q : RequestKind) (tag : Byte) (out : List Byte) :
    (s.okAnswer q tag out).store = s.store := rfl
@[simp] theorem State.okAnswer_hallIncrement (q : RequestKind) (tag : Byte) (out : List Byte) :
    (s.okAnswer q tag out).hallIncrement = s.hallIncrement := rfl
@[simp] theorem State.okAnswer_hallAccumulator (q : RequestKind) (tag : Byte) (out : List Byte) :
    (s.okAnswer q tag out).hallAccumulator = s.hallAccumulator := rfl
@[simp] theorem State.okAnswer_rolls (q : RequestKind) (tag : Byte) (out : List Byte) :
    (s.okAnswer q tag out).rolls = s.rolls := rfl
@[simp] theorem State.okAnswer_sequence (q : RequestKind) (tag : Byte) (out : List Byte) :
    (s.okAnswer q tag out).sequence = s.sequence := rfl
@[simp] theorem State.okAnswer_dock (q : RequestKind) (tag : Byte) (out : List Byte) :
    (s.okAnswer q tag out).dock = s.dock := rfl
@[simp] theorem State.okAnswer_lanes (q : RequestKind) (tag : Byte) (out : List Byte) :
    (s.okAnswer q tag out).lanes = s.lanes := rfl
@[simp] theorem State.okAnswer_orders (q : RequestKind) (tag : Byte) (out : List Byte) :
    (s.okAnswer q tag out).orders = s.orders := rfl
@[simp] theorem State.okAnswer_nextNumber (q : RequestKind) (tag : Byte) (out : List Byte) :
    (s.okAnswer q tag out).nextNumber = s.nextNumber := rfl
@[simp] theorem State.okAnswer_waiting (q : RequestKind) (tag : Byte) (out : List Byte) :
    (s.okAnswer q tag out).waiting = s.waiting := rfl
@[simp] theorem State.okAnswer_idle (q : RequestKind) (tag : Byte) (out : List Byte) :
    (s.okAnswer q tag out).idle = s.idle := rfl
@[simp] theorem State.okAnswer_demand (q : RequestKind) (tag : Byte) (out : List Byte) :
    (s.okAnswer q tag out).demand = s.demand := rfl
@[simp] theorem State.okAnswer_vehicles (q : RequestKind) (tag : Byte) (out : List Byte) :
    (s.okAnswer q tag out).vehicles = s.vehicles := rfl
@[simp] theorem State.okAnswer_lineBytes (q : RequestKind) (tag : Byte) (out : List Byte) :
    (s.okAnswer q tag out).lineBytes = s.lineBytes := rfl
@[simp] theorem State.okAnswer_received (q : RequestKind) (tag : Byte) (out : List Byte) :
    (s.okAnswer q tag out).received = s.received := rfl
@[simp] theorem State.okAnswer_outbound (q : RequestKind) (tag : Byte) (out : List Byte) :
    (s.okAnswer q tag out).outbound = s.outbound := rfl
@[simp] theorem State.okAnswer_finishing (q : RequestKind) (tag : Byte) (out : List Byte) :
    (s.okAnswer q tag out).finishing = s.finishing := rfl
@[simp] theorem State.okAnswer_aisles (q : RequestKind) (tag : Byte) (out : List Byte) :
    (s.okAnswer q tag out).aisles = s.aisles := rfl
@[simp] theorem State.okAnswer_stands (q : RequestKind) (tag : Byte) (out : List Byte) :
    (s.okAnswer q tag out).stands = s.stands := rfl
@[simp] theorem State.okAnswer_jobs (q : RequestKind) (tag : Byte) (out : List Byte) :
    (s.okAnswer q tag out).jobs = s.jobs := rfl
@[simp] theorem State.okAnswer_wasteFraction (q : RequestKind) (tag : Byte) (out : List Byte) :
    (s.okAnswer q tag out).wasteFraction = s.wasteFraction := rfl
@[simp] theorem State.okAnswer_saleable (q : RequestKind) (tag : Byte) (out : List Byte) :
    (s.okAnswer q tag out).saleable = s.saleable := rfl
@[simp] theorem State.okAnswer_requests (q : RequestKind) (tag : Byte) (out : List Byte) :
    (s.okAnswer q tag out).requests = s.requests := rfl
@[simp] theorem State.okAnswer_answers (q : RequestKind) (tag : Byte) (out : List Byte) :
    (s.okAnswer q tag out).answers = s.answers ++ [⟨q.code, tag, .ok, out⟩] := rfl
@[simp] theorem State.okAnswer_overrunMark (q : RequestKind) (tag : Byte) (out : List Byte) :
    (s.okAnswer q tag out).overrunMark = s.overrunMark := rfl
@[simp] theorem State.okAnswer_framingMark (q : RequestKind) (tag : Byte) (out : List Byte) :
    (s.okAnswer q tag out).framingMark = s.framingMark := rfl
@[simp] theorem State.okAnswer_resetPending (q : RequestKind) (tag : Byte) (out : List Byte) :
    (s.okAnswer q tag out).resetPending = s.resetPending := rfl
@[simp] theorem State.okAnswer_period (q : RequestKind) (tag : Byte) (out : List Byte) :
    (s.okAnswer q tag out).period = s.period := rfl
@[simp] theorem State.okAnswer_frameSpoiled (q : RequestKind) (tag : Byte) (out : List Byte) :
    (s.okAnswer q tag out).frameSpoiled = s.frameSpoiled := rfl
@[simp] theorem State.okAnswer_notices (q : RequestKind) (tag : Byte) (out : List Byte) :
    (s.okAnswer q tag out).notices = s.notices := rfl
@[simp] theorem State.okAnswer_pending (q : RequestKind) (tag : Byte) (out : List Byte) :
    (s.okAnswer q tag out).pending = s.pending := rfl

/-! ### State.refusal -/

@[simp] theorem State.refusal_device (q : RequestKind) (tag : Byte) (e : Result) :
    (s.refusal q tag e).device = s.device := rfl
@[simp] theorem State.refusal_setmem (q : RequestKind) (tag : Byte) (e : Result) :
    (s.refusal q tag e).setmem = s.setmem := rfl
@[simp] theorem State.refusal_working (q : RequestKind) (tag : Byte) (e : Result) :
    (s.refusal q tag e).working = s.working := rfl
@[simp] theorem State.refusal_loaded (q : RequestKind) (tag : Byte) (e : Result) :
    (s.refusal q tag e).loaded = s.loaded := rfl
@[simp] theorem State.refusal_store (q : RequestKind) (tag : Byte) (e : Result) :
    (s.refusal q tag e).store = s.store := rfl
@[simp] theorem State.refusal_hallIncrement (q : RequestKind) (tag : Byte) (e : Result) :
    (s.refusal q tag e).hallIncrement = s.hallIncrement := rfl
@[simp] theorem State.refusal_hallAccumulator (q : RequestKind) (tag : Byte) (e : Result) :
    (s.refusal q tag e).hallAccumulator = s.hallAccumulator := rfl
@[simp] theorem State.refusal_rolls (q : RequestKind) (tag : Byte) (e : Result) :
    (s.refusal q tag e).rolls = s.rolls := rfl
@[simp] theorem State.refusal_sequence (q : RequestKind) (tag : Byte) (e : Result) :
    (s.refusal q tag e).sequence = s.sequence := rfl
@[simp] theorem State.refusal_dock (q : RequestKind) (tag : Byte) (e : Result) :
    (s.refusal q tag e).dock = s.dock := rfl
@[simp] theorem State.refusal_lanes (q : RequestKind) (tag : Byte) (e : Result) :
    (s.refusal q tag e).lanes = s.lanes := rfl
@[simp] theorem State.refusal_orders (q : RequestKind) (tag : Byte) (e : Result) :
    (s.refusal q tag e).orders = s.orders := rfl
@[simp] theorem State.refusal_nextNumber (q : RequestKind) (tag : Byte) (e : Result) :
    (s.refusal q tag e).nextNumber = s.nextNumber := rfl
@[simp] theorem State.refusal_waiting (q : RequestKind) (tag : Byte) (e : Result) :
    (s.refusal q tag e).waiting = s.waiting := rfl
@[simp] theorem State.refusal_idle (q : RequestKind) (tag : Byte) (e : Result) :
    (s.refusal q tag e).idle = s.idle := rfl
@[simp] theorem State.refusal_demand (q : RequestKind) (tag : Byte) (e : Result) :
    (s.refusal q tag e).demand = s.demand := rfl
@[simp] theorem State.refusal_vehicles (q : RequestKind) (tag : Byte) (e : Result) :
    (s.refusal q tag e).vehicles = s.vehicles := rfl
@[simp] theorem State.refusal_lineBytes (q : RequestKind) (tag : Byte) (e : Result) :
    (s.refusal q tag e).lineBytes = s.lineBytes := rfl
@[simp] theorem State.refusal_received (q : RequestKind) (tag : Byte) (e : Result) :
    (s.refusal q tag e).received = s.received := rfl
@[simp] theorem State.refusal_outbound (q : RequestKind) (tag : Byte) (e : Result) :
    (s.refusal q tag e).outbound = s.outbound := rfl
@[simp] theorem State.refusal_finishing (q : RequestKind) (tag : Byte) (e : Result) :
    (s.refusal q tag e).finishing = s.finishing := rfl
@[simp] theorem State.refusal_aisles (q : RequestKind) (tag : Byte) (e : Result) :
    (s.refusal q tag e).aisles = s.aisles := rfl
@[simp] theorem State.refusal_stands (q : RequestKind) (tag : Byte) (e : Result) :
    (s.refusal q tag e).stands = s.stands := rfl
@[simp] theorem State.refusal_jobs (q : RequestKind) (tag : Byte) (e : Result) :
    (s.refusal q tag e).jobs = s.jobs := rfl
@[simp] theorem State.refusal_wasteFraction (q : RequestKind) (tag : Byte) (e : Result) :
    (s.refusal q tag e).wasteFraction = s.wasteFraction := rfl
@[simp] theorem State.refusal_saleable (q : RequestKind) (tag : Byte) (e : Result) :
    (s.refusal q tag e).saleable = s.saleable := rfl
@[simp] theorem State.refusal_requests (q : RequestKind) (tag : Byte) (e : Result) :
    (s.refusal q tag e).requests = s.requests := rfl
@[simp] theorem State.refusal_answers (q : RequestKind) (tag : Byte) (e : Result) :
    (s.refusal q tag e).answers = s.answers ++ [⟨q.code, tag, e, []⟩] := rfl
@[simp] theorem State.refusal_overrunMark (q : RequestKind) (tag : Byte) (e : Result) :
    (s.refusal q tag e).overrunMark = s.overrunMark := rfl
@[simp] theorem State.refusal_framingMark (q : RequestKind) (tag : Byte) (e : Result) :
    (s.refusal q tag e).framingMark = s.framingMark := rfl
@[simp] theorem State.refusal_resetPending (q : RequestKind) (tag : Byte) (e : Result) :
    (s.refusal q tag e).resetPending = s.resetPending := rfl
@[simp] theorem State.refusal_period (q : RequestKind) (tag : Byte) (e : Result) :
    (s.refusal q tag e).period = s.period := rfl
@[simp] theorem State.refusal_frameSpoiled (q : RequestKind) (tag : Byte) (e : Result) :
    (s.refusal q tag e).frameSpoiled = s.frameSpoiled := rfl
@[simp] theorem State.refusal_notices (q : RequestKind) (tag : Byte) (e : Result) :
    (s.refusal q tag e).notices = s.notices := rfl
@[simp] theorem State.refusal_pending (q : RequestKind) (tag : Byte) (e : Result) :
    (s.refusal q tag e).pending = s.pending := rfl

/-! ### State.unqueued -/

@[simp] theorem State.unqueued_device (rest : List Request) :
    (s.unqueued rest).device = s.device := rfl
@[simp] theorem State.unqueued_setmem (rest : List Request) :
    (s.unqueued rest).setmem = s.setmem := rfl
@[simp] theorem State.unqueued_working (rest : List Request) :
    (s.unqueued rest).working = s.working := rfl
@[simp] theorem State.unqueued_loaded (rest : List Request) :
    (s.unqueued rest).loaded = s.loaded := rfl
@[simp] theorem State.unqueued_store (rest : List Request) :
    (s.unqueued rest).store = s.store := rfl
@[simp] theorem State.unqueued_hallIncrement (rest : List Request) :
    (s.unqueued rest).hallIncrement = s.hallIncrement := rfl
@[simp] theorem State.unqueued_hallAccumulator (rest : List Request) :
    (s.unqueued rest).hallAccumulator = s.hallAccumulator := rfl
@[simp] theorem State.unqueued_rolls (rest : List Request) :
    (s.unqueued rest).rolls = s.rolls := rfl
@[simp] theorem State.unqueued_sequence (rest : List Request) :
    (s.unqueued rest).sequence = s.sequence := rfl
@[simp] theorem State.unqueued_dock (rest : List Request) :
    (s.unqueued rest).dock = s.dock := rfl
@[simp] theorem State.unqueued_lanes (rest : List Request) :
    (s.unqueued rest).lanes = s.lanes := rfl
@[simp] theorem State.unqueued_orders (rest : List Request) :
    (s.unqueued rest).orders = s.orders := rfl
@[simp] theorem State.unqueued_nextNumber (rest : List Request) :
    (s.unqueued rest).nextNumber = s.nextNumber := rfl
@[simp] theorem State.unqueued_waiting (rest : List Request) :
    (s.unqueued rest).waiting = s.waiting := rfl
@[simp] theorem State.unqueued_idle (rest : List Request) :
    (s.unqueued rest).idle = s.idle := rfl
@[simp] theorem State.unqueued_demand (rest : List Request) :
    (s.unqueued rest).demand = s.demand := rfl
@[simp] theorem State.unqueued_vehicles (rest : List Request) :
    (s.unqueued rest).vehicles = s.vehicles := rfl
@[simp] theorem State.unqueued_lineBytes (rest : List Request) :
    (s.unqueued rest).lineBytes = s.lineBytes := rfl
@[simp] theorem State.unqueued_received (rest : List Request) :
    (s.unqueued rest).received = s.received := rfl
@[simp] theorem State.unqueued_outbound (rest : List Request) :
    (s.unqueued rest).outbound = s.outbound := rfl
@[simp] theorem State.unqueued_finishing (rest : List Request) :
    (s.unqueued rest).finishing = s.finishing := rfl
@[simp] theorem State.unqueued_aisles (rest : List Request) :
    (s.unqueued rest).aisles = s.aisles := rfl
@[simp] theorem State.unqueued_stands (rest : List Request) :
    (s.unqueued rest).stands = s.stands := rfl
@[simp] theorem State.unqueued_jobs (rest : List Request) :
    (s.unqueued rest).jobs = s.jobs := rfl
@[simp] theorem State.unqueued_wasteFraction (rest : List Request) :
    (s.unqueued rest).wasteFraction = s.wasteFraction := rfl
@[simp] theorem State.unqueued_saleable (rest : List Request) :
    (s.unqueued rest).saleable = s.saleable := rfl
@[simp] theorem State.unqueued_requests (rest : List Request) :
    (s.unqueued rest).requests = rest := rfl
@[simp] theorem State.unqueued_answers (rest : List Request) :
    (s.unqueued rest).answers = s.answers := rfl
@[simp] theorem State.unqueued_overrunMark (rest : List Request) :
    (s.unqueued rest).overrunMark = s.overrunMark := rfl
@[simp] theorem State.unqueued_framingMark (rest : List Request) :
    (s.unqueued rest).framingMark = s.framingMark := rfl
@[simp] theorem State.unqueued_resetPending (rest : List Request) :
    (s.unqueued rest).resetPending = s.resetPending := rfl
@[simp] theorem State.unqueued_period (rest : List Request) :
    (s.unqueued rest).period = s.period := rfl
@[simp] theorem State.unqueued_frameSpoiled (rest : List Request) :
    (s.unqueued rest).frameSpoiled = s.frameSpoiled := rfl
@[simp] theorem State.unqueued_notices (rest : List Request) :
    (s.unqueued rest).notices = s.notices := rfl
@[simp] theorem State.unqueued_pending (rest : List Request) :
    (s.unqueued rest).pending = s.pending := rfl

/-! ### State.untaken -/

@[simp] theorem State.untaken_device (rest : List FleetFrame) :
    (s.untaken rest).device = s.device := rfl
@[simp] theorem State.untaken_setmem (rest : List FleetFrame) :
    (s.untaken rest).setmem = s.setmem := rfl
@[simp] theorem State.untaken_working (rest : List FleetFrame) :
    (s.untaken rest).working = s.working := rfl
@[simp] theorem State.untaken_loaded (rest : List FleetFrame) :
    (s.untaken rest).loaded = s.loaded := rfl
@[simp] theorem State.untaken_store (rest : List FleetFrame) :
    (s.untaken rest).store = s.store := rfl
@[simp] theorem State.untaken_hallIncrement (rest : List FleetFrame) :
    (s.untaken rest).hallIncrement = s.hallIncrement := rfl
@[simp] theorem State.untaken_hallAccumulator (rest : List FleetFrame) :
    (s.untaken rest).hallAccumulator = s.hallAccumulator := rfl
@[simp] theorem State.untaken_rolls (rest : List FleetFrame) :
    (s.untaken rest).rolls = s.rolls := rfl
@[simp] theorem State.untaken_sequence (rest : List FleetFrame) :
    (s.untaken rest).sequence = s.sequence := rfl
@[simp] theorem State.untaken_dock (rest : List FleetFrame) :
    (s.untaken rest).dock = s.dock := rfl
@[simp] theorem State.untaken_lanes (rest : List FleetFrame) :
    (s.untaken rest).lanes = s.lanes := rfl
@[simp] theorem State.untaken_orders (rest : List FleetFrame) :
    (s.untaken rest).orders = s.orders := rfl
@[simp] theorem State.untaken_nextNumber (rest : List FleetFrame) :
    (s.untaken rest).nextNumber = s.nextNumber := rfl
@[simp] theorem State.untaken_waiting (rest : List FleetFrame) :
    (s.untaken rest).waiting = s.waiting := rfl
@[simp] theorem State.untaken_idle (rest : List FleetFrame) :
    (s.untaken rest).idle = s.idle := rfl
@[simp] theorem State.untaken_demand (rest : List FleetFrame) :
    (s.untaken rest).demand = s.demand := rfl
@[simp] theorem State.untaken_vehicles (rest : List FleetFrame) :
    (s.untaken rest).vehicles = s.vehicles := rfl
@[simp] theorem State.untaken_lineBytes (rest : List FleetFrame) :
    (s.untaken rest).lineBytes = s.lineBytes := rfl
@[simp] theorem State.untaken_received (rest : List FleetFrame) :
    (s.untaken rest).received = rest := rfl
@[simp] theorem State.untaken_outbound (rest : List FleetFrame) :
    (s.untaken rest).outbound = s.outbound := rfl
@[simp] theorem State.untaken_finishing (rest : List FleetFrame) :
    (s.untaken rest).finishing = s.finishing := rfl
@[simp] theorem State.untaken_aisles (rest : List FleetFrame) :
    (s.untaken rest).aisles = s.aisles := rfl
@[simp] theorem State.untaken_stands (rest : List FleetFrame) :
    (s.untaken rest).stands = s.stands := rfl
@[simp] theorem State.untaken_jobs (rest : List FleetFrame) :
    (s.untaken rest).jobs = s.jobs := rfl
@[simp] theorem State.untaken_wasteFraction (rest : List FleetFrame) :
    (s.untaken rest).wasteFraction = s.wasteFraction := rfl
@[simp] theorem State.untaken_saleable (rest : List FleetFrame) :
    (s.untaken rest).saleable = s.saleable := rfl
@[simp] theorem State.untaken_requests (rest : List FleetFrame) :
    (s.untaken rest).requests = s.requests := rfl
@[simp] theorem State.untaken_answers (rest : List FleetFrame) :
    (s.untaken rest).answers = s.answers := rfl
@[simp] theorem State.untaken_overrunMark (rest : List FleetFrame) :
    (s.untaken rest).overrunMark = s.overrunMark := rfl
@[simp] theorem State.untaken_framingMark (rest : List FleetFrame) :
    (s.untaken rest).framingMark = s.framingMark := rfl
@[simp] theorem State.untaken_resetPending (rest : List FleetFrame) :
    (s.untaken rest).resetPending = s.resetPending := rfl
@[simp] theorem State.untaken_period (rest : List FleetFrame) :
    (s.untaken rest).period = s.period := rfl
@[simp] theorem State.untaken_frameSpoiled (rest : List FleetFrame) :
    (s.untaken rest).frameSpoiled = s.frameSpoiled := rfl
@[simp] theorem State.untaken_notices (rest : List FleetFrame) :
    (s.untaken rest).notices = s.notices := rfl
@[simp] theorem State.untaken_pending (rest : List FleetFrame) :
    (s.untaken rest).pending = s.pending := rfl

end Sys2Proof.Machine
end

