-- ==== Sys2Proof/Laws/Serve.lean ====
section
/-! SUPPORT. What serving a request and taking a report can do (R168, R105), and what stands on the two serial outputs (R166, R101). -/

namespace Sys2Proof.Machine

/-- A served request whose own rule takes it: the buffer's rest, the rule's effect, the OK answer. -/
theorem serve_ok {s t : State} {q : RequestKind} {tag : Byte} {fields out : List Byte} {rest : List Request}
    {body : List Byte → State → Reply} (h : s.Serves q tag fields rest)
    (hlen : fields.length = q.fieldBytes fields) (hb : body fields (s.unqueued rest) = .ok t out) :
    s.serve q body = t.okAnswer q tag out := by
  obtain ⟨⟨hr, ha, hp, ho⟩, hg⟩ := h
  have hc : s.canServe q.queues = true := by
    simp only [State.canServe, Config.answerPlaces, Config.outboundMargin]
    cases hq : q.queues <;> simp_all
  unfold State.serve
  rw [hr]
  simp only [requestKind?_code, hc, and_self, if_true]
  simp only [State.check, hg, hlen, if_true]
  simp only [State.unqueued] at hb
  rw [hb]
  rfl

/-- A served request that its own rule refuses. -/
theorem serve_refused {s : State} {q : RequestKind} {tag : Byte} {fields : List Byte} {rest : List Request}
    {body : List Byte → State → Reply} {e : Result} (h : s.Serves q tag fields rest)
    (hlen : fields.length = q.fieldBytes fields) (hb : body fields (s.unqueued rest) = .refuse e) :
    s.serve q body = (s.unqueued rest).refusal q tag e := by
  obtain ⟨⟨hr, ha, hp, ho⟩, hg⟩ := h
  have hc : s.canServe q.queues = true := by
    simp only [State.canServe, Config.answerPlaces, Config.outboundMargin]
    cases hq : q.queues <;> simp_all
  unfold State.serve
  rw [hr]
  simp only [requestKind?_code, hc, and_self, if_true]
  simp only [State.check, hg, hlen, if_true]
  simp only [State.unqueued] at hb
  rw [hb]
  rfl

/-- A request the device state refuses (R169). -/
theorem serve_gated {s : State} {q : RequestKind} {tag : Byte} {fields : List Byte} {rest : List Request}
    {body : List Byte → State → Reply} {e : Result} (h : s.Heads q tag fields rest)
    (hg : q.gate s.device = some e) : s.serve q body = (s.unqueued rest).refusal q tag e := by
  obtain ⟨hr, ha, hp, ho⟩ := h
  have hc : s.canServe q.queues = true := by
    simp only [State.canServe, Config.answerPlaces, Config.outboundMargin]
    cases hq : q.queues <;> simp_all
  unfold State.serve
  rw [hr]
  simp only [requestKind?_code, hc, and_self, if_true]
  simp only [State.check, hg]
  rfl

/-- A request of a wrong length (R168 check 3). -/
theorem serve_length {s : State} {q : RequestKind} {tag : Byte} {fields : List Byte} {rest : List Request}
    {body : List Byte → State → Reply} (h : s.Serves q tag fields rest)
    (hlen : fields.length ≠ q.fieldBytes fields) :
    s.serve q body = (s.unqueued rest).refusal q tag .badField := by
  obtain ⟨⟨hr, ha, hp, ho⟩, hg⟩ := h
  have hc : s.canServe q.queues = true := by
    simp only [State.canServe, Config.answerPlaces, Config.outboundMargin]
    cases hq : q.queues <;> simp_all
  unfold State.serve
  rw [hr]
  simp only [requestKind?_code, hc, and_self, if_true]
  simp only [State.check, hg, hlen, if_false]
  rfl

/-- Serving changes nothing, or answers the head request: by a refusal of an otherwise unchanged state, or by OK after the rule's effect. -/
theorem serve_cases (s : State) (q : RequestKind) (body : List Byte → State → Reply) :
    s.serve q body = s ∨
    ∃ r rest, s.requests = r :: rest ∧ s.answers.length < 4 ∧
      ((∃ e, s.serve q body = (s.unqueued rest).answer r e []) ∨
        ∃ t out, body r.fields (s.unqueued rest) = .ok t out ∧ q.gate s.device = none ∧
          s.serve q body = t.answer r .ok out) := by
  unfold State.serve
  split
  · exact .inl rfl
  · rename_i r rest hr
    split
    · rename_i hc
      refine .inr ⟨r, rest, hr, ?_, ?_⟩
      · have := hc.2
        simp only [State.canServe, Config.answerPlaces, Bool.and_eq_true] at this
        exact of_decide_eq_true this.1.1
      · simp only [State.check]
        split
        · exact .inl ⟨_, rfl⟩
        · rename_i hg
          split
          · cases hb : body r.fields { s with requests := rest } with
            | refuse e => exact .inl ⟨e, rfl⟩
            | ok t out => exact .inr ⟨t, out, hb, hg, rfl⟩
          · exact .inl ⟨_, rfl⟩
    · exact .inl rfl

/-- A report that may be taken: the frame leaves the buffer, the report is handled, pairing follows. -/
theorem take_some {α : Type} {s : State} {v : VehicleNo} {kind : Byte} {fields : List Byte}
    {rest : List FleetFrame} {want : FleetFrame → Option α} {body : α → VehicleNo → State → State} {x : α}
    (h : s.Takes v kind fields rest) (hw : want ⟨v, kind, fields⟩ = some x) :
    s.take want body = (body x v (s.untaken rest)).pair := by
  obtain ⟨hr, ho⟩ := h
  unfold State.take
  rw [hr]
  simp [hw, State.canTake, Config.outboundMargin, ho, State.untaken]

/-- Taking changes nothing, or handles the head report and pairs. -/
theorem take_cases {α : Type} (s : State) (want : FleetFrame → Option α) (body : α → VehicleNo → State → State) :
    s.take want body = s ∨ ∃ f rest x, s.received = f :: rest ∧ want f = some x ∧ 4 ≤ s.outboundFree ∧
      s.take want body = (body x f.vehicle (s.untaken rest)).pair := by
  unfold State.take
  split
  · exact .inl rfl
  · rename_i f rest hr
    split
    · exact .inl rfl
    · rename_i x hx
      split
      · rename_i hc
        exact .inr ⟨f, rest, x, hr, hx, of_decide_eq_true hc, rfl⟩
      · exact .inl rfl

/-- What a floor reset left to be finished is on the line before anything of the queue (R107). -/
@[simp] theorem State.sending_finishing {s : State} {i : Instruction} (h : s.finishing = some i) :
    s.sending = some i := by simp [State.sending, h]

/-- With nothing to be finished the queue's head is on the line (R101). -/
@[simp] theorem State.sending_head {s : State} (h : s.finishing = none) : s.sending = s.outbound.head? := by
  simp [State.sending, h]

/-- The end of a frame: with one to be finished that one is past and the queue stays; else the queue's head leaves and pairing is tried (R101, R107). -/
theorem instructionSent_cases (s : State) :
    (∃ i, s.finishing = some i ∧ execInstructionSent s = .next { s with finishing := none }) ∨
    (s.finishing = none ∧ execInstructionSent s = .next (State.pair { s with outbound := s.outbound.tail })) := by
  unfold execInstructionSent
  split
  · exact .inl ⟨_, ‹_›, rfl⟩
  · exact .inr ⟨‹_›, rfl⟩

/-- Every clocked byte of a period gets a byte back (R165). -/
theorem State.miso_length {s : State} {p : Period} (h : s.period = some p) (clocked : Nat) :
    (s.miso clocked).length = clocked := by simp [State.miso, h]

/-- Inside the frame SPI_MISO carries the frame (R166). -/
theorem State.miso_frame {s : State} {p : Period} (h : s.period = some p) {clocked i : Nat} (hi : i < clocked)
    (hf : i < p.frame.length) : (s.miso clocked)[i]? = p.frame[i]? := by
  simp only [State.miso, h]
  rw [List.getElem?_take_of_lt hi, List.getElem?_append_left hf]

/-- Past the frame SPI_MISO carries 00h (R166). -/
theorem State.miso_past {s : State} {p : Period} (h : s.period = some p) {clocked i : Nat} (hi : i < clocked)
    (hf : p.frame.length ≤ i) : (s.miso clocked)[i]? = some 0 := by
  simp only [State.miso, h]
  rw [List.getElem?_take_of_lt hi, List.getElem?_append_right hf, List.getElem?_replicate_of_lt (by omega)]

end Sys2Proof.Machine
end

