-- ==== Sys2Proof/Laws/Settings.lean ====
section
/-! SUPPORT. The settings image and the writes of a store: their lengths, and where each write stands. -/

namespace Sys2Proof.Machine

/-! ## The image -/

@[simp] theorem GradeEntry.bytes_length (g : GradeEntry) : g.bytes.length = 5 := by simp [GradeEntry.bytes]

@[simp] theorem LaneSetting.bytes_length (l : LaneSetting) : l.bytes.length = 3 := rfl

@[simp] theorem StandSetting.bytes_length (n : StandSetting) : n.bytes.length = 12 := by
  simp [StandSetting.bytes]

@[simp] theorem FleetSetting.bytes_length (f : FleetSetting) : f.bytes.length = 9 := by
  simp [FleetSetting.bytes]

theorem length_flatMap_const {α : Type} (l : List α) (f : α → List Byte) (k : Nat)
    (h : ∀ x, (f x).length = k) : (l.flatMap f).length = l.length * k := by
  induction l with
  | nil => simp
  | cons x l ih => simp [ih, h, Nat.succ_mul, Nat.add_comm]

@[simp] theorem Settings.image_length (t : Settings) : t.image.length = 285 := by
  simp only [Settings.image, List.length_append,
    length_flatMap_const _ _ _ GradeEntry.bytes_length, length_flatMap_const _ _ _ LaneSetting.bytes_length,
    length_flatMap_const _ _ _ StandSetting.bytes_length, FleetSetting.bytes_length, Vector.length_toList]
  rfl

/-! ## The writes -/

@[simp] theorem pageWrites_length (n address : Nat) (bytes : List Byte) :
    (pageWrites n address bytes).length = n := by
  induction n generalizing address bytes with
  | zero => rfl
  | succ n ih => simp [pageWrites, ih]

/-- Page write `i` takes the 16 bytes from byte `16 i` on, or those that are left, to their place. -/
theorem pageWrites_getElem? (n address : Nat) (bytes : List Byte) {i : Nat} (h : i < n) :
    (pageWrites n address bytes)[i]? = some ⟨address + 16 * i, (bytes.drop (16 * i)).take 16⟩ := by
  induction n generalizing address bytes i with
  | zero => omega
  | succ n ih =>
    cases i with
    | zero => simp [pageWrites]
    | succ i =>
      simp only [pageWrites, List.getElem?_cons_succ, ih _ _ (Nat.lt_of_succ_lt_succ h), List.drop_drop]
      congr 2
      · omega
      · congr 2; omega

/-- The page writes write every byte they are given, in order. -/
theorem pageWrites_data (n address : Nat) (bytes : List Byte) (h : bytes.length ≤ 16 * n) :
    (pageWrites n address bytes).flatMap BusWrite.data = bytes := by
  induction n generalizing address bytes with
  | zero => simp [pageWrites, List.eq_nil_of_length_eq_zero (Nat.le_zero.mp h)]
  | succ n ih =>
    simp only [pageWrites, List.flatMap_cons]
    rw [ih _ _ (by simp; omega), List.take_append_drop]

@[simp] theorem Settings.storeWrites_length (t : Settings) : t.storeWrites.length = 19 := by
  simp [Settings.storeWrites]

theorem State.storeWrites_of_none {s : State} (h : s.store = none) : s.storeWrites = [] := by
  simp [State.storeWrites, h]

theorem State.storeWrites_of_some {s : State} {t : Settings} (h : s.store = some t) :
    s.storeWrites = t.storeWrites := by
  simp [State.storeWrites, h]

end Sys2Proof.Machine
end

