-- ==== Sys2Proof/Laws/Tables.lean ====
section
/-! SUPPORT. The sparse tables, the notice list and the small searches: what each operation reads back and keeps. -/

namespace Sys2Proof.Machine

variable {α β : Type}

/-! ## Reading a table -/

@[simp] theorem tableGet_tableSet_self (t : List (Nat × α)) (k : Nat) (x : α) :
    tableGet (tableSet t k x) k = some x := by
  induction t with
  | nil => simp [tableSet, tableGet]
  | cons p t ih =>
    obtain ⟨j, y⟩ := p
    by_cases h1 : k < j
    · simp [tableSet, h1, tableGet]
    · by_cases h2 : k = j
      · simp [tableSet, h2, tableGet]
      · simp [tableSet, h1, h2, tableGet, Ne.symm h2, ih]

theorem tableGet_tableSet_other (t : List (Nat × α)) {k j : Nat} (x : α) (h : j ≠ k) :
    tableGet (tableSet t k x) j = tableGet t j := by
  induction t with
  | nil => simp [tableSet, tableGet, Ne.symm h]
  | cons p t ih =>
    obtain ⟨i, y⟩ := p
    by_cases h1 : k < i
    · simp [tableSet, h1, tableGet, Ne.symm h]
    · by_cases h2 : k = i
      · subst h2
        simp [tableSet, tableGet, Ne.symm h]
      · simp [tableSet, h1, h2, tableGet, ih]

@[simp] theorem tableGet_tableErase_self (t : List (Nat × α)) (k : Nat) : tableGet (tableErase t k) k = none := by
  induction t with
  | nil => rfl
  | cons p t ih =>
    obtain ⟨j, y⟩ := p
    by_cases h : j = k
    · simpa [tableErase, h] using ih
    · simpa [tableErase, h, tableGet] using ih

theorem tableGet_tableErase_other (t : List (Nat × α)) {k j : Nat} (h : j ≠ k) :
    tableGet (tableErase t k) j = tableGet t j := by
  induction t with
  | nil => rfl
  | cons p t ih =>
    obtain ⟨i, y⟩ := p
    by_cases hi : i = k
    · subst hi
      simpa [tableErase, tableGet, Ne.symm h] using ih
    · have he : tableErase ((i, y) :: t) k = (i, y) :: tableErase t k := by simp [tableErase, hi]
      simp only [he, tableGet, ih]

@[simp] theorem tableGet_tableModify_self (t : List (Nat × α)) (k : Nat) (f : α → α) :
    tableGet (tableModify t k f) k = (tableGet t k).map f := by
  induction t with
  | nil => rfl
  | cons p t ih =>
    obtain ⟨j, y⟩ := p
    by_cases h : j = k
    · simp [tableModify, h, tableGet]
    · simpa [tableModify, h, tableGet] using ih

theorem tableGet_tableModify_other (t : List (Nat × α)) {k j : Nat} (f : α → α) (h : j ≠ k) :
    tableGet (tableModify t k f) j = tableGet t j := by
  induction t with
  | nil => rfl
  | cons p t ih =>
    obtain ⟨i, y⟩ := p
    by_cases hi : i = k
    · subst hi
      simpa [tableModify, tableGet, Ne.symm h] using ih
    · simp only [tableModify, List.map_cons, if_neg hi, tableGet] at ih ⊢
      rw [ih]

/-- Two changes of one entry are one change. -/
theorem tableModify_tableModify (t : List (Nat × α)) (k : Nat) (f g : α → α) :
    tableModify (tableModify t k f) k g = tableModify t k fun x => g (f x) := by
  simp only [tableModify, List.map_map]
  apply List.map_congr_left
  intro p _
  by_cases h : p.1 = k <;> simp [h]

/-- Changing an erased entry changes nothing. -/
theorem tableModify_tableErase (t : List (Nat × α)) (k : Nat) (f : α → α) :
    tableModify (tableErase t k) k f = tableErase t k := by
  simp only [tableModify, tableErase]
  conv => rhs; rw [← List.map_id (List.filter _ _)]
  apply List.map_congr_left
  intro p hp
  simp only [List.mem_filter, bne_iff_ne, ne_eq] at hp
  simp [hp.2]

theorem mem_of_tableGet {t : List (Nat × α)} {k : Nat} {x : α} (h : tableGet t k = some x) : (k, x) ∈ t := by
  induction t with
  | nil => simp [tableGet] at h
  | cons p t ih =>
    obtain ⟨j, y⟩ := p
    by_cases hj : j = k
    · simp only [tableGet, hj, if_true, Option.some.injEq] at h
      simp [hj, h]
    · simp only [tableGet, hj, if_false] at h
      exact List.mem_cons_of_mem _ (ih h)

/-- What is in a written table: the new entry, or an old one of another key. -/
theorem mem_tableSet {t : List (Nat × α)} {k : Nat} {x : α} {p : Nat × α} (h : p ∈ tableSet t k x) :
    p = (k, x) ∨ p ∈ t := by
  induction t with
  | nil => simpa [tableSet] using h
  | cons q t ih =>
    obtain ⟨j, y⟩ := q
    by_cases h1 : k < j
    · simpa [tableSet, h1] using h
    · by_cases h2 : k = j
      · simp only [tableSet, h2, if_false, if_true, List.mem_cons, lt_irrefl] at h
        rcases h with h | h
        · exact .inl (by rw [h, h2])
        · exact .inr (List.mem_cons_of_mem _ h)
      · simp only [tableSet, h1, h2, if_false, List.mem_cons] at h
        rcases h with h | h
        · exact .inr (by simp [h])
        · rcases ih h with h | h
          · exact .inl h
          · exact .inr (List.mem_cons_of_mem _ h)

theorem mem_tableErase {t : List (Nat × α)} {k : Nat} {p : Nat × α} :
    p ∈ tableErase t k ↔ p ∈ t ∧ p.1 ≠ k := by
  simp [tableErase]

theorem mem_tableModify {t : List (Nat × α)} {k : Nat} {f : α → α} {p : Nat × α} (h : p ∈ tableModify t k f) :
    p ∈ t ∨ ∃ x, (k, x) ∈ t ∧ p = (k, f x) := by
  simp only [tableModify, List.mem_map] at h
  obtain ⟨q, hq, rfl⟩ := h
  by_cases hk : q.1 = k
  · exact .inr ⟨q.2, by rw [← hk]; exact hq, by simp [hk]⟩
  · exact .inl (by simpa [hk] using hq)

/-! ## The canonical form -/

/-- The keys of a table rise strictly. -/
theorem tableWf_iff (size : Nat) (t : List (Nat × α)) :
    tableWf size t = true ↔ (t.map Prod.fst).Pairwise (· < ·) ∧ ∀ p ∈ t, p.1 < size := by
  induction t with
  | nil => simp [tableWf]
  | cons p t ih =>
    obtain ⟨j, x⟩ := p
    cases t with
    | nil => simp [tableWf]
    | cons q t =>
      obtain ⟨k, y⟩ := q
      simp only [tableWf, Bool.and_eq_true, decide_eq_true_eq, ih]
      simp only [List.map_cons, List.pairwise_cons, List.mem_cons, forall_eq_or_imp]
      constructor
      · rintro ⟨hjk, ⟨hk, ht⟩, hks, hs⟩
        exact ⟨⟨⟨hjk, fun a ha => hjk.trans (hk a ha)⟩, hk, ht⟩, hjk.trans hks, hks, hs⟩
      · rintro ⟨⟨⟨hjk, _⟩, hk, ht⟩, _, hks, hs⟩
        exact ⟨hjk, ⟨hk, ht⟩, hks, hs⟩

theorem tableWf_tableErase {size : Nat} {t : List (Nat × α)} (k : Nat) (h : tableWf size t = true) :
    tableWf size (tableErase t k) = true := by
  rw [tableWf_iff] at h ⊢
  have hs : (tableErase t k).Sublist t := List.filter_sublist
  exact ⟨h.1.sublist (hs.map _), fun p hp => h.2 p (hs.subset hp)⟩

theorem tableModify_keys (t : List (Nat × α)) (k : Nat) (f : α → α) :
    (tableModify t k f).map Prod.fst = t.map Prod.fst := by
  simp only [tableModify, List.map_map]
  apply List.map_congr_left
  intro p _
  by_cases h : p.1 = k <;> simp [h]

theorem tableWf_tableModify {size : Nat} {t : List (Nat × α)} (k : Nat) (f : α → α)
    (h : tableWf size t = true) : tableWf size (tableModify t k f) = true := by
  rw [tableWf_iff] at h ⊢
  rw [tableModify_keys]
  refine ⟨h.1, fun p hp => ?_⟩
  rcases mem_tableModify hp with hp | ⟨x, hx, rfl⟩
  · exact h.2 p hp
  · exact h.2 (k, x) hx

theorem tableWf_tableSet {size : Nat} {t : List (Nat × α)} {k : Nat} (x : α) (h : tableWf size t = true)
    (hk : k < size) : tableWf size (tableSet t k x) = true := by
  rw [tableWf_iff] at h ⊢
  refine ⟨?_, fun p hp => ?_⟩
  · obtain ⟨hp, -⟩ := h
    induction t with
    | nil => simp [tableSet]
    | cons q t ih =>
      obtain ⟨j, y⟩ := q
      simp only [List.map_cons, List.pairwise_cons] at hp
      by_cases h1 : k < j
      · rw [tableSet, if_pos h1]
        simp only [List.map_cons, List.pairwise_cons, List.mem_cons, forall_eq_or_imp]
        exact ⟨⟨h1, fun a ha => h1.trans (hp.1 a ha)⟩, hp.1, hp.2⟩
      · by_cases h2 : k = j
        · simp only [tableSet, if_false, h2, lt_irrefl, if_true, List.map_cons, List.pairwise_cons]
          exact hp
        · simp only [tableSet, h1, h2, if_false, List.map_cons, List.pairwise_cons]
          refine ⟨fun a ha => ?_, ih hp.2⟩
          simp only [List.mem_map] at ha
          obtain ⟨p, hpm, rfl⟩ := ha
          rcases mem_tableSet hpm with rfl | hpm
          · simp only; omega
          · exact hp.1 _ (List.mem_map_of_mem hpm)
  · rcases mem_tableSet hp with rfl | hp
    · exact hk
    · exact h.2 p hp

/-- In a table of rising keys a listed pair is what the table reads. -/
theorem tableGet_of_mem {size : Nat} {t : List (Nat × α)} {k : Nat} {x : α} (h : tableWf size t = true)
    (hm : (k, x) ∈ t) : tableGet t k = some x := by
  rw [tableWf_iff] at h
  obtain ⟨hp, -⟩ := h
  induction t with
  | nil => simp at hm
  | cons q t ih =>
    obtain ⟨j, y⟩ := q
    simp only [List.map_cons, List.pairwise_cons] at hp
    rcases List.mem_cons.1 hm with he | hm
    · simp only [Prod.mk.injEq] at he
      simp [tableGet, he.1, he.2]
    · have hlt : j < k := hp.1 k (List.mem_map_of_mem hm)
      simp [tableGet, Nat.ne_of_lt hlt, ih hm hp.2]

/-- The lowest key from `i` on that is not listed. -/
theorem tableFree_spec {size : Nat} {t : List (Nat × α)} (i : Nat) (h : tableWf size t = true)
    (hi : ∀ p ∈ t, i ≤ p.1) :
    i ≤ tableFree t i ∧ tableGet t (tableFree t i) = none ∧
      ∀ j, i ≤ j → j < tableFree t i → tableGet t j ≠ none := by
  induction t generalizing i with
  | nil => exact ⟨le_refl _, rfl, fun j h1 h2 => by simp [tableFree] at h2; omega⟩
  | cons q t ih =>
    obtain ⟨k, y⟩ := q
    have hw := h
    rw [tableWf_iff] at hw
    simp only [List.map_cons, List.pairwise_cons, List.mem_cons, forall_eq_or_imp] at hw
    have ht : tableWf size t = true := (tableWf_iff size t).2 ⟨hw.1.2, hw.2.2⟩
    have hik : i ≤ k := hi _ (List.mem_cons_self ..)
    by_cases hk : k = i
    · subst hk
      obtain ⟨h1, h2, h3⟩ := ih (k + 1) ht fun p hp => hw.1.1 p.1 (List.mem_map_of_mem hp)
      simp only [tableFree, if_true]
      refine ⟨by omega, ?_, fun j hj1 hj2 => ?_⟩
      · simp only [tableGet]
        rw [if_neg (by omega), h2]
      · simp only [tableGet]
        by_cases hj : k = j
        · simp [hj]
        · rw [if_neg hj]
          exact h3 j (by omega) hj2
    · simp only [tableFree, if_neg hk]
      refine ⟨le_refl _, ?_, fun j h1 h2 => by omega⟩
      simp only [tableGet, if_neg hk]
      cases hg : tableGet t i with
      | none => rfl
      | some x =>
        have := hw.1.1 i (List.mem_map_of_mem (mem_of_tableGet hg))
        omega

/-! ## Fixed tables -/

@[simp] theorem getElem_vmap {n : Nat} (f : α → β) (v : Vector α n) (i : Nat) (h : i < n) :
    (vmap f v)[i] = f v[i] := by
  simp [vmap]

/-! ## The notice list -/

theorem mem_postInto_self (es : List Notice) (key : NoticeKey) (detail : NoticeDetail) :
    ∃ e ∈ postInto es key detail, e.key = key ∧ e.detail = detail := by
  induction es with
  | nil => exact ⟨_, List.mem_singleton.2 rfl, rfl, rfl⟩
  | cons e es ih =>
    by_cases h : e.key = key
    · refine ⟨⟨e.key, satAdd Config.max8 e.count 1, detail⟩, ?_, h, rfl⟩
      simp only [postInto, h, if_true]
      exact List.mem_cons_self ..
    · obtain ⟨x, hx, hk⟩ := ih
      exact ⟨x, by simp only [postInto, h, if_false]; exact List.mem_cons_of_mem _ hx, hk⟩

/-- A posting keeps every entry of another key. -/
theorem mem_postInto_of_mem {es : List Notice} {key : NoticeKey} {detail : NoticeDetail} {x : Notice}
    (h : x ∈ es) (hk : x.key ≠ key) : x ∈ postInto es key detail := by
  induction es with
  | nil => simp at h
  | cons e es ih =>
    by_cases he : e.key = key
    · simp only [postInto, he, if_true]
      rcases List.mem_cons.1 h with rfl | h
      · exact absurd he hk
      · exact List.mem_cons_of_mem _ h
    · simp only [postInto, he, if_false]
      rcases List.mem_cons.1 h with rfl | h
      · exact List.mem_cons_self ..
      · exact List.mem_cons_of_mem _ (ih h)

/-- What a posting leaves in the list: an entry of the key with the detail, or an entry that was there. -/
theorem mem_postInto {es : List Notice} {key : NoticeKey} {detail : NoticeDetail} {x : Notice}
    (h : x ∈ postInto es key detail) : x ∈ es ∨ (x.key = key ∧ x.detail = detail) := by
  induction es with
  | nil => simp only [postInto, List.mem_singleton] at h; exact .inr (by simp [h])
  | cons e es ih =>
    by_cases he : e.key = key
    · simp only [postInto, he, if_true, List.mem_cons] at h
      rcases h with rfl | h
      · exact .inr ⟨rfl, rfl⟩
      · exact .inl (List.mem_cons_of_mem _ h)
    · simp only [postInto, he, if_false, List.mem_cons] at h
      rcases h with rfl | h
      · exact .inl (List.mem_cons_self ..)
      · rcases ih h with h | h
        · exact .inl (List.mem_cons_of_mem _ h)
        · exact .inr h

/-- A posting adds its key at the back unless it is there. -/
theorem postInto_keys (es : List Notice) (key : NoticeKey) (detail : NoticeDetail) :
    (postInto es key detail).map Notice.key =
      if key ∈ es.map Notice.key then es.map Notice.key else es.map Notice.key ++ [key] := by
  induction es with
  | nil => simp [postInto]
  | cons e es ih =>
    by_cases he : e.key = key
    · simp [postInto, he]
    · simp only [postInto, he, if_false, List.map_cons, ih, List.mem_cons, Ne.symm he, false_or]
      split <;> simp

/-- R172: no two entries have the same key. -/
theorem postInto_keys_nodup {es : List Notice} (key : NoticeKey) (detail : NoticeDetail)
    (h : (es.map Notice.key).Nodup) : ((postInto es key detail).map Notice.key).Nodup := by
  rw [postInto_keys]
  split
  · exact h
  · rename_i hk
    exact List.nodup_append.2 ⟨h, by simp, by rintro a ha b hb rfl; simp at hb; exact hk (hb ▸ ha)⟩

/-- R172: counts are 1 to 255. -/
theorem postInto_counts {es : List Notice} (key : NoticeKey) (detail : NoticeDetail)
    (h : ∀ e ∈ es, 1 ≤ e.count ∧ e.count ≤ 255) :
    ∀ e ∈ postInto es key detail, 1 ≤ e.count ∧ e.count ≤ 255 := by
  induction es with
  | nil => simp [postInto]
  | cons e es ih =>
    simp only [List.mem_cons, forall_eq_or_imp] at h
    by_cases he : e.key = key
    · simp only [postInto, he, if_true, List.mem_cons, forall_eq_or_imp]
      exact ⟨by simp only [satAdd, Config.max8]; omega, h.2⟩
    · simp only [postInto, he, if_false, List.mem_cons, forall_eq_or_imp]
      exact ⟨h.1, ih h.2⟩

/-! ## Searches -/

/-- The smallest value, the first of equals. -/
theorem leastOf_spec (value : α → Nat) (l : List α) :
    (leastOf value l = none ↔ l = []) ∧
      ∀ x, leastOf value l = some x → x ∈ l ∧ ∀ y ∈ l, value x ≤ value y := by
  induction l with
  | nil => simp [leastOf]
  | cons a l ih =>
    obtain ⟨h1, h2⟩ := ih
    cases hl : leastOf value l with
    | none =>
      have := h1.1 hl
      subst this
      simp [leastOf]
    | some b =>
      obtain ⟨hb, hle⟩ := h2 b hl
      by_cases hlt : value b < value a
      · simp only [leastOf, hl, hlt, if_true]
        refine ⟨by simp, fun x hx => ?_⟩
        simp only [Option.some.injEq] at hx
        subst hx
        exact ⟨List.mem_cons_of_mem _ hb, by
          simp only [List.mem_cons, forall_eq_or_imp]; exact ⟨le_of_lt hlt, hle⟩⟩
      · simp only [leastOf, hl, hlt, if_false]
        refine ⟨by simp, fun x hx => ?_⟩
        simp only [Option.some.injEq] at hx
        subst hx
        refine ⟨List.mem_cons_self .., ?_⟩
        simp only [List.mem_cons, forall_eq_or_imp]
        exact ⟨le_refl _, fun y hy => (not_lt.1 hlt).trans (hle y hy)⟩

/-- A search through the indexes below `n` finds the lowest that meets a test. -/
theorem find?_finRange_eq_some {n : Nat} {p : Fin n → Bool} {k : Fin n} :
    (List.finRange n).find? p = some k ↔ p k = true ∧ ∀ j, j < k → p j = false := by
  rw [List.find?_eq_some_iff_getElem]
  constructor
  · rintro ⟨hp, i, hi, hk, hlt⟩
    refine ⟨hp, fun j hj => ?_⟩
    simp only [List.getElem_finRange] at hk
    have hik : i = k.val := by rw [← hk]; rfl
    have := hlt j.val (by rw [hik]; exact hj)
    simpa using this
  · rintro ⟨hp, hlt⟩
    refine ⟨hp, k.val, by simp, by simp, fun j hj => ?_⟩
    have := hlt ⟨j, hj.trans k.isLt⟩ hj
    simpa using this

theorem find?_finRange_eq_none {n : Nat} {p : Fin n → Bool} :
    (List.finRange n).find? p = none ↔ ∀ k, p k = false := by
  simp [List.find?_eq_none]

end Sys2Proof.Machine
end

