-- ==== Sys2Proof/WellFormed.lean ====
section
/-! DEFINITION. The commands a sender may give: the operands no type already bounds. -/

namespace Sys2Proof

/-- A read of the settings memory gives the 285 bytes of the image (R189); FL_RXD brings at least one byte (R103). Every other operand is bounded by its type. -/
def Instr.wellFormed : Instr → Bool
  | .settingsLoad (.image bytes) => bytes.length == Config.imageBytes
  | .fleetFrame bytes => !bytes.isEmpty
  | _ => true

end Sys2Proof
end

