-- ==== Sys2Proof/Tests/Slice0.lean ====
section
/-! SUPPORT. The model's own tests: the well-formedness smoke test, the spec's worked numbers, single commands on small states, and for every statement with hypotheses a concrete state that meets them, clause by clause. -/

open Sys2Proof Sys2Proof.Machine

namespace Sys2Proof.Tests

/-! ## A small press hall -/

/-- Grade 3 is 45 g at 70 µm; lanes 8 and 9 stand in aisles 2 and 4; stand 5 counts copies, stand 2 has a measuring roller. -/
def hallSettings : Settings where
  grades := (Vector.replicate 16 ⟨false, 0, 0⟩).set 3 ⟨true, 45, 70⟩
  lanes := ((Vector.replicate 32 ⟨false, 0, 0⟩).set 8 ⟨true, 2, 10⟩).set 9 ⟨true, 4, 10⟩
  stands := ((Vector.replicate 8 ⟨false, .copy, 1, 0, 0, 1, 0, 0⟩).set 5
    ⟨true, .copy, 1, 1200, 150, 40, 30, 100⟩).set 2 ⟨true, .roller, 400, 0, 0, 10, 0, 0⟩
  fleet := ⟨4, 60, 30, 268⟩

/-- The hall in READY: no rolls, no job, every vehicle OFFLINE. -/
def hall : State :=
  { State.reset with
    device := .ready, setmem := true, working := hallSettings, loaded := hallSettings
    stands := ((Vector.replicate 8 Stand.off).set 5
      { Stand.off with state := .empty, callUpMark := 1200, spliceMark := 150 }).set 2
      { Stand.off with state := .empty } }

/-- A roll of grade 3, 1400 mm wide, 11,107 m, on the dock. -/
def reel : Roll :=
  { tag := 5230114006, grade := 3, width := 1400, core := 100, diameter := 1000, weight := 700
    registered := 11107, remaining := 11107, overrun := 0, sequence := 4, state := .docked
    location := .dock, claim := none, hold := false, damaged := false, discrepancy := false
    partRoll := false }

/-- A second roll of the same paper. -/
def reel' : Roll := { reel with tag := 5230114007, sequence := 5 }

/-- What stand 5 runs. -/
def paper : PaperKind := ⟨3, 1400⟩

/-- A job for stand 5 alone, ACTIVE and SALEABLE, cutoff 578 mm. -/
def edition : Job :=
  { Job.freed with
    state := .active, number := 1201, cutoff := 578, phase := .saleable
    plan := (Vector.replicate 8 none).set 5 (some paper) }

/-- A request alone in the request buffer. -/
def ask (s : State) (q : RequestKind) (fields : List Byte) : State :=
  { s with requests := [⟨q.code, 7, fields⟩] }

/-- A report alone in the receive buffer. -/
def hear (s : State) (v : VehicleNo) (kind : Byte) (fields : List Byte) : State :=
  { s with received := [⟨v, kind, fields⟩] }

/-- The state after a command. -/
def after (c : Instr) (s : State) : State :=
  match exec c s with
  | .next t => t
  | _ => s

/-- The answer a command appended. -/
def answerOf (c : Instr) (s : State) : Option Answer := (after c s).answers.getLast?

/-- The hall with the roll on the dock. -/
def docked : State := { hall with rolls := [(0, reel)], dock := [0], sequence := 5 }

/-- The hall with the roll in a lane, its front and only roll. -/
def stored (l : LaneNo) : State :=
  { hall with
    rolls := [(0, { reel with state := .stored, location := .lane l })]
    lanes := hall.lanes.set l ⟨some paper, [0], 0⟩, sequence := 5 }

/-- Stand 5 runs roll 0 from arm A for the ACTIVE job, in a state, with a remaining length; arm B has a status and, when asked, roll 1. -/
def press (st : StandState) (remaining : Nat) (status : ArmStatus) (standby : Bool) : State :=
  { hall with
    rolls := (0, { reel with state := .running, location := .arm 5 .A, remaining := remaining }) ::
      (if standby then [(1, { reel' with state := .standby, location := .arm 5 .B })] else [])
    jobs := hall.jobs.set 0 edition
    stands := hall.stands.set 5
      { hall.stands[5] with
        state := st, running := some .A, armA := ⟨.running, some 0, none⟩, window := 40
        armB := ⟨status, if standby then some 1 else none, none⟩ } }

/-- An order of roll 0 in slot 0 with number 1. -/
def order (kind : OrderKind) (st : OrderState) (source dest : Place) : Order :=
  { number := 1, kind := kind, origin := .request, roll := 0, rollTag := 5230114006, source := source
    dest := dest, vehicle := if st = .waiting then none else some 1, state := st, stalled := false
    late := false, deadline := if st = .waiting then .none else .running 60 }

/-- A state with that order in slot 0, and vehicle 1 on it in a state, with roll 0 or without. -/
def onOrder (s : State) (o : Order) (vs : VehicleState) (laden : Bool) : State :=
  { s with
    rolls := tableModify s.rolls 0 fun r =>
      { r with claim := some 0
               state := if laden then .carried else r.state
               location := if laden then .vehicle 1 else r.location }
    orders := s.orders.set 0 (some o), nextNumber := 2
    vehicles := s.vehicles.set 1 ⟨vs, some 0, if laden then some 0 else none, none, none, 0⟩ }

/-- A state with vehicle 1 in a state, without an order, with roll 0 or without. -/
def withVehicle (s : State) (vs : VehicleState) (laden : Bool) : State :=
  { s with
    rolls := tableModify s.rolls 0 fun r =>
      if laden then { r with state := .carried, location := .vehicle 1 } else r
    dock := if laden then [] else s.dock
    vehicles := s.vehicles.set 1 ⟨vs, none, if laden then some 0 else none, none, none, 0⟩
    idle := if vs = .idle ∧ laden = false then [1] else [] }

/-- A state in which an aisle has a record. -/
def withAisle (s : State) (g : AisleNo) (a : Aisle) : State := { s with aisles := s.aisles.set g a }

/-- Every slot of the order table taken. -/
def fullOrders (s : State) : State :=
  { s with orders := Vector.replicate 32 (some (order .remove .done .dock .exitBay)) }

/-- Vehicle 2 on order 2 in slot 1, an order of roll 1 of a kind and a class with it, in a state, with a wait. -/
def second (s : State) (kind : OrderKind) (source dest : Place) (vs : VehicleState) (w : Option Wait) : State :=
  { s with
    orders := s.orders.set 1 (some { order kind .assigned source dest with
      number := 2, roll := 1, rollTag := 5230114007, vehicle := some 2 })
    vehicles := s.vehicles.set 2 ⟨vs, some 1, none, w, none, 0⟩ }

/-! ## The well-formedness smoke test and the table's words -/

/-- R189, R103: an image one byte short or long and an empty arrival on the line are refused; a whole image and a byte are not. -/
theorem test_wellFormed_refuses_ill_formed :
    (Instr.settingsLoad (.image (List.replicate 284 0))).wellFormed = false ∧
    (Instr.settingsLoad (.image (List.replicate 286 0))).wellFormed = false ∧
    (Instr.fleetFrame []).wellFormed = false ∧
    (Instr.settingsLoad (.image (List.replicate 285 0))).wellFormed = true ∧
    (Instr.settingsLoad .noAck).wellFormed = true ∧ (Instr.fleetFrame [0x7E]).wellFormed = true ∧
    (Instr.copyEvent true).wellFormed = true := by
  simp only [Instr.wellFormed, Config.imageBytes, List.length_replicate]
  decide

/-- The table gives no row bits: no word spells a command. -/
theorem test_no_word_spells_a_command :
    decodeTableWord 8 0 = none ∧ decodeTableWord 16 0xFFFF = none ∧
    State.reset.withFetchWord 8 1 = State.reset := ⟨rfl, rfl, rfl⟩

/-! ## The spec's worked numbers -/

/-- 01_paper_arithmetic, worked case: registered length, and R3's extremes. -/
theorem test_registered_length :
    registeredLength 1250 100 70 = 17419 ∧ registeredLength 70 50 400 = 4 ∧
    registeredLength 1600 50 40 = 50216 ∧ registeredLength 400 100 40 = 2945 := by decide

/-- 01_paper_arithmetic, worked case: cross-check, with the clamp of R5 and the boundary of R6. -/
theorem test_cross_check :
    weightLength 1097 45 1400 = 17412 ∧ weightLength 900 45 1400 = 14285 ∧ weightLength 4000 20 300 = 65535 ∧
    discrepant 17419 17412 = false ∧ discrepant 17419 14285 = true ∧
    discrepant 17419 (17419 - 2177) = false ∧ discrepant 17419 (17419 - 2178) = true ∧
    discrepant 17419 (17419 + 2178) = true ∧ discrepant 2945 65535 = true := by decide

/-- 01_paper_arithmetic, worked case: copies to splice; R11's zero cases and its largest value. -/
theorem test_copies_to_splice :
    copiesToSplice 2000 150 312 578 = 3201 ∧ copiesToSplice 150 150 0 578 = 0 ∧ copiesToSplice 2000 0 0 578 = 0 ∧
    copiesToSplice 65535 1 0 1 = 65534000 := by decide

/-- Stand 5 as in the worked case: 2,000 m left on its roll, splice mark 150, no call-up mark. -/
def stepping (fraction : Nat) : State :=
  let s := press .loaded 2000 .ready true
  { s with stands := s.stands.set 5 { s.stands[5] with callUpMark := 0, fraction := fraction } }

/-- 01_paper_arithmetic, worked case: stepping by copies, copies 1, 2 and 4. -/
theorem test_copy_steps_the_stand :
    (after (.copyEvent false) (stepping 0)).stands[5].fraction = 578 ∧
    ((after (.copyEvent false) (stepping 0)).roll? 0).map Roll.remaining = some 2000 ∧
    (after (.copyEvent false) (stepping 578)).stands[5].fraction = 156 ∧
    ((after (.copyEvent false) (stepping 578)).roll? 0).map Roll.remaining = some 1999 ∧
    (after (.copyEvent false) (stepping 578)).jobs[0].paper = 1 ∧
    (after (.copyEvent false) (stepping 734)).stands[5].fraction = 312 := by decide

/-- 08_jobs_and_spoilage_counts, worked example: copy 5 is a reject in SALEABLE, copy 4 is good. -/
theorem test_copy_counts :
    (after (.copyEvent true) (stepping 0)).jobs[0].reject = 1 ∧
    (after (.copyEvent true) (stepping 0)).jobs[0].startupReject = 0 ∧
    (after (.copyEvent true) (stepping 0)).wasteFraction = 578 ∧
    (after (.copyEvent false) (stepping 0)).jobs[0].good = 1 ∧
    (after (.copyEvent false) (stepping 0)).wasteFraction = 0 := by decide

/-! ## States that meet the hypotheses of the statements: the machine and the port -/

/-- A hall at work: a READY standby, an answer, a notice, and a copy waiting to be counted. -/
def busy : State :=
  { press .loaded 2000 .ready true with
    answers := [⟨0x01, 1, .ok, []⟩], notices := [⟨.webOut 2, 3, .tag 5⟩], pending := [.copyEvent true] }

/-- StepRunsFrontCommand, second clause. -/
theorem witness_StepRunsFrontCommand : State.reset.pending = [] := rfl

/-- StepKeepsJobsLegal: a state with the invariant whose step answers a next state. -/
theorem witness_StepKeepsJobsLegal : busy.JobsLegal ∧ ∃ t, step busy = .next t :=
  ⟨by unfold State.JobsLegal; decide, _, rfl⟩

/-- StepKeepsPortLegal. -/
theorem witness_StepKeepsPortLegal : busy.PortLegal ∧ ∃ t, step busy = .next t :=
  ⟨by unfold State.PortLegal; decide, _, rfl⟩

/-- StepKeepsSettingsLegal. -/
theorem witness_StepKeepsSettingsLegal : busy.SettingsLegal ∧ ∃ t, step busy = .next t :=
  ⟨by unfold State.SettingsLegal; decide, _, rfl⟩

/-- StepKeepsFractionsLegal. -/
theorem witness_StepKeepsFractionsLegal : busy.FractionsLegal ∧ ∃ t, step busy = .next t :=
  ⟨by unfold State.FractionsLegal; decide, _, rfl⟩

/-- StepKeepsRegisterLegal. -/
theorem witness_StepKeepsRegisterLegal : busy.RegisterLegal ∧ ∃ t, step busy = .next t :=
  ⟨by unfold State.RegisterLegal; decide, _, rfl⟩

/-- The hall with so many complete requests and answers waiting. -/
def queued (requests answers : Nat) : State :=
  { hall with
    requests := List.replicate requests ⟨0x01, 1, []⟩
    answers := List.replicate answers ⟨0x01, 1, .ok, []⟩ }

/-- RequestFrameJudged, clause by clause: one byte, L of 0; L of 1 and 61; a frame a byte short; 58 field bytes into a buffer of 3 and of 4. -/
theorem witness_RequestFrameJudged :
    hall.frameSpoiled = false ∧ ([0] : List Byte).length < 2 ∧ num [0, 0, 9] 0 2 = 0 ∧
    (2 ≤ ([0, 1] : List Byte).length ∧ num [0, 1] 0 2 = 1) ∧ (2 ≤ ([0, 61] : List Byte).length ∧ 60 < num [0, 61] 0 2) ∧
    (2 ≤ num [0, 2, 1] 0 2 ∧ num [0, 2, 1] 0 2 ≤ 60 ∧ ([0, 2, 1] : List Byte).length < num [0, 2, 1] 0 2 + 2) ∧
    (List.replicate 58 (0 : Byte)).length ≤ 58 ∧ (queued 3 0).frameSpoiled = false ∧
    (queued 3 0).requests.length < 4 ∧ (queued 4 0).frameSpoiled = false ∧ 4 ≤ (queued 4 0).requests.length := by
  decide

/-- A state inside a chip-select period. -/
def selected (s : State) : State := after (.answerFrame .asserted) s

/-- PowerOnClearsEveryRecord, its two clauses on the frame: a period in progress, and none. -/
theorem witness_PowerOnClearsEveryRecord :
    (selected hall).period ≠ none ∧ (hall.period = none ∧ hall.frameSpoiled = false) := by decide

/-- R176: a power-on reset in a period loses its request frame; the next period's frame is judged again. -/
theorem test_power_on_cuts_the_period :
    (after (.requestFrame [0, 2, 1, 7]) (after (.powerOnReset false false) (selected hall))).requests = [] ∧
    (after (.requestFrame [0, 2, 1, 7]) (after (.powerOnReset false false) hall)).requests = [⟨1, 7, []⟩] := by decide

/-- AnswerFrameFixedAtSelect: no period in progress, with and without an answer; the last byte of a frame, and one past it. -/
theorem witness_AnswerFrameFixedAtSelect :
    hall.period = none ∧ (queued 0 2).period = none ∧ (queued 0 2).answers ≠ [] ∧
    ((selected (queued 0 1)).period.map (fun p => p.frame.length) = some 6 ∧ 5 < 8 ∧ 6 < 8) := by decide

/-- R166, R179: the status byte and an empty READ STATUS answer, then 00h. -/
theorem test_miso_past_the_frame :
    (selected (queued 0 1)).miso 8 = [0x41, 0, 3, 1, 1, 0, 0, 0] ∧ (selected hall).miso 1 = [0x40] ∧
    hall.miso 3 = [] := by decide

/-- The hall with the answer of a RESET FLOOR selected and the reset pending. -/
def resetting : State :=
  selected { hall with answers := [⟨0x03, 7, .ok, []⟩], resetPending := true }

/-- AnswerLeavesWhenClockedInFull: an empty answer, an answer cut short by one byte, and one clocked in full. -/
theorem witness_AnswerLeavesWhenClockedInFull :
    ((selected hall).period.map Period.answer = some none ∧ (1 : Nat) ≤ 1) ∧
    (selected (queued 0 1)).period.map (fun p => decide (5 < p.frame.length)) = some true ∧
    (selected (queued 0 1)).period.map (fun p => decide (p.answer ≠ none ∧ p.live = true ∧ p.frame.length ≤ 6)) =
      some true ∧ (selected (queued 0 1)).resetPending = false := by decide

/-- ResetFloorTakenAtItsAnswer: the request served, and its answer clocked in full. -/
theorem witness_ResetFloorTakenAtItsAnswer :
    (ask hall .resetFloor []).Serves .resetFloor 7 [] [] ∧ resetting.resetPending = true ∧
    resetting.period.map (fun p => decide (p.answer = some ⟨0x03, 7, .ok, []⟩ ∧ p.live = true ∧ p.frame.length ≤ 6)) =
      some true := by decide

/-- The hall in another device state. -/
def inDevice (d : DeviceState) : State := { hall with device := d }

/-- DeviceStateGatesEveryRequest: the four clauses, at a request of each group. -/
theorem witness_DeviceStateGatesEveryRequest :
    ((ask (inDevice .loading) .fetchNotice []).Heads .fetchNotice 7 [] [] ∧ (inDevice .loading).device = .loading) ∧
    ((ask (inDevice .unconfigured) .registerRoll []).Heads .registerRoll 7 [] [] ∧
      (inDevice .unconfigured).device = .unconfigured) ∧
    ((ask hall .setGrade []).Heads .setGrade 7 [] [] ∧ hall.device = .ready) ∧
    ((ask hall .readLane []).Heads .readLane 7 [] [] ∧ ([] : List Byte).length ≠ RequestKind.readLane.fieldBytes []) ∧
    ((ask (inDevice .unconfigured) .setGrade [3]).Heads .setGrade 7 [3] [] ∧
      ([3] : List Byte).length ≠ RequestKind.setGrade.fieldBytes [3]) ∧
    (ask (inDevice .loading) .readStatus [0]).Heads .readStatus 7 [0] [] := by decide

/-- The hall with so many instructions waiting. -/
def crowded (s : State) (n : Nat) : State := { s with outbound := List.replicate n ⟨0, .ack 1⟩ }

/-- HeadRequestWaitsOrIsUnknown: a full answer queue, a pending reset, three free places; and the code 04h. -/
theorem witness_HeadRequestWaitsOrIsUnknown :
    4 ≤ (queued 1 4).answers.length ∧ resetting.resetPending = true ∧
    (RequestKind.abandonOrder ∈ [RequestKind.putAway, .relocate, .remove, .amendRoll, .retireRoll, .cancelOrder,
        .abandonOrder] ∧ (crowded hall 29).outboundFree < 4) ∧
    (∀ q : RequestKind, q.code ≠ 0x04) ∧
    ({ hall with requests := [⟨0x04, 7, []⟩] } : State).requests = [⟨0x04, 7, []⟩] ∧ hall.answers.length < 4 ∧
    hall.resetPending = false := by
  refine ⟨by decide, by decide, by decide, ?_, by decide, by decide, by decide⟩
  intro q; cases q <;> decide

/-- ReadStatusAnswersReadout: LOADING serves it too. -/
theorem witness_ReadStatusAnswersReadout :
    (ask (inDevice .loading) .readStatus []).Heads .readStatus 7 [] [] := by decide

/-- The hall with one notice and, in slot 0, an order in a state. -/
def noted (key : NoticeKey) (st : OrderState) : State :=
  { hall with notices := [⟨key, 1, .order 1⟩], orders := hall.orders.set 0 (some (order .remove st .dock .exitBay)) }

/-- FetchNoticeRemovesHead: an empty list, a notice of no order, one of an open order, one of a DONE order. -/
theorem witness_FetchNoticeRemovesHead :
    ((ask hall .fetchNotice []).Serves .fetchNotice 7 [] [] ∧ hall.notices = []) ∧
    ((ask (noted .settingsStored .done) .fetchNotice []).Serves .fetchNotice 7 [] [] ∧
      ∀ k : OrderSlot, ¬ (NoticeKey.settingsStored = .orderDone k ∨ NoticeKey.settingsStored = .orderCancelled k)) ∧
    (noted (.orderCancelled 0) .waiting).orders[0].map Order.isOpen = some true ∧
    ((ask (noted (.orderDone 0) .done) .fetchNotice []).Serves .fetchNotice 7 [] [] ∧
      (noted (.orderDone 0) .done).orders[0] = some (order .remove .done .dock .exitBay)) := by decide

/-! ## The roll register -/

/-- The fields of a REGISTER ROLL. -/
def rollFields (t g w d D W : Nat) : List Byte :=
  beBytes 5 t ++ byteOf g :: (beBytes 2 w ++ byteOf d :: (beBytes 2 D ++ beBytes 2 W))

/-- RegisterRollRefusals: fields out of range by one, a tag in use, and a full dock. -/
theorem witness_RegisterRollRefusals :
    ((ask hall .registerRoll (rollFields 10000000000 3 1400 100 1000 700)).Serves .registerRoll 7
      (rollFields 10000000000 3 1400 100 1000 700) [] ∧ 9999999999 < 10000000000 ∧ 10000000000 < 256 ^ 5) ∧
    (ask hall .registerRoll (rollFields 1 3 1400 100 119 700)).Serves .registerRoll 7
      (rollFields 1 3 1400 100 119 700) [] ∧
    ((ask docked .registerRoll (rollFields 5230114006 3 300 50 70 4000)).Serves .registerRoll 7
      (rollFields 5230114006 3 300 50 70 4000) [] ∧ tableWf 1024 docked.rolls = true ∧
      (∃ p ∈ docked.rolls, p.2.tag = 5230114006) ∧
      ¬ ∃ x : GradeCode, x.val = 3 ∧ docked.working.grades[x].defined = false) ∧
    ((ask { hall with dock := List.range 16 } .registerRoll (rollFields 1 3 2600 200 1600 50)).Serves .registerRoll 7
      (rollFields 1 3 2600 200 1600 50) [] ∧ 16 ≤ ({ hall with dock := List.range 16 } : State).dock.length) := by
  decide

/-- RegisterRollCreatesRecord: the roll of 01's worked case into the slot after one roll. -/
theorem witness_RegisterRollCreatesRecord :
    (ask docked .registerRoll (rollFields 1 3 1400 100 1250 1097)).Serves .registerRoll 7
      (rollFields 1 3 1400 100 1250 1097) [] ∧
    docked.working.grades[3].defined = true ∧ (∀ p ∈ docked.rolls, p.2.tag ≠ 1) ∧
    tableWf 1024 docked.rolls = true ∧ docked.roll? 1 = none ∧ (∀ j < 1, docked.roll? j ≠ none) ∧
    docked.dock.length < 16 := by decide

/-- 01_paper_arithmetic and 02_the_roll_register, R29: the worked roll registers 17,419 m without a mark. -/
theorem test_register_roll :
    (answerOf .registerRoll (ask docked .registerRoll (rollFields 1 3 1400 100 1250 1097))).map Answer.fields =
      some [0, 1, 0, 0, 0, 5, 0x44, 0x0B, 0, 1] ∧
    (answerOf .registerRoll (ask docked .registerRoll (rollFields 1 3 1400 100 1250 900))).map
      (fun a => a.fields.getD 8 9) = some 1 := by decide

/-- The fields of a DECLARE ROLL with a remaining length, a state, a place and the flags byte 05h. -/
def declared (remaining : Nat) (st : RollState) (index arm : Byte) : List Byte :=
  beBytes 5 1 ++ byteOf 3 :: (beBytes 2 1400 ++ byteOf 100 :: (beBytes 2 1000 ++ (beBytes 2 700 ++
    (beBytes 2 11000 ++ (beBytes 2 remaining ++ [st.code, index, arm, byteOf 5])))))

/-- The hall with lane 9 in a state of its own. -/
def laneNine (s : State) (l : Lane) : State := { s with lanes := s.lanes.set 9 l }

/-- DeclareRollRebuildsRecord: to the dock and to a full one; into an unbound lane, behind a roll, into a lane not enabled, bound to another width and full; onto a vehicle and one on its way; onto a running arm with 0 and with 150 m left, a stand in OFF and one that runs; a standby beside a running arm and one without; a stub. -/
theorem witness_DeclareRollRebuildsRecord :
    ((ask docked .declareRoll (declared 11000 .docked 0xFF 0xFF)).Serves .declareRoll 7
      (declared 11000 .docked 0xFF 0xFF) [] ∧ docked.roll? 1 = none ∧ (∀ p ∈ docked.rolls, p.2.tag ≠ 1) ∧
      docked.dock.length < 16 ∧ 16 ≤ ({ hall with dock := List.range 16 } : State).dock.length) ∧
    ((ask hall .declareRoll (declared 0 .stored 9 0xFF)).Serves .declareRoll 7 (declared 0 .stored 9 0xFF) [] ∧
      hall.working.lanes[9].enabled = true ∧ hall.lanes[9].binding = none ∧ hall.lanes[9].contents = [] ∧
      hall.lanes[9].contents.length + hall.lanes[9].reservations < hall.working.lanes[9].depth) ∧
    ((ask (stored 9) .declareRoll (declared 1 .stored 9 0xFF)).Serves .declareRoll 7 (declared 1 .stored 9 0xFF) [] ∧
      (stored 9).lanes[9].binding = some ⟨3, 1400⟩ ∧ (stored 9).lanes[9].contents ≠ [] ∧
      (stored 9).roll? 1 = none ∧ tableWf 1024 (stored 9).rolls = true) ∧
    ((ask hall .declareRoll (declared 1 .stored 31 0xFF)).Serves .declareRoll 7 (declared 1 .stored 31 0xFF) [] ∧
      hall.working.lanes[31].enabled = false ∧
      (laneNine hall ⟨some ⟨3, 1600⟩, [], 1⟩).lanes[9].binding ≠ some ⟨3, 1400⟩ ∧
      hall.working.lanes[9].depth ≤ (laneNine hall ⟨some paper, [], 10⟩).lanes[9].reservations) ∧
    ((ask hall .declareRoll (declared 1 .carried 1 0xFF)).Serves .declareRoll 7 (declared 1 .carried 1 0xFF) [] ∧
      (1 : VehicleNo).val < hall.working.fleet.fitted ∧ hall.vehicles[1].state = .offline ∧
      hall.vehicles[1].roll = none ∧ (withVehicle hall .outbound false).vehicles[1].state = .outbound) ∧
    ((ask hall .declareRoll (declared 150 .running 5 1)).Serves .declareRoll 7 (declared 150 .running 5 1) [] ∧
      hall.stands[5].state ≠ .off ∧ (hall.stands[5].arm .B).status = .empty ∧ hall.stands[5].running = none) ∧
    (ask hall .declareRoll (declared 0 .running 5 0)).Serves .declareRoll 7 (declared 0 .running 5 0) [] ∧
    (hall.stands[0].state = .off ∧ (press .loaded 2000 .empty false).stands[5].running = some .A) ∧
    ((ask (press .loaded 2000 .empty false) .declareRoll (declared 1 .standby 5 1)).Serves .declareRoll 7
      (declared 1 .standby 5 1) [] ∧ ((press .loaded 2000 .empty false).stands[5].arm .B).status = .empty ∧
      (press .loaded 2000 .empty false).roll? 1 = none) ∧
    ((ask hall .declareRoll (declared 1 .stub 5 1)).Serves .declareRoll 7 (declared 1 .stub 5 1) [] ∧
      (hall.stands[5].arm Arm.B.other).status = .empty) := by
  and_intros <;> decide

/-- R34: a roll of 150 m declared running at a splice mark of 150 makes the stand SPLICE_DUE and its call-up made. -/
theorem test_declare_running_at_the_mark :
    (after .declareRoll (ask hall .declareRoll (declared 150 .running 5 1))).stands[5].state = .spliceDue ∧
    (after .declareRoll (ask hall .declareRoll (declared 150 .running 5 1))).stands[5].callUpRaised = true ∧
    (after .declareRoll (ask hall .declareRoll (declared 150 .running 5 1))).notices = [] := by decide

/-- The fields that name roll 0 by its slot. -/
def slot0 : List Byte := 1 :: beBytes 5 0

/-- The docked roll on hold, and damaged or not. -/
def held (damaged : Bool) : State :=
  { docked with rolls := [(0, { reel with hold := true, damaged := damaged })] }

/-- AmendRollSetsFlags: by slot and by tag; an action of 3; a set on an unclaimed roll and on one of a REMOVE order; a clear that leaves a flag set and one that leaves none. -/
theorem witness_AmendRollSetsFlags :
    ((ask docked .amendRoll (slot0 ++ [byteOf 1, byteOf 0])).Serves .amendRoll 7 (slot0 ++ [byteOf 1, byteOf 0]) [] ∧
      docked.Names slot0 0 reel ∧ reel.claim = none) ∧
    ((ask docked .amendRoll ((0 :: beBytes 5 reel.tag) ++ [byteOf 3, byteOf 0])).Serves .amendRoll 7
      ((0 :: beBytes 5 reel.tag) ++ [byteOf 3, byteOf 0]) [] ∧
      docked.Names (0 :: beBytes 5 reel.tag) 0 reel) ∧
    ((ask (onOrder docked (order .remove .assigned .dock .exitBay) .outbound false) .amendRoll
      (slot0 ++ [byteOf 1, byteOf 1])).Serves .amendRoll 7 (slot0 ++ [byteOf 1, byteOf 1]) [] ∧
      (onOrder docked (order .remove .assigned .dock .exitBay) .outbound false).orders[0] =
        some (order .remove .assigned .dock .exitBay)) ∧
    ((ask (held true) .amendRoll (slot0 ++ [byteOf 2, byteOf 0])).Serves .amendRoll 7 (slot0 ++ [byteOf 2, byteOf 0]) [] ∧
      (held true).roll? 0 = some { reel with hold := true, damaged := true }) ∧
    ((ask (held false) .amendRoll (slot0 ++ [byteOf 2, byteOf 0])).Serves .amendRoll 7 (slot0 ++ [byteOf 2, byteOf 0]) [] ∧
      (held false).roll? 0 = some { reel with hold := true }) := by and_intros <;> decide

/-- A FEED order of the front of lane 9 to stand 5, in a state, on its vehicle. -/
def feeding (st : OrderState) (vs : VehicleState) : State :=
  onOrder (stored 9) (order .feed st (.lane 9) (.arm 5 .A)) vs false

/-- HoldCancelsUnpickedFeed: in ASSIGNED and in LOADING. -/
theorem witness_HoldCancelsUnpickedFeed :
    ((ask (feeding .assigned .outbound) .amendRoll (1 :: (beBytes 5 0 ++ [1, 0]))).Serves .amendRoll 7
      (1 :: (beBytes 5 0 ++ [1, 0])) [] ∧
      (feeding .assigned .outbound).roll? 0 =
        some { reel with state := .stored, location := .lane 9, claim := some 0 } ∧
      (feeding .assigned .outbound).orders[0] = some (order .feed .assigned (.lane 9) (.arm 5 .A)) ∧
      (order .feed .assigned (.lane 9) (.arm 5 .A)).vehicle = some 1) ∧
    (feeding .loading .loading).orders[0] = some (order .feed .loading (.lane 9) (.arm 5 .A)) ∧
    (feeding .waiting .idle).orders[0].bind Order.vehicle = none := by decide

/-- Vehicle 1 LOADING the stub on arm B of stand 5, where vehicle 2 waits or not. -/
def clearing (w : Option Wait) : State :=
  second (onOrder (let s := press .loaded 2000 .stub false
    { s with
      rolls := [(0, { reel with state := .stub, location := .arm 5 .B }),
        (2, { reel' with state := .running, location := .arm 5 .A, remaining := 2000 })]
      stands := s.stands.set 5 { s.stands[5] with
        armA := ⟨.running, some 2, none⟩, armB := ⟨.stub, some 0, if w.isSome then some 1 else none⟩ } })
    (order .returnStub .loading (.arm 5 .B) (.lane 9)) .loading false)
    .feed (.lane 8) (.arm 5 .B) .laden w

/-- The stub of that arm without its order. -/
def stubbed (w : Option Wait) : State :=
  let s := clearing w
  { s with
    rolls := tableModify s.rolls 0 fun r => { r with claim := none }
    orders := s.orders.set 0 none, vehicles := s.vehicles.set 1 Vehicle.parkedAway }

/-- A PUTAWAY order on vehicle 1, in a state. -/
def storing (st : OrderState) (vs : VehicleState) (laden : Bool) : State :=
  onOrder { docked with lanes := hall.lanes.set 9 ⟨some paper, [], 1⟩ } (order .putaway st .dock (.lane 9)) vs laden

/-- RetireRollFreesSlot: an unclaimed DOCKED roll, a lane front, a STUB without and with a vehicle that waits, a roll on an idle vehicle; a claimed one, a RUNNING one, one behind the front and one on a vehicle with an order. -/
theorem witness_RetireRollFreesSlot :
    ((ask docked .retireRoll slot0).Serves .retireRoll 7 slot0 [] ∧ docked.roll? 0 = some reel ∧
      reel.claim = none ∧ reel.state = .docked ∧ reel.location = .dock) ∧
    ((ask (stored 9) .retireRoll slot0).Serves .retireRoll 7 slot0 [] ∧ (stored 9).lanes[9].contents = 0 :: [] ∧
      (stored 9).roll? 0 = some { reel with state := .stored, location := .lane 9 }) ∧
    ((ask (stubbed none) .retireRoll slot0).Serves .retireRoll 7 slot0 [] ∧
      (stubbed none).roll? 0 = some { reel with state := .stub, location := .arm 5 .B } ∧
      ∀ w : VehicleNo, (stubbed none).vehicles[w].waiting ≠ some (.armBusy 5 .B)) ∧
    ((∀ u : VehicleNo, (stubbed (some (.armBusy 5 .B))).vehicles[u].waiting = some (.armBusy 5 .B) ↔ u = 2) ∧
      (stubbed (some (.armBusy 5 .B))).vehicles[2].order = some 1 ∧
      ((stubbed (some (.armBusy 5 .B))).orders[1]).map Order.number = some 2) ∧
    ((ask (withVehicle docked .idle true) .retireRoll slot0).Serves .retireRoll 7 slot0 [] ∧
      (withVehicle docked .idle true).roll? 0 = some { reel with state := .carried, location := .vehicle 1 } ∧
      (withVehicle docked .idle true).vehicles[1].order = none) ∧
    ((ask (feeding .assigned .outbound) .retireRoll slot0).Serves .retireRoll 7 slot0 [] ∧
      ((feeding .assigned .outbound).roll? 0).map Roll.claim = some (some 0)) ∧
    ((ask busy .retireRoll slot0).Serves .retireRoll 7 slot0 [] ∧
      (busy.roll? 0).map Roll.state = some .running) ∧
    (laneNine (stored 9) ⟨some paper, [7, 0], 0⟩).lanes[9].contents.head? ≠ some 0 ∧
    ((storing .laden .laden true).vehicles[1].order ≠ none ∧
      ((storing .laden .laden true).roll? 0).map Roll.location = some (.vehicle 1)) := by and_intros <;> decide

/-- R39, R95: the retirement of a stub leaves its arm RESERVED to the FEED order behind it and sends its vehicle RESUME. -/
theorem test_retired_stub_resumes_the_waiting_vehicle :
    (after .retireRoll (ask (stubbed (some (.armBusy 5 .B))) .retireRoll slot0)).stands[5].armB =
      ⟨.reserved, none, some 1⟩ ∧
    (after .retireRoll (ask (stubbed (some (.armBusy 5 .B))) .retireRoll slot0)).outbound = [⟨2, .resume 2⟩] := by
  decide

/-- CountStockCountsRolls, at both ends of the width. -/
theorem witness_CountStockCountsRolls :
    (ask docked .countStock (byteOf 3 :: (beBytes 2 300 ++ [flagByte true]))).Serves .countStock 7
      (byteOf 3 :: (beBytes 2 300 ++ [flagByte true])) [] ∧
    (ask docked .countStock (byteOf 3 :: (beBytes 2 2600 ++ [flagByte false]))).Serves .countStock 7
      (byteOf 3 :: (beBytes 2 2600 ++ [flagByte false])) [] := by decide

/-- R15: the docked roll is counted, and is not STORED. -/
theorem test_count_stock :
    (answerOf .countStock (ask docked .countStock [3, 0x05, 0x78, 0])).map Answer.fields =
      some [0, 0, 0, 1, 0, 0, 0x2B, 0x63] ∧
    (answerOf .countStock (ask docked .countStock [3, 0x05, 0x78, 1])).map Answer.fields =
      some [0, 0, 0, 0, 0, 0, 0, 0] := by decide

/-- ReadersOfRollsLanesAndOrders: a roll, a lane with a roll, the dock, an order. -/
theorem witness_ReadersOfRollsLanesAndOrders :
    ((ask docked .readRoll slot0).Serves .readRoll 7 slot0 [] ∧ docked.roll? 0 = some reel) ∧
    (ask (stored 9) .readLane [byteOf 9]).Serves .readLane 7 [byteOf 9] [] ∧
    (ask docked .readLane [0xFE]).Serves .readLane 7 [0xFE] [] ∧
    ((ask (feeding .loading .loading) .readOrder (1 :: beBytes 2 0)).Serves .readOrder 7 (1 :: beBytes 2 0) [] ∧
      (feeding .loading .loading).orders[0] = some (order .feed .loading (.lane 9) (.arm 5 .A))) := by decide

/-- ReadersOfVehiclesAislesStandsAndJobs: the last vehicle, aisle and stand, the ACTIVE job and a FREE slot. -/
theorem witness_ReadersOfVehiclesAislesStandsAndJobs :
    (ask busy .readVehicle [byteOf 5]).Serves .readVehicle 7 [byteOf 5] [] ∧
    (ask busy .readAisle [byteOf 7]).Serves .readAisle 7 [byteOf 7] [] ∧
    (ask busy .readStand [byteOf 7]).Serves .readStand 7 [byteOf 7] [] ∧
    ((ask busy .readJob [byteOf 0]).Serves .readJob 7 [byteOf 0] [] ∧ busy.jobs[0].state ≠ .free) ∧
    ((ask busy .readJob [byteOf 3]).Serves .readJob 7 [byteOf 3] [] ∧ busy.jobs[3].state = .free) := by decide

/-- R144, R181: the stand readout names the state LOADED, the running arm A and the READY standby. -/
theorem test_read_stand :
    (answerOf .readStand (ask busy .readStand [5])).map (fun a => (a.fields.take 5, a.fields.getD 21 0)) =
      some ([5, 2, 0, 0, 5], 2) := by decide

/-! ## The store map and the dispatcher -/

/-- Lanes 8 and 9 bound to the paper, lane 8 with one free place and lane 9 with two. -/
def filling : State :=
  { stored 9 with
    lanes := (hall.lanes.set 8 ⟨some paper, [], 9⟩).set 9 ⟨some paper, [0], 7⟩ }

/-- PutAwaySelectionFillsFullestLane: a bound lane with room, none with room but an unbound one, and no lane. -/
theorem witness_PutAwaySelectionFillsFullestLane :
    (filling.putAwayLane paper none = some 8 ∧ filling.working.lanes[8].enabled = true ∧
      filling.lanes[8].binding = some paper ∧ 0 < filling.freePlaces 8) ∧
    (hall.putAwayLane paper none = some 8 ∧ ∀ m : LaneNo, hall.lanes[m].binding ≠ some paper) ∧
    (hall.putAwayLane paper (some 8) = some 9) ∧
    State.reset.putAwayLane paper none = none := by decide

/-- Two fronts with the paper in lanes 8 and 9, the one in lane 9 the older, and stand 5 in the plan. -/
def fronts : State :=
  { press .loaded 2000 .empty false with
    rolls := [(0, { reel with state := .running, location := .arm 5 .A, remaining := 2000 }),
      (1, { reel' with state := .stored, location := .lane 8, sequence := 12 }),
      (2, { reel' with tag := 5230114008, state := .stored, location := .lane 9, sequence := 9 })]
    lanes := (hall.lanes.set 8 ⟨some paper, [1], 0⟩).set 9 ⟨some paper, [2], 0⟩ }

/-- FeedSelectionTakesOldestFront: the older of two fronts, and no front in an empty store. -/
theorem witness_FeedSelectionTakesOldestFront :
    (fronts.feedChoice 5).map FeedChoice.slot = some 2 ∧ (fronts.feedChoice 5).map FeedChoice.lane = some 9 ∧
    ((press .loaded 2000 .empty false).feedChoice 5).isNone = true := by decide

/-- NewOrderNumberIsUnused: at 1 and at 65,535, with number 1 in use. -/
theorem witness_NewOrderNumberIsUnused :
    (1 ≤ hall.nextNumber ∧ hall.nextNumber ≤ 65535 ∧ hall.orders[31] = none) ∧
    { feeding .assigned .outbound with nextNumber := 1 }.newNumber = 2 ∧
    { feeding .assigned .outbound with nextNumber := 65535 }.newNumber = 65535 := by decide

/-- OrderCreationIsOneEvent: from the dock and from a vehicle, to the exit bay, to a lane and to an arm. -/
theorem witness_OrderCreationIsOneEvent :
    (∀ v, Place.dock ≠ .vehicle v) ∧ (∃ v, Place.vehicle 1 = .vehicle v) ∧ Place.exitBay = .exitBay ∧
    (∃ (l : LaneNo) (lanes : Vector Lane 32), Place.lane 9 = .lane l ∧
      lanes = hall.lanes.set l { hall.lanes[l] with
        reservations := hall.lanes[l].reservations + 1
        binding := hall.lanes[l].binding.or (some ⟨reel.grade, reel.width⟩) }) ∧
    ∃ (n : StandNo) (a : Arm) (stands : Vector Stand 8), Place.arm 5 .B = .arm n a ∧
      stands = hall.stands.set n (hall.stands[n].setArm a { hall.stands[n].arm a with
        reservation := some 4
        status := if (hall.stands[n].arm a).status = .empty then .reserved else (hall.stands[n].arm a).status }) :=
  ⟨by decide, ⟨1, rfl⟩, rfl, ⟨9, _, rfl, rfl⟩, 5, .B, _, rfl, rfl⟩

/-- The fields of a PUT AWAY of roll 0. -/
def putAwayFields (dest : Byte) : List Byte := 1 :: (beBytes 5 0 ++ [dest])

/-- PutAwayCreatesOrder: from the dock to a named lane and to the part's choice, from a vehicle; a claimed roll; a destination of 32; a lane not enabled, bound to another width and full; no lane; no slot. -/
theorem witness_PutAwayCreatesOrder :
    ((ask docked .putAway (putAwayFields (byteOf 9))).Serves .putAway 7 (putAwayFields (byteOf 9)) [] ∧
      docked.roll? 0 = some reel ∧ reel.state = .docked ∧ docked.working.lanes[9].enabled = true ∧
      docked.lanes[9].binding = none ∧ 0 < docked.freePlaces 9 ∧ docked.orders[0] = none) ∧
    ((ask docked .putAway (putAwayFields 0xFE)).Serves .putAway 7 (putAwayFields 0xFE) [] ∧
      docked.putAwayLane ⟨reel.grade, reel.width⟩ none = some 8) ∧
    ((ask (withVehicle docked .idle true) .putAway (putAwayFields 0xFE)).Serves .putAway 7 (putAwayFields 0xFE) [] ∧
      (withVehicle docked .idle true).roll? 0 = some { reel with state := .carried, location := .vehicle 1 } ∧
      (withVehicle docked .idle true).vehicles[1].state = .idle ∧
      (withVehicle docked .idle true).vehicles[1].order = none) ∧
    ((ask (onOrder docked (order .remove .assigned .dock .exitBay) .outbound false) .putAway (putAwayFields 0xFE)).Serves
      .putAway 7 (putAwayFields 0xFE) [] ∧
      ((onOrder docked (order .remove .assigned .dock .exitBay) .outbound false).roll? 0).map Roll.claim =
        some (some 0)) ∧
    ((ask docked .putAway (putAwayFields 32)).Serves .putAway 7 (putAwayFields 32) [] ∧ 32 ≤ (32 : Byte).toNat) ∧
    ((ask docked .putAway (putAwayFields (byteOf 31))).Serves .putAway 7 (putAwayFields (byteOf 31)) [] ∧
      docked.working.lanes[31].enabled = false) ∧
    ((laneNine docked ⟨some ⟨3, 1600⟩, [], 1⟩).lanes[9].binding ≠ some ⟨reel.grade, reel.width⟩ ∧
      (laneNine docked ⟨some paper, [], 10⟩).freePlaces 9 = 0) ∧
    ({ docked with working := Settings.default }.putAwayLane ⟨reel.grade, reel.width⟩ none = none ∧
      (ask { docked with working := Settings.default } .putAway (putAwayFields 0xFE)).Serves .putAway 7
        (putAwayFields 0xFE) []) ∧
    ((ask (fullOrders docked) .putAway (putAwayFields 0xFE)).Serves .putAway 7 (putAwayFields 0xFE) [] ∧
      (fullOrders docked).putAwayLane ⟨reel.grade, reel.width⟩ none ≠ none ∧
      ∀ c : OrderSlot, (fullOrders docked).orders[c] ≠ none) := by and_intros <;> decide

/-- R51, R55, R64: the first PUT AWAY takes number 1, slot 0 and lane 8, and the order waits. -/
theorem test_put_away :
    (answerOf .putAway (ask docked .putAway (putAwayFields 0xFE))).map Answer.fields = some [0, 1, 0, 8] ∧
    (after .putAway (ask docked .putAway (putAwayFields 0xFE))).waiting = [0] ∧
    (after .putAway (ask docked .putAway (putAwayFields 0xFE))).lanes[8].reservations = 1 := by decide

/-- The fields of a RELOCATE of the front of a lane, with a roll reference or none. -/
def relocateFields (l : LaneNo) (ref : List Byte) (dest : Byte) : List Byte := byteOf l.val :: (ref ++ [dest])

/-- No roll reference. -/
def noRef : List Byte := [0xFF, 0, 0, 0, 0, 0]

/-- RelocateAndRemoveCreateOrders: RELOCATE named and chosen, with the front's slot and its tag, with no live roll and with another one; from an empty lane; to 32, to the source lane, to one not enabled, bound to another width and full; REMOVE from the dock, a lane, a stub's arm, a mismatch's arm and a vehicle; a claimed, a running and a READY roll, one behind the front and one on a vehicle on its way. -/
theorem witness_RelocateAndRemoveCreateOrders :
    ((ask (stored 9) .relocate (relocateFields 9 noRef (byteOf 8))).Serves .relocate 7
        (relocateFields 9 noRef (byteOf 8)) [] ∧
      (stored 9).lanes[9].contents.head? = some 0 ∧
      (stored 9).roll? 0 = some { reel with state := .stored, location := .lane 9 } ∧
      (stored 9).working.lanes[8].enabled = true ∧ (stored 9).lanes[8].binding = none ∧
      0 < (stored 9).freePlaces 8 ∧ (stored 9).orders[0] = none) ∧
    ((ask (stored 9) .relocate (relocateFields 9 slot0 0xFE)).Serves .relocate 7 (relocateFields 9 slot0 0xFE) [] ∧
      (stored 9).putAwayLane ⟨3, 1400⟩ (some 9) = some 8) ∧
    ((ask (stored 9) .relocate (relocateFields 9 (0 :: beBytes 5 reel.tag) 0xFE)).Serves .relocate 7
        (relocateFields 9 (0 :: beBytes 5 reel.tag) 0xFE) [] ∧
      (stored 9).Names (0 :: beBytes 5 reel.tag) 0 { reel with state := .stored, location := .lane 9 }) ∧
    ((ask (stored 9) .relocate (relocateFields 9 (1 :: beBytes 5 1023) 0xFE)).Serves .relocate 7
        (relocateFields 9 (1 :: beBytes 5 1023) 0xFE) [] ∧ (stored 9).roll? 1023 = none ∧
      ∀ p ∈ (stored 9).rolls, p.2.tag ≠ 9999999999) ∧
    ((ask fronts .relocate (relocateFields 9 (1 :: beBytes 5 1) 0xFE)).Serves .relocate 7
        (relocateFields 9 (1 :: beBytes 5 1) 0xFE) [] ∧
      fronts.Names (1 :: beBytes 5 1) 1 { reel' with state := .stored, location := .lane 8, sequence := 12 } ∧
      fronts.lanes[9].contents.head? = some 2) ∧
    ((ask (stored 9) .relocate (relocateFields 31 noRef 0xFE)).Serves .relocate 7 (relocateFields 31 noRef 0xFE) [] ∧
      (stored 9).lanes[31].contents = []) ∧
    ((ask (stored 9) .relocate (relocateFields 9 noRef 32)).Serves .relocate 7 (relocateFields 9 noRef 32) [] ∧
      (ask (stored 9) .relocate (relocateFields 9 noRef (byteOf 9))).Serves .relocate 7
        (relocateFields 9 noRef (byteOf 9)) [] ∧
      (stored 9).working.lanes[31].enabled = false ∧
      ({ stored 9 with lanes := (stored 9).lanes.set 8 ⟨some ⟨3, 1600⟩, [], 1⟩ } : State).lanes[8].binding ≠
        some ⟨3, 1400⟩ ∧
      ({ stored 9 with lanes := (stored 9).lanes.set 8 ⟨some paper, [], 10⟩ } : State).freePlaces 8 = 0) ∧
    ((ask docked .remove slot0).Serves .remove 7 slot0 [] ∧ docked.Names slot0 0 reel) ∧
    (ask docked .remove (0 :: beBytes 5 reel.tag)).Serves .remove 7 (0 :: beBytes 5 reel.tag) [] ∧
    ((ask (fullOrders docked) .remove slot0).Serves .remove 7 slot0 [] ∧ (fullOrders docked).Names slot0 0 reel) ∧
    (ask (stored 9) .remove slot0).Serves .remove 7 slot0 [] ∧
    ((ask (press .loaded 2000 .mismatch true) .remove (1 :: beBytes 5 1)).Serves .remove 7 (1 :: beBytes 5 1) [] ∧
      (press .loaded 2000 .mismatch true).roll? 1 = some { reel' with state := .standby, location := .arm 5 .B } ∧
      ((press .loaded 2000 .mismatch true).stands[5].arm .B).status = .mismatch) ∧
    (ask { docked with rolls := [(0, { reel with state := .stub, location := .arm 5 .B })] } .remove slot0).Serves
      .remove 7 slot0 [] ∧
    (ask (withVehicle docked .idle true) .remove slot0).Serves .remove 7 slot0 [] ∧
    ((ask (feeding .assigned .outbound) .remove slot0).Serves .remove 7 slot0 [] ∧
      ((feeding .assigned .outbound).roll? 0).map Roll.claim = some (some 0)) ∧
    ((ask busy .remove slot0).Serves .remove 7 slot0 [] ∧ (busy.roll? 0).map Roll.state = some .running) ∧
    ((ask busy .remove (1 :: beBytes 5 1)).Serves .remove 7 (1 :: beBytes 5 1) [] ∧
      (busy.stands[5].arm .B).status = .ready ∧
      busy.roll? 1 = some { reel' with state := .standby, location := .arm 5 .B }) ∧
    (laneNine (stored 9) ⟨some paper, [7, 0], 0⟩).lanes[9].contents.head? ≠ some 0 ∧
    (withVehicle docked .faulted true).vehicles[1].state ≠ .idle := by
  and_intros <;> decide

/-- The fields of a FEED to stand 5 that names no roll. -/
def feedFields : List Byte := [byteOf 5, 0xFF, 0, 0, 0, 0, 0]

/-- FeedCreatesOrderOrRaisesDemand: a named front; a demand no front meets and one a front meets; a stand without a requirement. -/
theorem witness_FeedCreatesOrderOrRaisesDemand :
    ((ask fronts .feed (byteOf 5 :: 1 :: beBytes 5 1)).Serves .feed 7 (byteOf 5 :: 1 :: beBytes 5 1) [] ∧
      fronts.roll? 1 = some { reel' with state := .stored, location := .lane 8, sequence := 12 } ∧
      fronts.stands[5].state ≠ .off ∧ fronts.feedArmAvailable 5 = true ∧ fronts.requirement 5 = some ⟨3, 1400⟩ ∧
      fronts.lanes[8].contents.head? = some 1 ∧
      (∀ m : LaneNo, fronts.lanes[m].contents.head? = some 1 → m = 8) ∧ fronts.orders[0] = none) ∧
    ((ask (press .loaded 2000 .empty false) .feed feedFields).Serves .feed 7 feedFields [] ∧
      (press .loaded 2000 .empty false).requirement 5 ≠ none ∧ 5 ∉ (press .loaded 2000 .empty false).demand ∧
      (press .loaded 2000 .empty false).feedArmAvailable 5 = true ∧
      5 ∈ (State.examine { press .loaded 2000 .empty false with demand := [5] }).demand ∧
      (State.examine { press .loaded 2000 .empty false with demand := [5] }).openFeed 5 = none) ∧
    ((ask fronts .feed feedFields).Serves .feed 7 feedFields [] ∧
      5 ∉ (State.examine { fronts with demand := [5] }).demand ∧
      (State.examine { fronts with demand := [5] }).openFeed 5 = some 0) ∧
    ((ask hall .feed feedFields).Serves .feed 7 feedFields [] ∧ hall.requirement 5 = none) := by decide

/-- ExaminationServesAllItCan, its second clause: a stand whose demand is met, and one whose demand stays. -/
theorem witness_ExaminationServesAllItCan :
    (5 ∈ ({ fronts with demand := [2, 5] } : State).demand ∧
      5 ∉ (State.examine { fronts with demand := [2, 5] }).demand) ∧
    2 ∈ (State.examine { fronts with demand := [2, 5] }).demand := by decide

/-- The order of the front of lane 9 in the queue, vehicles 1 and 2 idle, vehicle 2 parked in aisle 4 or not. -/
def pairable (parked : Bool) : State :=
  { feeding .waiting .idle with
    waiting := [0], idle := [1, 2]
    vehicles := (hall.vehicles.set 1 ⟨.idle, none, none, none, none, 0⟩).set 2 ⟨.idle, none, none, none, none, 0⟩
    aisles := if parked then hall.aisles.set 4 ⟨some 2, .parked, [], .none⟩ else hall.aisles }

/-- PairingJoinsOrderToVehicle: the vehicle parked at the source, the head of the idle list, and the second clause's premise. -/
theorem witness_PairingJoinsOrderToVehicle :
    ((pairable true).waiting = [0] ∧ (pairable true).orders[0] = some (order .feed .waiting (.lane 9) (.arm 5 .A)) ∧
      (pairable true).outbound.length < 32 ∧ 2 ∈ (pairable true).idle ∧
      (pairable true).aisles[(pairable true).working.lanes[9].aisle].mode = .parked ∧
      (pairable true).aisles[(pairable true).working.lanes[9].aisle].holder = some 2) ∧
    ((pairable false).idle.head? = some 1 ∧
      (pairable false).aisles[(pairable false).working.lanes[9].aisle].mode ≠ .parked) ∧
    (∀ w, Place.lane 9 ≠ .vehicle w) ∧ ∀ k ∈ (pairable false).waiting, (pairable false).orders[k] ≠ none := by decide

/-- 04, worked example: pairing with a parked vehicle takes the vehicle parked at the source ahead of the idle head. -/
theorem test_pairing_prefers_the_parked_vehicle :
    (after .pairing (pairable true)).idle = [1] ∧ (after .pairing (pairable false)).idle = [2] ∧
    (after .pairing (pairable true)).outbound =
      [⟨2, .go 1 5230114006 (.lane 9) (.arm 5 .A)⟩] := by decide

/-- CancelAndAbandonFreeTheSlot: CANCEL of a WAITING and of an ASSIGNED order, ABANDON of a LADEN one, the refusals, and for both the numbers 0, 1 and 65,535. -/
theorem witness_CancelAndAbandonFreeTheSlot :
    ((ask (storing .waiting .offline false) .cancelOrder (beBytes 2 1)).Serves .cancelOrder 7 (beBytes 2 1) [] ∧
      (storing .waiting .offline false).orders[0] = some (order .putaway .waiting .dock (.lane 9)) ∧
      (order .putaway .waiting .dock (.lane 9)).vehicle = none ∧
      ∀ b : OrderSlot, b ≠ 0 → (storing .waiting .offline false).orders[b] = none) ∧
    ((ask (storing .assigned .outbound false) .cancelOrder (beBytes 2 1)).Serves .cancelOrder 7 (beBytes 2 1) [] ∧
      (order .putaway .assigned .dock (.lane 9)).vehicle = some 1) ∧
    ((ask (storing .laden .laden true) .abandonOrder (beBytes 2 1)).Serves .abandonOrder 7 (beBytes 2 1) [] ∧
      (storing .laden .laden true).orders[0] = some (order .putaway .laden .dock (.lane 9)) ∧
      (order .putaway .laden .dock (.lane 9)).vehicle = some 1) ∧
    (ask (storing .laden .laden true) .cancelOrder (beBytes 2 1)).Serves .cancelOrder 7 (beBytes 2 1) [] ∧
    (ask (storing .assigned .outbound false) .abandonOrder (beBytes 2 1)).Serves .abandonOrder 7 (beBytes 2 1) [] ∧
    (ask hall .cancelOrder (beBytes 2 0)).Serves .cancelOrder 7 (beBytes 2 0) [] ∧
    ((ask hall .cancelOrder (beBytes 2 65535)).Serves .cancelOrder 7 (beBytes 2 65535) [] ∧
      ∀ b : OrderSlot, hall.orders[b] = none) ∧
    (ask hall .abandonOrder (beBytes 2 0)).Serves .abandonOrder 7 (beBytes 2 0) [] ∧
    (ask hall .abandonOrder (beBytes 2 65535)).Serves .abandonOrder 7 (beBytes 2 65535) [] := by
  and_intros <;> decide

/-- EndedOrderReleasesPlaceAndVehicle: a reserved lane; a vehicle with a roll and no wait, and one that waits for tenure. -/
theorem witness_EndedOrderReleasesPlaceAndVehicle :
    1 ≤ (storing .laden .laden true).lanes[9].reservations ∧
    ((storing .laden .laden true).vehicles[1].state ≠ .faulted ∧
      (storing .laden .laden true).vehicles[1].waiting = none) ∧
    ((second fronts .feed (.lane 9) (.arm 5 .B) .outbound (some (.tenure 4))).vehicles[2].waiting =
      some (.tenure 4)) := by decide

/-! ## The fleet link, the arbiter and the hall seconds -/

/-- FleetLinkFramesAndQueue: an 11-field frame that enters; an unfitted vehicle, a full buffer, UNCONFIGURED; N of 1 and 14, a bad sum; nothing to be finished and no waiting order, and a frame to be finished. -/
theorem witness_FleetLinkFramesAndQueue :
    (hall.lineBytes = [] ∧ (List.replicate 11 (0 : Byte)).length ≤ 11 ∧
      byteOf ((List.replicate 11 (0 : Byte)).length + 2) + byteOf (3 : VehicleNo).val + 4 +
        (List.replicate 11 (0 : Byte)).sum + 236 = 0 ∧
      hall.device = .ready ∧ (3 : VehicleNo).val < hall.working.fleet.fitted ∧ hall.received.length < 8) ∧
    (hall.working.fleet.fitted ≤ (4 : VehicleNo).val ∧
      8 ≤ ({ hall with received := List.replicate 8 ⟨0, 4, []⟩ } : State).received.length ∧
      (inDevice .unconfigured).device ≠ .ready) ∧
    (([5, 0] : List Byte).length = 1 + 1 ∧ 0x7E ∉ ([5, 0] : List Byte) ∧ 1 < 2) ∧
    ((List.replicate 15 (0 : Byte)).length = 14 + 1 ∧ 0x7E ∉ List.replicate 15 (0 : Byte) ∧ 13 < 14) ∧
    (([0, 4, 0] : List Byte).length = 2 + 1 ∧ 0x7E ∉ ([0, 4, 0] : List Byte) ∧
      byteOf 2 + ([0, 4, 0] : List Byte).sum ≠ 0) ∧
    (∃ t, exec (.fleetFrame [0x7E]) hall = .next t) ∧ (hall.finishing = none ∧ hall.waiting = []) ∧
    ({ hall with finishing := some ⟨0, .ack 1⟩ } : State).finishing = some ⟨0, .ack 1⟩ := by
  refine ⟨by decide, by decide, by decide, by decide, by decide, ⟨_, rfl⟩, ⟨rfl, rfl⟩, rfl⟩

/-- R101, R107: the frame a floor reset left to be finished ends without taking the instruction queued since, whose own frame then takes it. -/
theorem test_instruction_waits_for_its_own_frame :
    (after .instructionSent { hall with finishing := some ⟨0, .ack 1⟩, outbound := [⟨3, .ack 4⟩] }).outbound =
      [⟨3, .ack 4⟩] ∧
    (after .instructionSent (after .instructionSent
      { hall with finishing := some ⟨0, .ack 1⟩, outbound := [⟨3, .ack 4⟩] })).outbound = [] ∧
    ({ hall with finishing := some ⟨0, .ack 1⟩, outbound := [⟨3, .ack 4⟩] } : State).sending = some ⟨0, .ack 1⟩ := by
  decide

/-- R103, R184: the frame of a GRANT sums to 0 after its start byte. -/
theorem test_grant_frame :
    Instruction.frame ⟨3, .grant 1⟩ = [0x7E, 3, 3, 0x42, 1, 0xB7] := by decide

/-- BadReportsRefused: an unknown kind at both ends, fields out of range by one; each report from an OFFLINE vehicle, from a FAULTED one, and AT_PLACE and DROPPED without an order to end; three free places. -/
theorem witness_BadReportsRefused :
    (hear hall 1 0 []).Takes 1 0 [] [] ∧ ((hear hall 1 9 []).Takes 1 9 [] [] ∧ 8 < (9 : Byte).toNat) ∧
    ((hear hall 1 4 [0]).Takes 1 4 [0] [] ∧ ([0] : List Byte) ≠ []) ∧
    3 < num [4, 0, 0, 0, 0, 0, 0] 0 1 ∧ (2 ≤ num [2, 0, 0, 0, 0, 0, 8] 0 1 ∧ 7 < num [2, 0, 0, 0, 0, 0, 8] 6 1) ∧
    (num [1, 0, 0, 0, 0, 0, 0] 0 1 % 2 = 1 ∧ num [1, 0, 0, 0, 0, 0, 0] 1 5 = 0) ∧ 4 < num [5, 0] 0 1 ∧
    (num [1, 32] 0 1 = 1 ∧ 31 < num [1, 32] 1 1) ∧ (num [3, 8] 0 1 = 3 ∧ 7 < num [3, 8] 1 1) ∧ num [0, 0, 0, 0, 0] 0 5 = 0 ∧ num [0] 0 1 = 0 ∧
    9999999999 < num (beBytes 5 10000000000) 0 5 ∧
    (hear hall 1 7 [0]).Takes 1 7 [0] [] ∧ (hear hall 1 1 [4, 0, 0, 0, 0, 0, 0]).Takes 1 1 [4, 0, 0, 0, 0, 0, 0] [] ∧
    (hall.vehicles[1].state = .offline ∧ (hear hall 1 2 Place.dock.bytes).Takes 1 2 Place.dock.bytes [] ∧
      (∀ w, Place.dock ≠ .vehicle w) ∧
      (hear hall 1 3 (beBytes 5 9999999999)).Takes 1 3 (beBytes 5 9999999999) [] ∧
      num (beBytes 5 9999999999) 0 5 ≤ 9999999999 ∧ (hear hall 1 8 []).Takes 1 8 [] [] ∧
      (hear hall 1 7 [1]).Takes 1 7 [1] [] ∧ 1 ≤ num [1] 0 1) ∧
    ((withVehicle hall .faulted false).vehicles[1].state = .faulted ∧
      (hear (withVehicle hall .faulted false) 1 6 []).Takes 1 6 [] []) ∧
    ((withVehicle hall .idle false).vehicles[1].state = .idle ∧
      (hear (withVehicle hall .idle false) 1 4 []).Takes 1 4 [] [] ∧
      (hear (withVehicle hall .idle false) 1 2 (Place.lane 31).bytes).Takes 1 2 (Place.lane 31).bytes []) ∧
    ((storing .laden .laden true).vehicles[1].state = .laden ∧
      (hear (storing .laden .laden true) 1 4 []).Takes 1 4 [] []) ∧
    (crowded hall 29).outboundFree < 4 ∧ hall.received = [] ∧ (crowded (hear hall 1 4 []) 28).Takes 1 4 [] [] := by
  and_intros <;> decide

/-- The fields of an ONLINE. -/
def onlineFields (presence : Byte) (tag : Nat) (aisle : Byte) : List Byte := presence :: (beBytes 5 tag ++ [aisle])

/-- Vehicle 1 FAULTED with roll 0 and its order, LADEN before. -/
def faulted : State :=
  let s := storing .laden .laden true
  { s with vehicles := s.vehicles.set 1 ⟨.faulted, some 0, some 0, none, some .laden, 17⟩ }

/-- OnlineBringsVehicleBack: without tag and aisle, at a FREE and at a taken aisle, with a tag; with a roll, its tag and an aisle; from FAULTED without an order and with an order and a roll; and IDLE. -/
theorem witness_OnlineBringsVehicleBack :
    (hall.vehicles[1].state = .offline ∧ hall.vehicles[1].roll = none ∧ (beBytes 5 0).length = 5 ∧
      (hear hall 1 1 (onlineFields 0 0 9)).Takes 1 1 (onlineFields 0 0 9) [] ∧
      (hear hall 1 1 (onlineFields 2 0 7)).Takes 1 1 (onlineFields 2 0 (byteOf 7)) [] ∧ hall.aisles[7].mode = .free ∧
      (withAisle hall 7 ⟨some 2, .parked, [], .none⟩).aisles[7].mode ≠ .free ∧
      (hear hall 1 1 (onlineFields 1 5 0)).Takes 1 1 (onlineFields 1 5 0) []) ∧
    ((withVehicle docked .offline true).vehicles[1].state = .offline ∧
      (withVehicle docked .offline true).vehicles[1].roll = some 0 ∧
      ((withVehicle docked .offline true).roll? 0).map Roll.tag = some 5230114006 ∧
      (hear (withVehicle docked .offline true) 1 1 (onlineFields 0 0 0)).Takes 1 1 (onlineFields 0 0 0) [] ∧
      (hear (withVehicle docked .offline true) 1 1 (onlineFields 1 5230114006 0)).Takes 1 1
        (onlineFields 1 5230114006 0) [] ∧
      (hear (withVehicle docked .offline true) 1 1 (onlineFields 3 5230114006 7)).Takes 1 1
        (onlineFields 3 5230114006 7) []) ∧
    (({ hall with vehicles := hall.vehicles.set 1 ⟨.faulted, none, none, none, some .idle, 17⟩ } : State).vehicles[1].beforeFault =
      some .idle) ∧
    ((hear faulted 1 1 (onlineFields 3 5230114006 4)).Takes 1 1 (onlineFields 3 5230114006 4) [] ∧
      (faulted.roll? 0).map Roll.tag = some 5230114006 ∧
      faulted.orders[0] = some (order .putaway .laden .dock (.lane 9))) ∧
    ((withVehicle hall .idle false).vehicles[1].state ≠ .offline ∧
      (withVehicle hall .idle false).vehicles[1].state ≠ .faulted ∧
      (hear (withVehicle hall .idle false) 1 1 (onlineFields 0 0 0)).Takes 1 1 (onlineFields 0 0 0) []) := by
  and_intros <;> decide

/-- 05, worked example: back online after a floor reset: ONLINE naming aisle 2 parks the vehicle there. -/
theorem test_online_parks_in_a_free_aisle :
    (after .online (hear hall 3 1 (onlineFields 2 0 2))).aisles[2] = ⟨some 3, .parked, [], .none⟩ ∧
    (after .online (hear hall 3 1 (onlineFields 2 0 2))).idle = [3] ∧
    (after .online (hear hall 3 1 (onlineFields 2 0 2))).outbound = [⟨3, .ack 1⟩] := by decide

/-- Vehicle 1 on a PUTAWAY order, waiting for tenure or at an arm, or faulted. -/
def troubled (vs : VehicleState) (w : Option Wait) : State :=
  let s := storing .laden vs true
  { s with vehicles := s.vehicles.set 1 { s.vehicles[1] with waiting := w } }

/-- Vehicle 1 idle in aisle 4, where vehicle 2 waits in a state. -/
def waitedFor (vs : VehicleState) : State :=
  withAisle (second (withVehicle (stored 9) .idle false) .feed (.lane 9) (.arm 5 .A) vs (some (.tenure 4))) 4
    ⟨some 1, .working, [2], .none⟩

/-- FaultAndOfflineReports: a second FAULT; one from an idle vehicle, from one with an order, from one that waits; OFFLINE without tenure, with it and no waiter, with a waiter in LOADING, OUTBOUND and LADEN, and with an order. Code 1 and 255. -/
theorem witness_FaultAndOfflineReports :
    ((hear (withVehicle hall .faulted false) 1 7 [byteOf 1]).Takes 1 7 [byteOf 1] [] ∧
      (withVehicle hall .faulted false).vehicles[1].state = .faulted) ∧
    ((hear (withVehicle hall .idle false) 1 7 [byteOf 255]).Takes 1 7 [byteOf 255] [] ∧
      (withVehicle hall .idle false).vehicles[1].waiting = none ∧
      (withVehicle hall .idle false).vehicles[1].order = none) ∧
    ((troubled .laden (some (.armBusy 5 .B))).vehicles[1].waiting = some (.armBusy 5 .B) ∧
      (troubled .laden (some (.tenure 4))).vehicles[1].waiting = some (.tenure 4) ∧
      (troubled .laden none).vehicles[1].order = some 0 ∧
      (troubled .laden none).orders[0] = some (order .putaway .laden .dock (.lane 9))) ∧
    ((hear (withVehicle hall .idle false) 1 8 []).Takes 1 8 [] [] ∧ (withVehicle hall .idle false).HoldsNone 1) ∧
    ((withAisle (withVehicle hall .idle false) 4 ⟨some 1, .parked, [], .none⟩).HoldsOnly 1 4 ∧
      (withAisle (withVehicle hall .idle false) 4 ⟨some 1, .parked, [], .none⟩).aisles[4].waiting = []) ∧
    ((waitedFor .loading).HoldsOnly 1 4 ∧ (waitedFor .loading).aisles[4].waiting = 2 :: [] ∧
      (2 : VehicleNo) ≠ 1 ∧ (waitedFor .loading).vehicles[1].state = .idle ∧
      (waitedFor .loading).vehicles[2].state = .loading ∧ (waitedFor .outbound).vehicles[2].state = .outbound ∧
      (waitedFor .laden).vehicles[2].state = .laden ∧
      ((waitedFor .laden).orders[1]).map Order.number = some 2) ∧
    ((hear (troubled .laden none) 1 8 []).Takes 1 8 [] [] ∧ (troubled .laden none).vehicles[1].state = .laden) := by
  decide

/-- Vehicle 1 on a FEED order of the front of lane 9, OUTBOUND. -/
def driving : State := feeding .assigned .outbound

/-- Vehicle 1 LADEN on a FEED order to arm B of stand 5, which is reserved to it or not. -/
def delivering (status : ArmStatus) (reserved : Bool) : State :=
  onOrder (let s := press .loaded 2000 status false
    { s with
      rolls := [(0, reel), (2, { reel' with state := .running, location := .arm 5 .A, remaining := 2000 })]
      stands := s.stands.set 5 { s.stands[5] with
        armA := ⟨.running, some 2, none⟩
        armB := ⟨status, none, if reserved then some 0 else none⟩ } })
    (order .feed .laden (.lane 9) (.arm 5 .B)) .laden true

/-- Vehicle 1 on a FEED order of the front of lane 9, OUTBOUND, with an aisle 4 record. -/
def arriving (a : Aisle) : State := withAisle driving 4 a

/-- The record of an aisle that vehicle 1 holds, in a mode, behind which vehicle 3 waits or not. -/
def own (mode : AisleMode) (waiting : List VehicleNo) : Aisle := ⟨some 1, mode, waiting, .running 3⟩

/-- Vehicle 1 LOADING on a FEED order of the front of lane 9, with an aisle 4 record. -/
def picking (a : Aisle) : State := withAisle (feeding .loading .loading) 4 a

/-- ArrivalAtPlace: the dock, an arm reserved to the order and one that is not, a lane in each mode of its aisle, by another holder and by the vehicle's own tenure, driving, LOADING and UNLOADING, tenure of another aisle, a repeated arrival, and another place. -/
theorem witness_ArrivalAtPlace :
    ((hear (storing .assigned .outbound false) 1 2 Place.dock.bytes).Takes 1 2 Place.dock.bytes [] ∧
      (storing .assigned .outbound false).vehicles[1].order = some 0 ∧
      (storing .assigned .outbound false).orders[0] = some (order .putaway .assigned .dock (.lane 9)) ∧
      (order .putaway .assigned .dock (.lane 9)).source = .dock ∧ ∀ l : LaneNo, Place.dock ≠ .lane l) ∧
    ((hear (delivering .reserved true) 1 2 (Place.arm 5 .B).bytes).Takes 1 2 (Place.arm 5 .B).bytes [] ∧
      (delivering .reserved true).vehicles[1].state = .laden ∧
      ((delivering .reserved true).stands[5].arm .B).status = .reserved ∧
      ((delivering .reserved true).stands[5].arm .B).reservation = some 0) ∧
    ((hear (delivering .stub true) 1 2 (Place.arm 5 .B).bytes).Takes 1 2 (Place.arm 5 .B).bytes [] ∧
      ((delivering .stub true).stands[5].arm .B).status ≠ .reserved) ∧
    ((hear driving 1 2 (Place.lane 9).bytes).Takes 1 2 (Place.lane 9).bytes [] ∧ driving.HoldsNone 1 ∧
      driving.working.lanes[9].aisle = 4 ∧ driving.aisles[4].mode = .free) ∧
    ((arriving ⟨some 2, .parked, [], .none⟩).HoldsNone 1 ∧
      (arriving ⟨some 2, .parked, [], .none⟩).aisles[4].mode = .parked) ∧
    ((arriving ⟨some 2, .working, [3], .none⟩).aisles[4].mode = .working ∧
      (1 : VehicleNo) ∉ (arriving ⟨some 2, .working, [3], .none⟩).aisles[4].waiting ∧
      (order .feed .assigned (.lane 9) (.arm 5 .A)).kind.cls = .urgent) ∧
    ((1 : VehicleNo) ∈ (arriving ⟨some 2, .calledOff, [3, 1], .none⟩).aisles[4].waiting ∧
      (arriving ⟨some 2, .calledOff, [3, 1], .none⟩).aisles[4].mode = .calledOff) ∧
    ((hear (storing .laden .laden true) 1 2 (Place.lane 9).bytes).Takes 1 2 (Place.lane 9).bytes [] ∧
      (order .putaway .laden .dock (.lane 9)).kind.cls = .normal) ∧
    ((arriving (own .parked [])).HoldsOnly 1 4 ∧ (arriving (own .parked [])).vehicles[1].state = .outbound ∧
      (arriving (own .calledOff [3])).HoldsOnly 1 4 ∧ (arriving (own .working [])).aisles[4].mode = .working) ∧
    ((hear (picking (own .working [])) 1 2 (Place.lane 9).bytes).Takes 1 2 (Place.lane 9).bytes [] ∧
      (picking (own .working [])).HoldsOnly 1 4 ∧ (picking (own .working [])).vehicles[1].state = .loading ∧
      (picking Aisle.empty).HoldsNone 1) ∧
    ((withAisle driving 2 ⟨some 1, .working, [], .none⟩).HoldsOnly 1 2 ∧
      (2 : AisleNo) ≠ driving.working.lanes[9].aisle) ∧
    ((hear (storing .loading .loading false) 1 2 Place.dock.bytes).Takes 1 2 Place.dock.bytes [] ∧
      (storing .loading .loading false).vehicles[1].state = .loading) ∧
    ((hear driving 1 2 Place.exitBay.bytes).Takes 1 2 Place.exitBay.bytes [] ∧
      (order .feed .assigned (.lane 9) (.arm 5 .A)).source ≠ .exitBay) := by
  and_intros <;> decide

/-- R111: the holder of a CALLED_OFF aisle that arrives again is granted it, the mode kept and the counter reloaded. -/
theorem test_arrival_of_the_own_holder :
    (after .atPlace (hear (arriving (own .calledOff [3])) 1 2 [1, 9])).aisles[4] = ⟨some 1, .calledOff, [3], .running 30⟩ ∧
    (after .atPlace (hear (arriving (own .calledOff [3])) 1 2 [1, 9])).vehicles[1].state = .loading ∧
    (after .atPlace (hear (picking (own .working [])) 1 2 [1, 9])).aisles[4] = own .working [] ∧
    (after .atPlace (hear (picking (own .working [])) 1 2 [1, 9])).outbound = [⟨1, .ack 2⟩] := by decide

/-- 06, worked example: the arrival at a PARKED aisle calls its holder off, and both are told. -/
theorem test_arrival_calls_off_the_parked_holder :
    (after .atPlace (hear (arriving ⟨some 2, .parked, [], .none⟩) 1 2 [1, 9])).aisles[4] =
      ⟨some 2, .calledOff, [1], .running 30⟩ ∧
    (after .atPlace (hear (arriving ⟨some 2, .parked, [], .none⟩) 1 2 [1, 9])).outbound =
      [⟨1, .waitTenure 4⟩, ⟨2, .leave 4⟩] := by decide

/-- The tag of roll 0 as a vehicle reads it. -/
def tagRead : List Byte := beBytes 5 5230114006

/-- PickTakesTheRoll: a wrong tag; the dock; a lane without tenure, empty, with another front, and with the roll in front; an arm without and with a vehicle that waits; and an idle vehicle. -/
theorem witness_PickTakesTheRoll :
    ((hear (storing .loading .loading false) 1 3 (beBytes 5 1)).Takes 1 3 (beBytes 5 1) [] ∧
      (storing .loading .loading false).vehicles[1].state = .loading ∧
      (storing .loading .loading false).vehicles[1].order = some 0 ∧
      (storing .loading .loading false).orders[0] = some (order .putaway .loading .dock (.lane 9)) ∧
      ((storing .loading .loading false).roll? 0).map Roll.tag = some 5230114006) ∧
    (hear (storing .loading .loading false) 1 3 tagRead).Takes 1 3 (beBytes 5 5230114006) [] ∧
    ((hear (feeding .loading .loading) 1 3 tagRead).Takes 1 3 tagRead [] ∧
      (feeding .loading .loading).aisles[(feeding .loading .loading).working.lanes[9].aisle].holder ≠ some 1) ∧
    ((picking ⟨some 1, .working, [], .none⟩).aisles[4].holder = some 1 ∧
      (picking ⟨some 1, .working, [], .none⟩).lanes[9].contents = 0 :: []) ∧
    ({ picking ⟨some 1, .working, [], .none⟩ with lanes := hall.lanes } : State).lanes[9].contents = [] ∧
    ({ picking ⟨some 1, .working, [], .none⟩ with lanes := hall.lanes.set 9 ⟨some paper, [7, 0], 0⟩ } : State).lanes[9].contents =
      7 :: [0] ∧
    ((hear (clearing none) 1 3 tagRead).Takes 1 3 tagRead [] ∧
      ∀ w : VehicleNo, (clearing none).vehicles[w].waiting ≠ some (.armBusy 5 .B)) ∧
    ((∀ u : VehicleNo, (clearing (some (.armBusy 5 .B))).vehicles[u].waiting = some (.armBusy 5 .B) ↔ u = 2) ∧
      (clearing (some (.armBusy 5 .B))).vehicles[2].order = some 1 ∧
      ((clearing (some (.armBusy 5 .B))).orders[1]).map Order.number = some 2) ∧
    ((hear (withVehicle hall .idle false) 1 3 (beBytes 5 9999999999)).Takes 1 3 (beBytes 5 9999999999) [] ∧
      (withVehicle hall .idle false).vehicles[1].state = .idle) := by
  and_intros <;> decide

/-- 05, worked example: an arm wait: the stub's pick makes the arm RESERVED and sends RESUME to the vehicle that waits. -/
theorem test_pick_of_a_stub_resumes_the_waiting_vehicle :
    ((after .picked (hear (clearing (some (.armBusy 5 .B))) 1 3 tagRead)).stands[5].armB = ⟨.reserved, none, some 1⟩) ∧
    (after .picked (hear (clearing (some (.armBusy 5 .B))) 1 3 tagRead)).outbound = [⟨1, .ack 3⟩, ⟨2, .resume 2⟩] := by
  decide

/-- Vehicle 1 UNLOADING the paper or another width at arm B of stand 5, the stand in a state. -/
def dropping (st : StandState) (width : Nat) : State :=
  let s := onOrder (delivering .reserved true) (order .feed .unloading (.lane 9) (.arm 5 .B)) .unloading true
  { s with
    rolls := tableModify s.rolls 0 fun r => { r with width := width }
    stands := s.stands.set 5 { s.stands[5] with state := st } }

/-- Vehicle 1 UNLOADING at a place, with the tenure of aisle 4 or without. -/
def unloadingAt (dest : Place) (tenure : Bool) : State :=
  withAisle (onOrder { docked with dock := [], lanes := hall.lanes.set 9 ⟨some paper, [], 1⟩ }
    (order .remove .unloading .dock dest) .unloading true) 4
    (if tenure then ⟨some 1, .working, [], .none⟩ else ⟨none, .free, [], .none⟩)

/-- DropCompletesTheOrder: the exit bay, a lane with and without tenure, and an arm: MISMATCH, READY, and the splice of a stand in SPLICE_DUE. -/
theorem witness_DropCompletesTheOrder :
    ((hear (unloadingAt .exitBay false) 1 4 []).Takes 1 4 [] [] ∧
      (unloadingAt .exitBay false).vehicles[1].state = .unloading ∧
      (unloadingAt .exitBay false).vehicles[1].order = some 0 ∧
      (unloadingAt .exitBay false).orders[0] = some (order .remove .unloading .dock .exitBay) ∧
      (unloadingAt .exitBay false).roll? 0 =
        some { reel with state := .carried, location := .vehicle 1, claim := some 0 }) ∧
    (unloadingAt (.lane 9) true).aisles[(unloadingAt (.lane 9) true).working.lanes[9].aisle].holder = some 1 ∧
    (unloadingAt (.lane 9) false).aisles[(unloadingAt (.lane 9) false).working.lanes[9].aisle].holder ≠ some 1 ∧
    ((hear (dropping .loaded 1600) 1 4 []).Takes 1 4 [] [] ∧
      (dropping .loaded 1600).requirement 5 ≠ some ⟨3, 1600⟩ ∧
      ((dropping .loaded 1600).roll? 0).map Roll.width = some 1600) ∧
    ((dropping .loaded 1400).requirement 5 = some ⟨3, 1400⟩ ∧ (dropping .loaded 1400).stands[5].state ≠ .spliceDue) ∧
    ((dropping .spliceDue 1400).stands[5].state = .spliceDue ∧
      (dropping .spliceDue 1400).stands[5].running = some Arm.B.other) := by
  and_intros <;> decide

/-- 07, worked example: a late standby: the drop at a stand in SPLICE_DUE starts the splice with the full window. -/
theorem test_late_standby_starts_the_splice :
    (after .dropped (hear (dropping .spliceDue 1400) 1 4 [])).stands[5].state = .splicing ∧
    (after .dropped (hear (dropping .spliceDue 1400) 1 4 [])).stands[5].window = 40 ∧
    (after .dropped (hear (dropping .spliceDue 1400) 1 4 [])).spliceCommand 5 = true := by decide

/-- ClearAndParkReports: without tenure, with it and no waiter, with a waiter that is LOADING, OUTBOUND and LADEN; PARK with an order. -/
theorem witness_ClearAndParkReports :
    ((hear (withVehicle hall .idle false) 1 5 []).Takes 1 5 [] [] ∧
      (withVehicle hall .idle false).vehicles[1].state ≠ .offline ∧ (withVehicle hall .idle false).HoldsNone 1) ∧
    ((withAisle (withVehicle hall .idle false) 4 ⟨some 1, .working, [], .none⟩).HoldsOnly 1 4 ∧
      (withAisle (withVehicle hall .idle false) 4 ⟨some 1, .working, [], .none⟩).aisles[4].waiting = []) ∧
    ((waitedFor .loading).HoldsOnly 1 4 ∧ (waitedFor .loading).aisles[4].waiting = 2 :: [] ∧
      (waitedFor .loading).vehicles[2].state = .loading) ∧
    ((waitedFor .outbound).vehicles[2].state = .outbound ∧ (waitedFor .outbound).vehicles[2].order = some 1 ∧
      ((waitedFor .outbound).orders[1]).map Order.number = some 2) ∧
    (waitedFor .laden).vehicles[2].state = .laden ∧
    ((hear (withVehicle hall .idle false) 1 6 []).Takes 1 6 [] [] ∧
      (withVehicle hall .idle false).vehicles[1].state = .idle) ∧
    ((hear driving 1 6 []).Takes 1 6 [] [] ∧ driving.vehicles[1].state = .outbound) := by decide

/-- 06, worked example: CLEAR hands the aisle to the head of its waiting list with GRANT. -/
theorem test_clear_hands_the_aisle_on :
    (after .clear (hear (waitedFor .outbound) 1 5 [])).aisles[4] = ⟨some 2, .working, [], .running 30⟩ ∧
    (after .clear (hear (waitedFor .outbound) 1 5 [])).outbound = [⟨1, .ack 5⟩, ⟨2, .grant 4⟩] := by decide

/-- A hall with an increment of half the modulus, a deadline and a tenure counter running. -/
def timed (acc deadline tenure : Nat) : State :=
  let s := withAisle driving 4 ⟨some 1, .working, [], .running tenure⟩
  { s with
    hallIncrement := 2147483648, hallAccumulator := acc
    orders := s.orders.set 0 (some { order .feed .assigned (.lane 9) (.arm 5 .A) with deadline := .running deadline }) }

/-- RefclkEdgeTicksCounters: a sum one below the modulus and at it; counters at 1 and at 2. -/
theorem witness_RefclkEdgeTicksCounters :
    (timed 2147483647 2 2).hallAccumulator + (timed 2147483647 2 2).hallIncrement < 4294967296 ∧
    4294967296 ≤ (timed 2147483648 1 2).hallAccumulator + (timed 2147483648 1 2).hallIncrement ∧
    ((timed 2147483648 1 2).orders[0]).map Order.deadline = some (.running 1) ∧
    (timed 2147483648 1 2).aisles[4].counter = .running 2 ∧ (timed 2147483648 2 1).aisles[4].counter = .running 1 ∧
    (timed 2147483648 1 2).orders[1] = none ∧ (timed 2147483648 1 2).aisles[3].counter = .none := by decide

/-- R75, R76, R118: an edge below the modulus adds the increment alone; a tick expires a counter at 1 with its notice. -/
theorem test_tick :
    (after .refclkEdge (timed 5 1 2)).hallAccumulator = 2147483653 ∧
    (after .refclkEdge (timed 5 1 2)).notices = [] ∧
    (((timed 0 1 2).tickDeadline 0).orders[0]).map Order.deadline = some .expired ∧
    ((timed 0 1 2).tickDeadline 0).notices = [⟨.orderStalled 0, 1, .order 1⟩] ∧
    ((timed 0 2 1).tickTenure 4).notices = [⟨.aisleBlocked 4, 1, .vehicle 1⟩] := by decide

/-- ExpiriesAreHallSeconds: an increment of 1 or more, a running and a stopped counter of each kind. -/
theorem witness_ExpiriesAreHallSeconds :
    (1 ≤ hall.hallIncrement ∧ hall.hallAccumulator < 4294967296) ∧
    ((timed 0 2 1).orders[0] =
        some { order .feed .assigned (.lane 9) (.arm 5 .A) with deadline := .running 2 } ∧
      1 ≤ (timed 0 2 1).hallIncrement) ∧
    (∀ k : OrderSlot, hall.orders[k] = none) ∧
    ((timed 0 2 1).aisles[4].counter = .running 1 ∧ (timed 0 2 1).aisles[4].holder = some 1) ∧
    hall.aisles[4].counter = .none := by decide

/-! ## The stands -/

/-- The hall with stand 5's running roll and one stand in OFF (stand 0), splicing with a window and no call-up mark. -/
def splicing (remaining window : Nat) : State :=
  let s := press .splicing remaining .ready true
  { s with stands := s.stands.set 5 { s.stands[5] with callUpMark := 0, window := window } }

/-- TrackingHoldAndSpliceWindow: a stand and a stand in OFF; SPLICE NOW in LOADED and in SPLICE_HELD, without a standby, and in SPLICING; a held stand; windows of 1 and 40. -/
theorem witness_TrackingHoldAndSpliceWindow :
    ((ask busy .holdTracking [byteOf 5]).Serves .holdTracking 7 [byteOf 5] [] ∧ busy.stands[5].state ≠ .off) ∧
    ((ask busy .holdTracking [byteOf 0]).Serves .holdTracking 7 [byteOf 0] [] ∧ busy.stands[0].state = .off) ∧
    (ask busy .releaseTracking [byteOf 5]).Serves .releaseTracking 7 [byteOf 5] [] ∧
    (ask busy .releaseTracking [byteOf 0]).Serves .releaseTracking 7 [byteOf 0] [] ∧
    ((ask busy .spliceNow [byteOf 5]).Serves .spliceNow 7 [byteOf 5] [] ∧ busy.stands[5].state = .loaded ∧
      busy.stands[5].running = some .A ∧ (busy.stands[5].arm Arm.A.other).status = .ready) ∧
    ((press .loaded 2000 .empty false).stands[5].arm Arm.A.other).status ≠ .ready ∧
    (splicing 41 40).stands[5].state = .splicing ∧
    ((inDevice .unconfigured).device ≠ .ready) ∧
    ((splicing 41 40).device = .ready ∧ (splicing 41 40).stands[5].trackingHold = false ∧
      (splicing 41 40).stands[5].running = some .A ∧ ((splicing 41 40).stands[5].arm .A).roll = some 0 ∧
      ((splicing 41 40).roll? 0).map Roll.remaining = some 41 ∧ (splicing 41 40).stands[5].window < 41 ∧
      (splicing 41 40).stands[5].callUpMark = 0) ∧
    (splicing 2 1).stands[5].window = 1 := by and_intros <;> decide

/-- R133: the last metre of the window ends SPLICING in SPLICE_HELD. -/
theorem test_splice_window_ends :
    (after (.spliceWindowExpiry 5) (splicing 100 1)).stands[5].state = .spliceHeld ∧
    (after (.spliceWindowExpiry 5) (splicing 100 1)).notices = [⟨.spliceFailed 5, 1, .metres 99⟩] := by decide

/-- MarkChecksOfRunningRoll: nothing to do; 0 m in LOADED, and in SPLICING with a standby that matches and one that does not; the splice mark reached with and without a standby; the call-up mark reached. -/
theorem witness_MarkChecksOfRunningRoll :
    ((press .loaded 1201 .ready true).runningRoll 5 =
        some { reel with state := .running, location := .arm 5 .A, remaining := 1201 } ∧
      (press .loaded 1201 .ready true).stands[5].CallUpQuiet 1201 ∧
      (press .loaded 1201 .ready true).stands[5].SpliceQuiet 1201) ∧
    ((stepping 0).stands[5].CallUpQuiet 0 ∧ (stepping 0).stands[5].state = .loaded) ∧
    ((splicing 0 40).stands[5].CallUpQuiet 0 ∧ (splicing 0 40).stands[5].state = .splicing ∧
      (splicing 0 40).requirement 5 = some ⟨3, 1400⟩ ∧ ((splicing 0 40).stands[5].arm Arm.A.other).roll = some 1) ∧
    ({ splicing 0 40 with jobs := hall.jobs } : State).requirement 5 ≠ some ⟨3, 1400⟩ ∧
    ((stepping 0).stands[5].CallUpQuiet 150 ∧ 150 ≤ (stepping 0).stands[5].spliceMark ∧
      (stepping 0).stands[5].spliceMark ≠ 0 ∧ ((stepping 0).stands[5].arm Arm.A.other).status = .ready) ∧
    ((press .loaded 150 .empty false).stands[5].arm Arm.A.other).status ≠ .ready ∧
    (¬ (press .loaded 1200 .empty false).stands[5].CallUpQuiet 1200 ∧
      (press .loaded 1200 .empty false).stands[5].SpliceQuiet 1200 ∧
      (press .loaded 1200 .empty false).feedArmClear 5 = true ∧
      (press .loaded 1200 .empty false).openFeed 5 = none ∧ 5 ∉ (press .loaded 1200 .empty false).demand) ∧
    (¬ (press .loaded 1200 .ready true).stands[5].CallUpQuiet 1200 ∧
      (press .loaded 1200 .ready true).feedArmClear 5 = false) := by and_intros <;> decide

/-- 07, worked example: a splice with a stub kept: at 1,200 m CALL_UP is posted and the empty feed arm's demand raised. -/
theorem test_call_up :
    ((press .loaded 1200 .empty false).markChecks 5).notices.map Notice.key = [.callUp 5, .feedShort 5] ∧
    ((press .loaded 1200 .empty false).markChecks 5).demand = [5] := by decide

/-- Stand 5 EMPTY with roll 1 as READY standby on arm B. -/
def threadable : State :=
  let s := press .empty 0 .ready true
  { s with stands := s.stands.set 5 { s.stands[5] with running := none, armA := ArmRecord.bare } }

/-- ThreadPromotesOrClears: the named arm and no name at an EMPTY stand; WEB_OUT with a standby, without one, with the running arm named; and a LOADED stand. -/
theorem witness_ThreadPromotesOrClears :
    ((ask threadable .thread [byteOf 5, optArm (some .B)]).Serves .thread 7 [byteOf 5, optArm (some .B)] [] ∧
      threadable.stands[5].state = .empty ∧ (threadable.stands[5].arm .B).status = .ready ∧
      (threadable.stands[5].arm .B).roll = some 1) ∧
    ((ask threadable .thread [byteOf 5, optArm none]).Serves .thread 7 [byteOf 5, optArm none] [] ∧
      threadable.stands[5].armA.status ≠ .ready) ∧
    ((ask (press .webOut 0 .ready true) .thread [byteOf 5, optArm none]).Serves .thread 7 [byteOf 5, optArm none] [] ∧
      (press .webOut 0 .ready true).stands[5].state = .webOut ∧
      (press .webOut 0 .ready true).stands[5].running = some .A ∧
      ((press .webOut 0 .ready true).stands[5].arm .A).roll = some 0 ∧
      ((press .webOut 0 .ready true).roll? 0).map Roll.remaining = some 0 ∧
      ((press .webOut 0 .ready true).stands[5].arm Arm.A.other).roll = some 1) ∧
    ((ask (press .webOut 0 .empty false) .thread [byteOf 5, optArm none]).Serves .thread 7 [byteOf 5, optArm none] [] ∧
      ((press .webOut 0 .empty false).stands[5].arm Arm.A.other).status ≠ .ready) ∧
    (ask (press .webOut 0 .ready true) .thread [byteOf 5, optArm (some .A)]).Serves .thread 7
      [byteOf 5, optArm (some .A)] [] ∧
    ((ask busy .thread [byteOf 5, optArm none]).Serves .thread 7 [byteOf 5, optArm none] [] ∧
      busy.stands[5].state ≠ .empty ∧ busy.stands[5].state ≠ .webOut) := by and_intros <;> decide

/-- StripAndSetMarks: lengths 0, 1 and 65,535; a stand in OFF; the running arm and the standby; marks that disagree and that agree. -/
theorem witness_StripAndSetMarks :
    (ask busy .strip (byteOf 5 :: Arm.code .A :: beBytes 2 0)).Serves .strip 7 (byteOf 5 :: Arm.code .A :: beBytes 2 0) [] ∧
    ((ask busy .strip (byteOf 0 :: Arm.code .A :: beBytes 2 1)).Serves .strip 7
      (byteOf 0 :: Arm.code .A :: beBytes 2 1) [] ∧ busy.stands[0].state = .off) ∧
    ((ask busy .strip (byteOf 5 :: Arm.code .A :: beBytes 2 65535)).Serves .strip 7
      (byteOf 5 :: Arm.code .A :: beBytes 2 65535) [] ∧ (busy.stands[5].arm .A).roll = some 0 ∧
      busy.stands[5].running = some .A) ∧
    ((ask busy .strip (byteOf 5 :: Arm.code .B :: beBytes 2 1)).Serves .strip 7
      (byteOf 5 :: Arm.code .B :: beBytes 2 1) [] ∧ (busy.stands[5].arm .B).roll = some 1 ∧
      busy.stands[5].running ≠ some .B) ∧
    (ask busy .setMarks (byteOf 5 :: (beBytes 2 1 ++ beBytes 2 2))).Serves .setMarks 7
      (byteOf 5 :: (beBytes 2 1 ++ beBytes 2 2)) [] ∧
    (ask busy .setMarks (byteOf 5 :: (beBytes 2 65535 ++ beBytes 2 65535))).Serves .setMarks 7
      (byteOf 5 :: (beBytes 2 65535 ++ beBytes 2 65535)) [] ∧
    (ask busy .setMarks (byteOf 0 :: (beBytes 2 0 ++ beBytes 2 2))).Serves .setMarks 7
      (byteOf 0 :: (beBytes 2 0 ++ beBytes 2 2)) [] := by and_intros <;> decide

/-- R13, R142: a strip removes at most what remains, and the job is charged what was removed. -/
theorem test_strip :
    (answerOf .strip (ask (press .loaded 40 .ready true) .strip [5, 0, 0, 50])).map Answer.fields =
      some [0, 40, 0, 0] ∧
    (after .strip (ask (press .loaded 40 .ready true) .strip [5, 0, 0, 50])).jobs[0].stripWaste = 40 ∧
    (after .strip (ask (press .loaded 40 .ready true) .strip [5, 0, 0, 50])).stands[5].state = .webOut := by decide

/-- Stand 2, with a measuring roller of 400 mm, runs roll 0 in a state, outside the plan or in it. -/
def rolling (st : StandState) (remaining fraction : Nat) (planned : Bool) : State :=
  { hall with
    rolls := [(0, { reel with state := .running, location := .arm 2 .A, remaining := remaining })]
    jobs := hall.jobs.set 0 { edition with
      plan := if planned then (Vector.replicate 8 none).set 2 (some paper) else Vector.replicate 8 none }
    stands := hall.stands.set 2
      { hall.stands[2] with
        state := st, running := some .A, armA := ⟨.running, some 0, none⟩, fraction := fraction } }

/-- RollerPulseStepsStand: a COPY stand, no running roll, a sum of 999 and of 1,000, with 2 m left and with 0 m in WEB_OUT, outside the plan and in it; a metre at which a mark check acts; in SPLICING a window of 40, and one of 1 with a standby that fits and one that does not. -/
theorem witness_RollerPulseStepsStand :
    hall.working.stands[5].source = .copy ∧ (hall.working.stands[2].source = .roller ∧ hall.runningRoll 2 = none) ∧
    ((rolling .loaded 2 599 false).device = .ready ∧ (rolling .loaded 2 599 false).stands[2].trackingHold = false ∧
      (rolling .loaded 2 599 false).stands[2].running = some .A ∧
      ((rolling .loaded 2 599 false).stands[2].arm .A).roll = some 0 ∧
      ((rolling .loaded 2 599 false).roll? 0).map Roll.remaining = some 2 ∧
      (rolling .loaded 2 599 false).stands[2].fraction + (rolling .loaded 2 599 false).working.stands[2].rollerIncrement <
        1000) ∧
    (1000 ≤ (rolling .loaded 2 600 false).stands[2].fraction +
        (rolling .loaded 2 600 false).working.stands[2].rollerIncrement ∧
      (rolling .loaded 2 600 false).stands[2].CallUpQuiet 1 ∧ (rolling .loaded 2 600 false).stands[2].SpliceQuiet 1 ∧
      (rolling .loaded 2 600 false).requirement 2 = none) ∧
    ((rolling .webOut 0 999 true).stands[2].state = .webOut ∧ (rolling .webOut 0 999 true).stands[2].CallUpQuiet 0 ∧
      (rolling .webOut 0 999 true).requirement 2 ≠ none ∧ (rolling .webOut 0 999 true).activeSlot = some 0) ∧
    ((stepping 600).stands[5].running = some .A ∧ ¬ (stepping 600).stands[5].SpliceQuiet 150) ∧
    ((splicing 50 40).stands[5].state = .splicing ∧ 2 ≤ (splicing 50 40).stands[5].window) ∧
    ((splicing 50 1).stands[5].window = 1 ∧ ((splicing 50 1).stands[5].arm Arm.A.other).status = .ready ∧
      ((splicing 50 1).stands[5].arm Arm.A.other).roll = some 1 ∧
      ((splicing 50 1).roll? 1).map Roll.kind = some paper ∧ (splicing 50 1).requirement 5 = some paper ∧
      ({ splicing 50 1 with jobs := hall.jobs } : State).requirement 5 ≠ some paper) := by
  and_intros <;> decide

/-- R8, R9: 600 mm and a pulse of 400 mm step the roll by one metre; below that the sum waits. -/
theorem test_roller_pulse :
    ((after (.rollerPulse 2) (rolling .loaded 2 600 true)).roll? 0).map Roll.remaining = some 1 ∧
    (after (.rollerPulse 2) (rolling .loaded 2 600 true)).stands[2].fraction = 0 ∧
    (after (.rollerPulse 2) (rolling .loaded 2 599 true)).stands[2].fraction = 999 ∧
    ((after (.rollerPulse 2) (rolling .webOut 0 600 true)).roll? 0).map Roll.overrun = some 1 := by decide

/-- SplicedPulseCompletesSplice: outside READY; unexpected in LOADED and in WEB_OUT without a standby; out of SPLICING at 100 m and at 101 m with a lane, and with no slot; out of WEB_OUT. -/
theorem witness_SplicedPulseCompletesSplice :
    (inDevice .loading).device ≠ .ready ∧ busy.stands[5].state = .loaded ∧
    ((press .webOut 0 .empty false).stands[5].running = some .A ∧
      ((press .webOut 0 .empty false).stands[5].arm Arm.A.other).status ≠ .ready) ∧
    ((splicing 100 40).stands[5].state = .splicing ∧ (splicing 100 40).stands[5].running = some .A ∧
      ((splicing 100 40).stands[5].arm .A).roll = some 0 ∧ ((splicing 100 40).roll? 0).map Roll.remaining = some 100 ∧
      100 ≤ (splicing 100 40).working.stands[5].stubThreshold ∧
      ((splicing 100 40).stands[5].arm Arm.A.other).status = .ready ∧
      ((splicing 100 40).stands[5].arm Arm.A.other).roll = some 1 ∧ ((splicing 100 40).roll? 1).isSome = true) ∧
    (((splicing 101 40).roll? 0).map Roll.remaining = some 101 ∧
      (splicing 101 40).working.stands[5].stubThreshold < 101 ∧
      (splicing 101 40).putAwayLane ⟨3, 1400⟩ none = some 8 ∧ (splicing 101 40).orders[0] = none) ∧
    (∀ c : OrderSlot, (fullOrders (splicing 101 40)).orders[c] ≠ none) ∧
    ((press .webOut 0 .ready true).stands[5].state = .webOut ∧
      ((press .webOut 0 .ready true).stands[5].arm Arm.A.other).status = .ready) := by and_intros <;> decide

/-- 07, worked example: a splice with a stub kept: the splice waste of 30 m is charged, the stub stays with a RETURN order, and the stand is LOADED. -/
theorem test_splice_keeps_the_stub :
    (after (.splicedPulse 5) (splicing 110 40)).stands[5].running = some .B ∧
    (after (.splicedPulse 5) (splicing 110 40)).stands[5].armA.status = .stub ∧
    (after (.splicedPulse 5) (splicing 110 40)).jobs[0].spliceWaste = 30 ∧
    (after (.splicedPulse 5) (splicing 110 40)).waiting = [0] := by decide

/-! ## The jobs -/

/-- The ACTIVE job alone in the hall, with these counts. -/
def counting (gross budget : Nat) (phase : Phase) (full : Bool) : State :=
  { hall with
    jobs := hall.jobs.set 0 { edition with
      gross := gross, good := gross, budget := budget, phase := phase, countFull := full } }

/-- CopyEventCounts: outside READY; no job; the count full and at its maximum; a good copy; a reject, and the one that reaches the budget; a stand that steps a metre and one that does not. -/
theorem witness_CopyEventCounts :
    (inDevice .unconfigured).device ≠ .ready ∧ hall.activeSlot = none ∧
    ((counting 0 0 .saleable true).activeSlot = some 0 ∧ (counting 0 0 .saleable true).jobs[0].countFull = true ∧
      ∀ n : StandNo, (counting 0 0 .saleable true).runningRoll n = none) ∧
    4294967295 ≤ (counting 4294967295 0 .saleable false).jobs[0].gross ∧
    ((counting 4294967294 0 .saleable false).jobs[0].gross < 4294967295 ∧
      (counting 4294967294 0 .saleable false).jobs[0].phase = .saleable) ∧
    ((counting 0 1 .startup false).jobs[0].phase = .startup ∧ (counting 0 1 .startup false).jobs[0].budget ≠ 0 ∧
      (counting 0 1 .startup false).jobs[0].budgetReached = false ∧
      (counting 0 1 .startup false).jobs[0].budget ≤ (counting 0 1 .startup false).jobs[0].reject + 1) ∧
    (counting 0 2 .startup false).jobs[0].reject + 1 < (counting 0 2 .startup false).jobs[0].budget ∧
    ((stepping 999).activeSlot = some 0 ∧ (stepping 999).jobs[0].cutoff ≤ 999 ∧
      (stepping 999).runningRoll 5 ≠ none ∧ (stepping 421).stands[5].fraction + 578 < 1000 ∧
      (stepping 422).stands[5].fraction + 578 = 1000 ∧
      ∀ n : StandNo, (stepping 999).stands[n].fraction < 1000) := by and_intros <;> decide

/-- R16, R158: the count stops at 4,294,967,295 with the flag set; a reject that reaches the budget raises the alarm. -/
theorem test_count_full_and_budget :
    (after (.copyEvent false) (counting 4294967295 0 .saleable false)).jobs[0].countFull = true ∧
    (after (.copyEvent false) (counting 4294967295 0 .saleable false)).jobs[0].gross = 4294967295 ∧
    (after (.copyEvent false) (counting 0 1 .startup false)).wasteAlarm = true ∧
    (after (.copyEvent false) (counting 0 1 .startup false)).notices = [⟨.budgetReached 0, 1, .job 1201⟩] := by decide

/-- The fields of a STAGE JOB with these entries and a budget of 40. -/
def stageFields (number cutoff : Nat) (entries : List (StandNo × GradeCode × Nat)) : List Byte :=
  beBytes 2 number ++ (beBytes 2 cutoff ++ (beBytes 4 40 ++
    (byteOf entries.length :: entries.flatMap fun e => byteOf e.1.val :: byteOf e.2.1.val :: beBytes 2 e.2.2)))

/-- The hall with every job slot in these states, numbers 1 to 4. -/
def slots (a b c d : JobState) : State :=
  { hall with jobs := #v[{ Job.freed with state := a, number := 1 }, { Job.freed with state := b, number := 2 },
      { Job.freed with state := c, number := 3 }, { Job.freed with state := d, number := 4 }] }

/-- StageJobFillsSlot: a cutoff of 299 and of 1,000; a stand in OFF; a number in use; no slot; the STAGED slot; the lowest FREE slot. Cutoffs 300 and 999 and widths 300 and 2,600 are taken. -/
theorem witness_StageJobFillsSlot :
    (ask hall .stageJob (stageFields 1 299 [])).Serves .stageJob 7 (stageFields 1 299 []) [] ∧
    (ask hall .stageJob (stageFields 65535 1000 [])).Serves .stageJob 7 (stageFields 65535 1000 []) [] ∧
    ((ask hall .stageJob (stageFields 1 300 [(0, 3, 300)])).Serves .stageJob 7 (stageFields 1 300 [(0, 3, 300)]) [] ∧
      hall.stands[0].state = .off ∧ hall.working.grades[3].defined = true) ∧
    ((ask (slots .active .closed .free .free) .stageJob (stageFields 2 999 [(5, 3, 2600), (2, 3, 300)])).Serves .stageJob 7
      (stageFields 2 999 [(5, 3, 2600), (2, 3, 300)]) [] ∧
      (slots .active .closed .free .free).jobs[1].number = 2 ∧
      ([((5 : StandNo), (3 : GradeCode), 2600), (2, 3, 300)].map Prod.fst).Nodup ∧
      hall.stands[5].state ≠ .off ∧ hall.stands[2].state ≠ .off) ∧
    ((ask (slots .active .closed .closed .closed) .stageJob (stageFields 5 999 [])).Serves .stageJob 7
      (stageFields 5 999 []) [] ∧
      (∀ i : JobSlot, (slots .active .closed .closed .closed).jobs[i].state = .active ∨
        (slots .active .closed .closed .closed).jobs[i].state = .closed) ∧
      ∀ i : JobSlot, (slots .active .closed .closed .closed).jobs[i].number ≠ 5) ∧
    ((slots .free .free .active .staged).jobs[3].state = .staged ∧
      ∀ i : JobSlot, i < 3 → (slots .free .free .active .staged).jobs[i].state ≠ .staged) ∧
    ((slots .closed .free .active .free).jobs[1].state = .free ∧
      (∀ i : JobSlot, (slots .closed .free .active .free).jobs[i].state ≠ .staged) ∧
      ∀ i : JobSlot, i < 1 → (slots .closed .free .active .free).jobs[i].state ≠ .free) := by and_intros <;> decide

/-- Job 1201 ACTIVE in slot 0 and job 1202 STAGED in slot 1 without a plan; an order waits to feed stand 5. -/
def changing : State :=
  { pairable false with
    idle := []
    demand := [2]
    jobs := (hall.jobs.set 0 edition).set 1 { Job.freed with state := .staged, number := 1202, cutoff := 560 } }

/-- Stand 5 at the press in a state, its standby of the paper; job 1201 ACTIVE, and job 1202 STAGED for a width. -/
def recasting (st : StandState) (status : ArmStatus) (width : Nat) : State :=
  { press st 2000 status true with
    jobs := (hall.jobs.set 0 edition).set 1 { edition with
      state := .staged, number := 1202, plan := (Vector.replicate 8 none).set 5 (some ⟨3, width⟩) } }

/-- The order that waits to feed stand 5, with job 1202 STAGED for another width of its stand. -/
def rewidthing : State :=
  { changing with
    jobs := (hall.jobs.set 0 edition).set 1 { edition with
      state := .staged, number := 1202, plan := (Vector.replicate 8 none).set 5 (some ⟨3, 1600⟩) } }

/-- ChangeoverActivatesStagedJob: no STAGED job, by request and by pulse and outside READY; a STAGED one with an ACTIVE one and a WAITING FEED order that does not fit, its stand outside the plan and in it; a READY standby that does not fit and one that does; a MISMATCH one that fits in LOADED and in SPLICE_DUE; and SPLICING. -/
theorem witness_ChangeoverActivatesStagedJob :
    ((ask hall .changeover []).Serves .changeover 7 [] [] ∧ ∀ j : JobSlot, hall.jobs[j].state ≠ .staged) ∧
    (inDevice .loading).device ≠ .ready ∧ hall.device = .ready ∧
    ((ask changing .changeover []).Serves .changeover 7 [] [] ∧ changing.jobs[1].state = .staged ∧
      changing.jobs[0].state = .active ∧ changing.device = .ready ∧
      changing.orders[0] = some (order .feed .waiting (.lane 9) (.arm 5 .A)) ∧
      (changing.roll? 0).map Roll.grade = some 3 ∧ changing.jobs[1].plan[5] ≠ some ⟨3, 1400⟩) ∧
    changing.JobsLegal ∧
    (rewidthing.JobsLegal ∧ rewidthing.jobs[1].plan[5] = some ⟨3, 1600⟩) ∧
    ((recasting .loaded .ready 1600).JobsLegal ∧ (recasting .loaded .ready 1600).stands[5].state = .loaded ∧
      ((recasting .loaded .ready 1600).stands[5].arm .B).status = .ready ∧
      ((recasting .loaded .ready 1600).stands[5].arm .B).roll = some 1 ∧
      ((recasting .loaded .ready 1600).roll? 1).map Roll.width = some 1400) ∧
    ((recasting .spliceDue .mismatch 1400).stands[5].state = .spliceDue ∧
      (recasting .spliceDue .mismatch 1400).stands[5].running = some Arm.B.other ∧
      ((recasting .spliceDue .mismatch 1400).roll? 1).map Roll.claim = some none) ∧
    (recasting .splicing .ready 1600).stands[5].state = .splicing := by
  unfold State.JobsLegal
  and_intros <;> decide

set_option maxRecDepth 8192 in
/-- R85, R141: the order that does not fit the new width is cancelled and its demand raised with FEED_SHORT; a standby that does not fit becomes MISMATCH, and one that fits starts the splice of a stand in SPLICE_DUE. -/
theorem test_changeover_recasts_the_stands :
    (after .changeoverPulse rewidthing).notices.map Notice.key = [.jobClosed 0, .orderCancelled 0, .feedShort 5] ∧
    (after .changeoverPulse rewidthing).demand = [5] ∧
    (after .changeoverPulse (recasting .loaded .ready 1600)).stands[5].armB.status = .mismatch ∧
    (after .changeoverPulse (recasting .loaded .ready 1600)).notices.map Notice.key =
      [.jobClosed 0, .standbyMismatch 5] ∧
    (after .changeoverPulse (recasting .spliceDue .mismatch 1400)).stands[5].state = .splicing := by decide

set_option maxRecDepth 4096 in
/-- 08, worked example: an edition change: the old job is CLOSED with JOB_CLOSED, the new one STARTUP, and the order that does not fit is cancelled. -/
theorem test_edition_change :
    (after .changeoverPulse changing).jobs[0].state = .closed ∧ (after .changeoverPulse changing).jobs[1].state = .active ∧
    (after .changeoverPulse changing).jobs[1].phase = .startup ∧
    (after .changeoverPulse changing).notices = [⟨.jobClosed 0, 1, .job 1201⟩, ⟨.orderCancelled 0, 1, .order 1⟩] ∧
    (after .changeoverPulse changing).demand = [] := by decide

/-- The fields of a SET BUDGET. -/
def budgetFields (j : JobSlot) (budget : Nat) : List Byte := byteOf j.val :: beBytes 4 budget

/-- The ACTIVE job with 4 rejects and its flag. -/
def spoilt (reached : Bool) : State :=
  { hall with jobs := hall.jobs.set 0 { edition with gross := 4, reject := 4, budgetReached := reached } }

/-- BudgetRetirementAndPhase: SET BUDGET on a FREE, a STAGED and the ACTIVE job, at 0, 4 and 5 against 4 rejects; RETIRE JOB with and without its notice; an edge without and with an ACTIVE job. -/
theorem witness_BudgetRetirementAndPhase :
    ((ask hall .setBudget (budgetFields 3 4294967295)).Serves .setBudget 7 (budgetFields 3 4294967295) [] ∧
      hall.jobs[3].state = .free) ∧
    ((ask changing .setBudget (budgetFields 1 0)).Serves .setBudget 7 (budgetFields 1 0) [] ∧
      changing.jobs[1].state = .staged) ∧
    ((ask (spoilt true) .setBudget (budgetFields 0 5)).Serves .setBudget 7 (budgetFields 0 5) [] ∧
      (spoilt true).jobs[0].state = .active ∧ (spoilt true).jobs[0].reject < 5) ∧
    ((ask (spoilt true) .setBudget (budgetFields 0 4)).Serves .setBudget 7 (budgetFields 0 4) [] ∧
      4 ≤ (spoilt true).jobs[0].reject ∧ (spoilt true).jobs[0].budgetReached = true) ∧
    ((ask (spoilt false) .setBudget (budgetFields 0 4)).Serves .setBudget 7 (budgetFields 0 4) [] ∧
      (spoilt false).jobs[0].budgetReached = false) ∧
    ((ask (slots .active .closed .free .free) .retireJob [byteOf 1]).Serves .retireJob 7 [byteOf 1] [] ∧
      (slots .active .closed .free .free).jobs[1].state = .closed ∧
      ∀ e ∈ (slots .active .closed .free .free).notices, e.key ≠ .jobClosed 1) ∧
    ((ask hall .retireJob [byteOf 0]).Serves .retireJob 7 [byteOf 0] [] ∧ hall.jobs[0].state ≠ .closed) ∧
    hall.activeSlot = none ∧ ((spoilt false).device = .ready ∧ (spoilt false).activeSlot = some 0) := by
  and_intros <;> decide

/-- R156: leaving SALEABLE counts a restart; R160: a budget of 40 clears the flag and releases the line. -/
theorem test_phase_and_budget :
    (after (.saleableEdge false) (spoilt false)).jobs[0].restarts = 1 ∧
    (after (.saleableEdge false) (spoilt false)).jobs[0].phase = .startup ∧
    (spoilt true).wasteAlarm = true ∧
    (after .setBudget (ask (spoilt true) .setBudget (budgetFields 0 40))).wasteAlarm = false := by decide

/-! ## The settings unit and the floor reset -/

/-- The hall with a store in flight. -/
def storingHall : State := { hall with store := some hallSettings }

set_option maxRecDepth 4096 in
/-- SettingsMemoryLoadsAndStores: a load that is not acknowledged, one with a wrong signature, one with a flag byte of 02h in each group and one of the hall's image; STORE and RELOAD without a memory, with a store in flight and without; a store in flight, its first and its last page write, and a memory of 285 bytes. -/
theorem witness_SettingsMemoryLoadsAndStores :
    ((inDevice .loading).device = .loading ∧ ([0xFF, 0xFF, 0xFF, 0xFF] : List Byte).take 4 ≠ [0xA7, 0x5C, 0x01, 0x19]) ∧
    (1 < num (Settings.default.image.set 79 2) (4 + 5 * 15) 1 ∧ 1 < num (Settings.default.image.set 177 2) (84 + 3 * 31) 1 ∧
      1 < num (Settings.default.image.set 264 2) (180 + 12 * 7) 1 ∧
      1 < num (Settings.default.image.set 265 2) (181 + 12 * 7) 1) ∧
    (∃ u, image? Settings.default.image = some u) ∧
    ((ask { hall with setmem := false } .storeSettings []).Serves .storeSettings 7 [] []) ∧
    ((ask { hall with store := some hallSettings } .storeSettings []).Serves .storeSettings 7 [] [] ∧
      hall.setmem = true) ∧
    ((ask hall .storeSettings []).Serves .storeSettings 7 [] [] ∧ hall.store = none) ∧
    (ask (inDevice .unconfigured) .reloadSettings []).Serves .reloadSettings 7 [] [] ∧
    (ask { inDevice .unconfigured with setmem := false } .reloadSettings []).Serves .reloadSettings 7 [] [] ∧
    (ask { inDevice .unconfigured with store := some hallSettings } .reloadSettings []).Serves .reloadSettings 7 [] [] ∧
    storingHall.store = some hallSettings ∧ (∃ w, storingHall.storeWrites[0]? = some w) ∧
    (∃ w, storingHall.storeWrites[17]? = some w) ∧ 285 ≤ (List.replicate 285 (0xFF : Byte)).length := by
  refine ⟨by decide, by decide, ⟨Settings.default, by decide⟩, by decide, by decide, by decide, by decide, by decide,
    by decide, rfl, ⟨_, rfl⟩, ⟨_, rfl⟩, by simp⟩

set_option maxRecDepth 4096 in
/-- R193: the first page write has 00h 00h for the signature and the length 0119h after it, the last takes 13 bytes to 272, and the signature write ends the store. -/
theorem test_store_write_order :
    (storingHall.storeWrites[0]?.map fun w => (w.address, w.data.take 4)) = some (0, [0x00, 0x00, 0x01, 0x19]) ∧
    (storingHall.storeWrites[17]?.map fun w => (w.address, w.data.length)) = some (272, 13) ∧
    (storingHall.storeWrites[18]?.map BusWrite.events) = some [.addressed 0x50 false, .sent 0x00, .sent 0x00,
      .sent 0xA7, .sent 0x5C, .stop] ∧
    storingHall.storeWrites.length = 19 := by
  decide

/-- R189: a read addresses the memory for writing, gives the address 0000h, addresses it for reading after a repeated start, and does not acknowledge its last byte. -/
theorem test_load_bus_cycle :
    loadEvents [0xA7, 0x5C] = [.addressed 0x50 false, .sent 0x00, .sent 0x00, .repeatedStart, .addressed 0x50 true,
      .received 0xA7 true, .received 0x5C false] := by
  decide

/-- The hall UNCONFIGURED. -/
def board : State := inDevice .unconfigured

/-- The fields of a SET STAND of stand 5. -/
def standFields (e : StandSetting) : List Byte :=
  byteOf 5 :: flagByte e.enabled :: e.source.code :: (beBytes 2 e.rollerIncrement ++ (beBytes 2 e.callUpMark ++
    (beBytes 2 e.spliceMark ++ (byteOf e.spliceWindow :: byteOf e.spliceWaste :: beBytes 2 e.stubThreshold))))

/-- The fields of a SET FLEET. -/
def fleetFields (f : FleetSetting) : List Byte :=
  byteOf f.fitted :: (beBytes 2 f.orderLimit ++ (beBytes 2 f.tenureLimit ++ beBytes 4 f.increment))

/-- SetAndCommitSettings: each group inside its ranges at both ends and outside by one; a valid and an invalid commit. -/
theorem witness_SetAndCommitSettings :
    (ask board .setGrade (byteOf 15 :: 0 :: (beBytes 2 0 ++ beBytes 2 0))).Serves .setGrade 7
      (byteOf 15 :: 0 :: (beBytes 2 0 ++ beBytes 2 0)) [] ∧
    (ask board .setGrade (byteOf 0 :: 1 :: (beBytes 2 20 ++ beBytes 2 400))).Serves .setGrade 7
      (byteOf 0 :: 1 :: (beBytes 2 20 ++ beBytes 2 400)) [] ∧
    (ask board .setGrade (byteOf 0 :: 2 :: (beBytes 2 20 ++ beBytes 2 400))).Serves .setGrade 7
      (byteOf 0 :: 2 :: (beBytes 2 20 ++ beBytes 2 400)) [] ∧
    (ask board .setLane [byteOf 31, flagByte true, byteOf 7, byteOf 20]).Serves .setLane 7
      [byteOf 31, flagByte true, byteOf 7, byteOf 20] [] ∧
    (ask board .setLane [byteOf 32, flagByte true, byteOf 7, byteOf 20]).Serves .setLane 7
      [byteOf 32, flagByte true, byteOf 7, byteOf 20] [] ∧
    (ask board .setStand (standFields ⟨true, .roller, 999, 65535, 0, 255, 255, 5000⟩)).Serves .setStand 7
      (standFields ⟨true, .roller, 999, 65535, 0, 255, 255, 5000⟩) [] ∧
    (ask board .setStand (standFields ⟨false, .copy, 1000, 0, 0, 1, 0, 0⟩)).Serves .setStand 7
      (standFields ⟨false, .copy, 1000, 0, 0, 1, 0, 0⟩) [] ∧
    (ask board .setFleet (fleetFields ⟨6, 3600, 600, 1⟩)).Serves .setFleet 7 (fleetFields ⟨6, 3600, 600, 1⟩) [] ∧
    (ask board .setFleet (fleetFields ⟨6, 29, 600, 1⟩)).Serves .setFleet 7 (fleetFields ⟨6, 29, 600, 1⟩) [] ∧
    ((ask board .commitSettings []).Serves .commitSettings 7 [] [] ∧ board.working.valid = true) ∧
    { hallSettings with lanes := hallSettings.lanes.set 4 ⟨true, 0, 0⟩ }.valid = false := by and_intros <;> decide

/-- 10, worked example: first start of a new board: a lane enabled with depth 0 is refused at the commit; with depth 12 the part is READY. -/
theorem test_first_start :
    (answerOf .commitSettings (ask { board with working := { hallSettings with
      lanes := hallSettings.lanes.set 4 ⟨true, 0, 0⟩ } } .commitSettings [])).map Answer.result = some .badField ∧
    (after .commitSettings (ask { board with working := { hallSettings with
      lanes := hallSettings.lanes.set 4 ⟨true, 0, 12⟩ } } .commitSettings [])).device = .ready := by decide

/-- SettingsImageRoundTrip: the hall's settings are valid and hold their undefined grades as 0. -/
theorem witness_SettingsImageRoundTrip :
    hallSettings.valid = true ∧
    ∀ g : GradeCode, hallSettings.grades[g].defined = false → hallSettings.grades[g] = ⟨false, 0, 0⟩ := by decide

/-- Stand 5 with its call-up raised and its feed arm EMPTY, in the web plan; two instructions wait. -/
def calling : State :=
  let s := crowded (press .loaded 1000 .empty false) 2
  { s with stands := s.stands.set 5 { s.stands[5] with callUpRaised := true } }

/-- FloorResetByDeviceState: the three device states, UNCONFIGURED within a period and without one; a stand whose demand is raised anew, and none; a SPLICING stand whose standby fits and one whose standby does not. -/
theorem witness_FloorResetByDeviceState :
    (inDevice .loading).device = .loading ∧ (board.device = .unconfigured ∧ board.period = none ∧ (selected board).period ≠ none) ∧
    (busy.device = .ready ∧ ∀ n : StandNo, busy.stands[n].callUpRaised = false) ∧
    (calling.device = .ready ∧ calling.requirement 5 ≠ none ∧ calling.stands[5].callUpRaised = true ∧
      (calling.stands[5].arm calling.stands[5].feedArm).status = .empty) ∧
    ((splicing 100 40).stands[5].state = .splicing ∧ (splicing 100 40).stands[5].running = some Arm.B.other ∧
      ((splicing 100 40).stands[5].arm .B).status = .ready ∧ ((splicing 100 40).stands[5].arm .B).roll = some 1 ∧
      ({ splicing 100 40 with jobs := hall.jobs } : State).requirement 5 ≠ some paper) := by and_intros <;> decide

set_option maxRecDepth 4096 in
/-- R41, R107, R146: in READY a carried roll stays on its vehicle without a claim, and SPLICING goes to SPLICE_HELD. -/
theorem test_floor_reset :
    ((after .floorReset (storing .laden .laden true)).roll? 0).map Roll.claim = some none ∧
    (after .floorReset (storing .laden .laden true)).vehicles[1] = ⟨.offline, none, some 0, none, none, 0⟩ ∧
    (after .floorReset (splicing 100 40)).stands[5].state = .spliceHeld := by decide

set_option maxRecDepth 4096 in
/-- R82, R86, R107: a floor reset raises the demand anew with FEED_SHORT; the instruction on the line is finished; a second floor reset keeps it while it is on the line, and after its end finishes the one that went onto the line. -/
theorem test_floor_reset_again :
    (after .floorReset calling).demand = [5] ∧
    (after .floorReset calling).notices = [⟨.feedShort 5, 1, .metres 1000⟩] ∧
    (after .floorReset calling).finishing = some ⟨0, .ack 1⟩ ∧
    (after .floorReset { after .floorReset calling with outbound := [⟨3, .ack 4⟩] }).finishing = some ⟨0, .ack 1⟩ ∧
    (after .floorReset (after .instructionSent
      { after .floorReset calling with outbound := [⟨3, .ack 4⟩] })).finishing = some ⟨3, .ack 4⟩ := by decide

end Sys2Proof.Tests
end

/-! PROOF. REGISTER ROLL creates its record: the request's fields read back, the checks of R28 pass, the lowest free slot takes the record. -/

namespace Sys2Proof.Machine

/-! ## The fields of the request -/

/-- A one-byte field behind a multi-byte field of `m` bytes. -/
theorem byteAt_behind (m n : Nat) (f : List Byte) (i : Nat) : byteAt (beBytes m n ++ f) (m + i) = byteAt f i :=
  num_behind m n f i 1

/-- The field bytes of a REGISTER ROLL: tag, grade, width, core, diameter, weight (R28). -/
def registerFields (t g w d D W : Nat) : List Byte :=
  beBytes 5 t ++ byteOf g :: (beBytes 2 w ++ byteOf d :: (beBytes 2 D ++ beBytes 2 W))

section
variable (t g w d D W : Nat)

theorem registerFields_length : (registerFields t g w d D W).length = 13 := by simp [registerFields]

theorem registerFields_tag (h : t < 256 ^ 5) : num (registerFields t g w d D W) 0 5 = t := num_head _ h

theorem registerFields_grade (h : g < 256) : byteAt (registerFields t g w d D W) 5 = g := by
  rw [registerFields, byteAt_behind 5 t _ 0, byteAt_zero, byteOf_toNat_of_lt h]

theorem registerFields_width (h : w < 256 ^ 2) : num (registerFields t g w d D W) 6 2 = w := by
  rw [registerFields, num_behind 5 t _ 1, num_succ, num_head _ h]

theorem registerFields_core (h : d < 256) : byteAt (registerFields t g w d D W) 8 = d := by
  rw [registerFields, byteAt_behind 5 t _ 3, byteAt_succ, byteAt_behind 2 w _ 0, byteAt_zero,
    byteOf_toNat_of_lt h]

theorem registerFields_diameter (h : D < 256 ^ 2) : num (registerFields t g w d D W) 9 2 = D := by
  rw [registerFields, num_behind 5 t _ 4, num_succ, num_behind 2 w _ 1, num_succ, num_head _ h]

theorem registerFields_weight (h : W < 256 ^ 2) : num (registerFields t g w d D W) 11 2 = W := by
  rw [registerFields, num_behind 5 t _ 6, num_succ, num_behind 2 w _ 3, num_succ, num_behind 2 D _ 0,
    num_whole h]

end

/-! ## The checks, the slot and the record -/

theorem figuresValid_iff (t w d D W : Nat) :
    figuresValid t w d D W = true ↔
      (1 ≤ t ∧ t ≤ 9999999999) ∧ (300 ≤ w ∧ w ≤ 2600) ∧ (50 ≤ d ∧ d ≤ 200) ∧ (70 ≤ D ∧ D ≤ 1600) ∧
        d + 20 ≤ D ∧ 50 ≤ W ∧ W ≤ 4000 := by
  simp only [figuresValid, within, Bool.and_eq_true, decide_eq_true_eq, and_assoc]
  rfl

/-- No record is found for a tag exactly when none carries it (R19). -/
theorem findTag_eq_none_iff (t : Nat) (rolls : List (RollSlot × Roll)) :
    findTag t rolls = none ↔ ∀ p ∈ rolls, p.2.tag ≠ t := by
  induction rolls with
  | nil => simp [findTag]
  | cons p rolls ih =>
    obtain ⟨k, r⟩ := p
    by_cases h : r.tag = t <;> simp [findTag, h, ih]

/-- R18: the slot a new record takes is the free slot with no free slot below it. -/
theorem freeRollSlot_eq_some {s : State} {k : RollSlot} (hwf : tableWf 1024 s.rolls = true) (hk : k < 1024)
    (hfree : s.roll? k = none) (hlow : ∀ j < k, s.roll? j ≠ none) : s.freeRollSlot = some k := by
  obtain ⟨-, hnone, hbelow⟩ := tableFree_spec 0 hwf fun p _ => Nat.zero_le p.1
  have hle : tableFree s.rolls 0 ≤ k := not_lt.1 fun hlt => hbelow k (Nat.zero_le k) hlt hfree
  have hge : k ≤ tableFree s.rolls 0 := not_lt.1 fun hlt => hlow _ hlt hnone
  have heq : tableFree s.rolls 0 = k := le_antisymm hle hge
  simp [State.freeRollSlot, heq, Config.rollSlots, hk]

/-- R6: the test on the larger less the smaller length is the test on the absolute difference. -/
theorem discrepant_eq_natAbs (ld lw : Nat) :
    discrepant ld lw = decide (ld < 8 * ((ld : Int) - lw).natAbs) := by
  have h : max ld lw - min ld lw = ((ld : Int) - lw).natAbs := by omega
  rw [discrepant, h]

/-! ## The request -/

theorem exec_registerRoll (s : State) : exec .registerRoll s = .next (s.serve .registerRoll registerRoll) := by
  rfl

/-- R29: figures in range, a defined grade, a tag no record carries, a free slot and a place on the dock. -/
theorem registerRoll_ok {s : State} {t w d D W : Nat} {k : RollSlot} {g : GradeCode}
    (hfig : figuresValid t w d D W = true) (hg : s.working.grades[g].defined = true)
    (htag : findTag t s.rolls = none) (hslot : s.freeRollSlot = some k) (hdock : s.dock.length < 16) :
    let r := registeredRoll s t g w d D W
    registerRoll (registerFields t g.val w d D W) s =
      .ok { s.createRoll k r with dock := s.dock ++ [k] }
        (beBytes 2 k ++ beBytes 4 r.sequence ++ beBytes 2 r.registered ++
          [flagByte r.discrepancy, byteOf s.dock.length]) := by
  obtain ⟨ht, hw, hd, hD, -, hW⟩ := (figuresValid_iff t w d D W).1 hfig
  have hplace : ¬ Config.dockPlaces ≤ s.dock.length := not_le.2 hdock
  simp only [registerRoll, registerFields_tag t g w d D W (by omega),
    registerFields_grade t g w d D W (by omega), registerFields_width t g w d D W (by omega),
    registerFields_core t g w d D W (by omega), registerFields_diameter t g w d D W (by omega),
    registerFields_weight t g w d D W (by omega), fin?_val]
  simp only [hfig, hg, htag, hslot, hplace, Bool.true_eq_false, Bool.false_eq_true, Option.isSome_none,
    or_self, if_false]

/-- Settles O18: the request is served by `registerRoll_ok`, its discrepancy test is the one on the absolute difference, and the written table reads as R18 says. -/
theorem registerRollCreatesRecord : Obligations.RegisterRollCreatesRecord := by
  intro s tag rest t w d D W k g hserves ht ht' hw hw' hd hd' hD hD' hdD hW hW' hg htag hwf hk hfree hlow
    hdock ld lw r
  have hfig : figuresValid t w d D W = true :=
    (figuresValid_iff t w d D W).2 ⟨⟨ht, ht'⟩, ⟨hw, hw'⟩, ⟨hd, hd'⟩, ⟨hD, hD'⟩, hdD, hW, hW'⟩
  have hslot : (s.unqueued rest).freeRollSlot = some k := freeRollSlot_eq_some hwf hk hfree hlow
  have hrecord : registeredRoll (s.unqueued rest) t g w d D W = r := by
    simp only [registeredRoll, discrepant_eq_natAbs]
    rfl
  have hbody := registerRoll_ok (s := s.unqueued rest) hfig hg ((findTag_eq_none_iff t s.rolls).2 htag) hslot
    hdock
  rw [hrecord] at hbody
  refine ⟨?_, tableGet_tableSet_self s.rolls k r, fun j hj => tableGet_tableSet_other s.rolls r hj⟩
  rw [exec_registerRoll, serve_ok hserves (registerFields_length t g w d D W) hbody]
  rfl

end Sys2Proof.Machine

/-! PROOF. The checks of REGISTER ROLL in their order: the fields, the tag, the slot and the dock (R28). -/

namespace Sys2Proof.Machine

/-! ## What the checks say of the fields -/

/-- R28, first check: the figures lie in their ranges and the grade byte is the code of a defined grade. -/
def State.RegisterFieldsPass (s : State) (t g w d D W : Nat) : Prop :=
  figuresValid t w d D W = true ∧ ∃ x : GradeCode, x.val = g ∧ s.working.grades[x].defined = true

/-- A grade byte is the code of a defined grade exactly when it is a code at all and not that of an undefined one. -/
theorem gradeDefined_iff (s : State) (g : Nat) :
    (∃ x : GradeCode, x.val = g ∧ s.working.grades[x].defined = true) ↔
      g ≤ 15 ∧ ¬ ∃ x : GradeCode, x.val = g ∧ s.working.grades[x].defined = false := by
  constructor
  · rintro ⟨x, rfl, hx⟩
    refine ⟨Nat.le_of_lt_succ x.isLt, ?_⟩
    rintro ⟨y, hy, hundef⟩
    obtain rfl := Fin.ext hy
    exact Bool.false_ne_true (hundef.symm.trans hx)
  · rintro ⟨hg, hnot⟩
    have hlt : g < 16 := Nat.lt_succ_of_le hg
    exact ⟨⟨g, hlt⟩, rfl, Bool.eq_true_of_not_eq_false fun hundef => hnot ⟨⟨g, hlt⟩, rfl, hundef⟩⟩

/-- R28, first check, in the words of the rule: it fails when a figure or the grade byte is out of its range, or the grade is not defined. -/
theorem not_registerFieldsPass_iff (s : State) (t g w d D W : Nat) :
    ¬ s.RegisterFieldsPass t g w d D W ↔
      t = 0 ∨ 9999999999 < t ∨ 15 < g ∨
      (∃ x : GradeCode, x.val = g ∧ s.working.grades[x].defined = false) ∨ w < 300 ∨ 2600 < w ∨ d < 50 ∨
      200 < d ∨ D < 70 ∨ 1600 < D ∨ D < d + 20 ∨ W < 50 ∨ 4000 < W := by
  rw [State.RegisterFieldsPass, figuresValid_iff, gradeDefined_iff]
  generalize (∃ x : GradeCode, x.val = g ∧ s.working.grades[x].defined = false) = undef
  by_cases hundef : undef
  · simp only [hundef, not_true, not_false_iff, and_false, true_or, or_true]
  · simp only [hundef, not_false_iff, and_true, false_or]
    omega

/-- A record is found for a tag exactly when one carries it (R19). -/
theorem findTag_isSome_iff (t : Nat) (rolls : List (RollSlot × Roll)) :
    (findTag t rolls).isSome = true ↔ ∃ p ∈ rolls, p.2.tag = t := by
  rw [← Option.ne_none_iff_isSome, ne_eq, findTag_eq_none_iff]
  push Not
  rfl

/-- The converse of `freeRollSlot_eq_some`: with a live record in every slot there is no free one. -/
theorem freeRollSlot_eq_none {s : State} (hwf : tableWf 1024 s.rolls = true)
    (hlive : ∀ k < 1024, s.roll? k ≠ none) : s.freeRollSlot = none := by
  obtain ⟨-, hnone, -⟩ := tableFree_spec 0 hwf fun p _ => Nat.zero_le p.1
  have hfull : ¬ tableFree s.rolls 0 < Config.rollSlots := fun hlt => hlive _ hlt hnone
  simp only [State.freeRollSlot, hfull, if_false]

/-! ## The request's rule, check by check -/

section
variable {s : State} {t g w d D W : Nat}

/-- R28, first check. -/
theorem registerRoll_badField (ht : t < 256 ^ 5) (hg : g < 256) (hw : w < 256 ^ 2) (hd : d < 256)
    (hD : D < 256 ^ 2) (hW : W < 256 ^ 2) (hfail : ¬ s.RegisterFieldsPass t g w d D W) :
    registerRoll (registerFields t g w d D W) s = .refuse .badField := by
  simp only [registerRoll, registerFields_tag t g w d D W ht, registerFields_grade t g w d D W hg,
    registerFields_width t g w d D W hw, registerFields_core t g w d D W hd,
    registerFields_diameter t g w d D W hD, registerFields_weight t g w d D W hW]
  by_cases hcode : g < 16
  · rw [fin?_of_lt hcode]
    have hbad : figuresValid t w d D W = false ∨ s.working.grades[(⟨g, hcode⟩ : GradeCode)].defined = false := by
      by_contra hgood
      rw [not_or, Bool.not_eq_false, Bool.not_eq_false] at hgood
      exact hfail ⟨hgood.1, ⟨g, hcode⟩, rfl, hgood.2⟩
    exact if_pos hbad
  · rw [fin?_eq_none (not_lt.1 hcode)]

/-- R28 with the first check passed: the remaining checks are the tag's, the slot's and the dock's. -/
theorem registerRoll_refuse_of_pass {e : Result} (hpass : s.RegisterFieldsPass t g w d D W)
    (hrest : ((findTag t s.rolls).isSome = true ∧ e = .duplicate) ∨
      (findTag t s.rolls = none ∧ (s.freeRollSlot = none ∨ 16 ≤ s.dock.length) ∧ e = .full)) :
    registerRoll (registerFields t g w d D W) s = .refuse e := by
  obtain ⟨hfig, x, rfl, hdef⟩ := hpass
  obtain ⟨ht, hw, hd, hD, -, hW⟩ := (figuresValid_iff t w d D W).1 hfig
  simp only [registerRoll, registerFields_tag t x w d D W (by omega),
    registerFields_grade t x w d D W (by omega), registerFields_width t x w d D W (by omega),
    registerFields_core t x w d D W (by omega), registerFields_diameter t x w d D W (by omega),
    registerFields_weight t x w d D W (by omega), fin?_val, hfig, hdef, Bool.true_eq_false, or_self, if_false]
  obtain ⟨hsome, rfl⟩ | ⟨hnone, hplace, rfl⟩ := hrest
  · rw [if_pos hsome]
  · simp only [hnone, Option.isSome_none, Bool.false_eq_true, if_false]
    cases hslot : s.freeRollSlot with
    | none => rfl
    | some k =>
      have hdock : Config.dockPlaces ≤ s.dock.length := hplace.resolve_left (by simp [hslot])
      exact if_pos hdock

end

/-- Settles O17: the request's rule refuses at its first failing check (`registerRoll_badField`, `registerRoll_refuse_of_pass`), and a refusal is all the request does (`serve_refused`). -/
theorem registerRollRefusals : Obligations.RegisterRollRefusals := by
  intro s tag rest t g w d D W hserves ht hg hw hd hD hW hwf bad
  have hfields : ¬ (s.unqueued rest).RegisterFieldsPass t g w d D W ↔ bad :=
    not_registerFieldsPass_iff (s.unqueued rest) t g w d D W
  have hpass : ¬ bad → (s.unqueued rest).RegisterFieldsPass t g w d D W := fun hgood =>
    not_not.1 (mt hfields.1 hgood)
  have hrefused : ∀ e, registerRoll (registerFields t g w d D W) (s.unqueued rest) = .refuse e →
      exec .registerRoll s = .next ((s.unqueued rest).refusal .registerRoll tag e) := fun e he => by
    rw [exec_registerRoll, serve_refused hserves (registerFields_length t g w d D W) he]
  refine ⟨fun hbad => hrefused _ ?_, fun hgood hdup => hrefused _ ?_, fun hgood hnew hfull => hrefused _ ?_⟩
  · exact registerRoll_badField ht hg hw hd hD hW (hfields.2 hbad)
  · have hfound : (findTag t s.rolls).isSome = true := (findTag_isSome_iff t s.rolls).2 hdup
    exact registerRoll_refuse_of_pass (hpass hgood) (.inl ⟨hfound, rfl⟩)
  · have hnone : findTag t s.rolls = none := (findTag_eq_none_iff t s.rolls).2 hnew
    have hroom : (s.unqueued rest).freeRollSlot = none ∨ 16 ≤ s.dock.length :=
      hfull.imp_left (freeRollSlot_eq_none (s := s.unqueued rest) hwf)
    exact registerRoll_refuse_of_pass (hpass hgood) (.inr ⟨hnone, hroom, rfl⟩)

end Sys2Proof.Machine

/-! PROOF. The device state gates every request of the table, then its length is checked (R168, R169). -/

namespace Sys2Proof.Machine

/-! ## The gate, one equation per device state -/

namespace RequestKind

/-- The requests that edit the settings, which READY answers WRONG_STATE (R169). -/
def editsSettings : List RequestKind :=
  [.setGrade, .setLane, .setStand, .setFleet, .commitSettings, .reloadSettings]

/-- The requests UNCONFIGURED serves (R169). -/
def servedUnconfigured : List RequestKind :=
  [.readStatus, .fetchNotice, .resetFloor, .storeSettings] ++ editsSettings

theorem gate_readStatus (d : DeviceState) : readStatus.gate d = none := by cases d <;> rfl

theorem gate_loading (q : RequestKind) :
    q.gate .loading = if q = .readStatus then none else some .notReady := by cases q <;> rfl

theorem gate_unconfigured (q : RequestKind) :
    q.gate .unconfigured = if q ∈ servedUnconfigured then none else some .notReady := by cases q <;> rfl

theorem gate_ready (q : RequestKind) :
    q.gate .ready = if q ∈ editsSettings then some .wrongState else none := by cases q <;> rfl

end RequestKind

/-! ## The command of each request -/

/-- The command of every request of the table is the service of the head request under a rule of the request's own. -/
theorem exec_command (q : RequestKind) :
    ∃ body : List Byte → State → Reply, ∀ s : State, exec q.command s = .next (s.serve q body) := by
  cases q <;> exact ⟨_, fun _ => rfl⟩

section
variable {s : State} {q : RequestKind} {tag : Byte} {fields : List Byte} {rest : List Request}

/-- A gated request is answered whatever its own rule says (`serve_gated`). -/
theorem exec_command_gated {e : Result} (h : s.Heads q tag fields rest) (hg : q.gate s.device = some e) :
    exec q.command s = .next ((s.unqueued rest).refusal q tag e) := by
  obtain ⟨body, hexec⟩ := exec_command q
  rw [hexec, serve_gated h hg]

/-- A request of a wrong length is answered whatever its own rule says (`serve_length`). -/
theorem exec_command_length (h : s.Serves q tag fields rest) (hlen : fields.length ≠ q.fieldBytes fields) :
    exec q.command s = .next ((s.unqueued rest).refusal q tag .badField) := by
  obtain ⟨body, hexec⟩ := exec_command q
  rw [hexec, serve_length h hlen]

end

/-- Settles O13: the gate's equation in the device state says which check answers, and neither answer depends on the request's own rule. -/
theorem deviceStateGatesEveryRequest : Obligations.DeviceStateGatesEveryRequest := by
  intro q s tag fields rest hheads
  refine ⟨fun hd hq => ?_, fun hd hq => ?_, fun hd hq => ?_, fun hserved hlen => ?_⟩
  · exact exec_command_gated hheads (by rw [hd, q.gate_loading, if_neg hq])
  · exact exec_command_gated hheads (by rw [hd, q.gate_unconfigured]; exact if_neg hq)
  · exact exec_command_gated hheads (by rw [hd, q.gate_ready]; exact if_pos hq)
  · have hgate : q.gate s.device = none := by
      obtain rfl | ⟨hd, hq⟩ | ⟨hd, hq⟩ := hserved
      · exact RequestKind.gate_readStatus s.device
      · rw [hd, q.gate_ready]
        exact if_neg hq
      · rw [hd, q.gate_unconfigured]
        exact if_pos (List.mem_cons_of_mem _ hq)
    exact exec_command_length ⟨hheads, hgate⟩ hlen

end Sys2Proof.Machine

/-! PROOF. READ STATUS answers the status readout in every device state (R174, R181). -/

namespace Sys2Proof.Machine

/-! ## The bytes of the readout -/

theorem websOut_eq_countP (s : State) :
    s.websOut = (List.finRange 8).countP fun n => decide (s.stands[n].state = .webOut) :=
  List.countP_eq_length_filter.symm

theorem occupiedOrders_eq_countP (s : State) :
    s.occupiedOrders = (List.finRange 32).countP fun k => s.orders[k].isSome :=
  List.countP_eq_length_filter.symm

/-- R130: PRESS_STOP tells whether some stand is in WEB_OUT. -/
theorem pressStop_eq_decide (s : State) [Decidable (∃ n : StandNo, s.stands[n].state = .webOut)] :
    s.pressStop = decide (∃ n : StandNo, s.stands[n].state = .webOut) := by
  rw [State.pressStop, decide_eq_decide, websOut_eq_countP, ← Nat.pos_iff_ne_zero, List.countP_pos_iff]
  simp only [List.mem_finRange, true_and, decide_eq_true_eq]

/-- R177: the byte of an optional job slot. -/
theorem optByte_slot (o : Option JobSlot) :
    optByte (o.map Fin.val) = match o with | none => 0xFF | some j => byteOf j.val := by
  cases o <;> rfl

/-! ## The request -/

theorem exec_readStatus (s : State) : exec .readStatus s = .next (s.serve .readStatus readStatus) := by rfl

/-- Settles O15: no device state refuses READ STATUS (`RequestKind.gate_readStatus`), its rule changes no record, and the readout is read from the state that the request has left. -/
theorem readStatusAnswersReadout : Obligations.ReadStatusAnswersReadout := by
  intro s tag rest hheads
  have hserves : s.Serves .readStatus tag [] rest := ⟨hheads, RequestKind.gate_readStatus s.device⟩
  have hbody : readStatus [] (s.unqueued rest) = .ok (s.unqueued rest) (s.unqueued rest).statusReadout := rfl
  rw [exec_readStatus, serve_ok hserves rfl hbody, State.statusReadout, pressStop_eq_decide,
    websOut_eq_countP, occupiedOrders_eq_countP, optByte_slot, optByte_slot]
  rfl

end Sys2Proof.Machine

/-! PROOF. What every operation keeps of the five invariants: one relation between the state before and after, and one lemma per operation. -/

namespace Sys2Proof.Machine

/-- A table read after a write at an index. -/
theorem getElem_set_fin {α : Type} {n : Nat} (v : Vector α n) (i j : Fin n) (x : α) :
    (v.set i x)[j] = if j = i then x else v[j] := by
  by_cases h : j = i
  · subst h
    simp
  · have hne : (i : Nat) ≠ j := fun hij => h (Fin.ext hij.symm)
    simp [h, Vector.getElem_set_ne _ _ hne]

/-! ## The relation -/

/-- The part of `State.PortLegal` that reads the notice list (R172). -/
def NoticesLegal (es : List Notice) : Prop :=
  (es.map Notice.key).Nodup ∧ ∀ e ∈ es, 1 ≤ e.count ∧ e.count ≤ 255

/-- The part of `State.RegisterLegal` that reads one record (R17, R20). -/
def Roll.Legal (r : Roll) : Prop :=
  1 ≤ r.tag ∧ r.tag ≤ Config.maxTag ∧ r.remaining ≤ r.registered ∧ r.overrun ≤ 255 ∧ r.sequence ≤ Config.max32

/-- The part of `State.JobsLegal` that reads one slot (R16, R147). -/
def Job.Legal (j : Job) : Prop :=
  j.good + j.reject = j.gross ∧ j.startupReject ≤ j.reject ∧ j.gross ≤ Config.max32

/-- From `s` to `t` the port's buffers stay and the invariants are kept; the fractions' one under `c`, which a length input makes the bound of its increment. -/
structure State.Keeps (c : Prop) (s t : State) : Prop where
  requests : t.requests = s.requests
  answers : t.answers = s.answers
  received : t.received = s.received
  notices : NoticesLegal s.notices → NoticesLegal t.notices
  jobs : s.JobsLegal → t.JobsLegal
  settings : s.SettingsLegal → t.SettingsLegal
  fractions : c → s.FractionsLegal → t.FractionsLegal
  register : s.RegisterLegal → t.RegisterLegal

variable {c : Prop} {s t u : State}

namespace State.Keeps

theorem refl (s : State) : s.Keeps c s := ⟨rfl, rfl, rfl, id, id, id, fun _ => id, id⟩

theorem trans (h : s.Keeps c t) (h' : t.Keeps c u) : s.Keeps c u :=
  ⟨h'.requests.trans h.requests, h'.answers.trans h.answers, h'.received.trans h.received,
    h'.notices ∘ h.notices, h'.jobs ∘ h.jobs, h'.settings ∘ h.settings,
    fun hc => h'.fractions hc ∘ h.fractions hc, h'.register ∘ h.register⟩

end State.Keeps

/-- Everything the invariants read, but the notices, the records of the stands, the jobs and the rolls. -/
def State.quietFields (s : State) :=
  (s.requests, s.answers, s.received, s.device, s.working, s.loaded, s.hallIncrement, s.hallAccumulator,
    s.wasteFraction, s.sequence, s.dock)

/-- Everything the invariants read. -/
def State.legalFields (s : State) := (s.quietFields, s.notices, s.stands, s.jobs, s.rolls)

/-- A change of none of the fields the invariants read. -/
theorem keeps_of_legalFields (h : t.legalFields = s.legalFields) : s.Keeps c t := by
  simp only [State.legalFields, State.quietFields, Prod.mk.injEq] at h
  obtain ⟨⟨hreq, hans, hrec, hdev, hwork, hload, hinc, hacc, hwaste, hseq, hdock⟩, hnote, hstand, hjob, hroll⟩ := h
  refine ⟨hreq, hans, hrec, ?_, ?_, ?_, fun _ => ?_, ?_⟩
  · rw [hnote]; exact id
  · simp only [State.JobsLegal, hjob]; exact id
  · simp only [State.SettingsLegal, hdev, hwork, hload, hinc, hacc]; exact id
  · simp only [State.FractionsLegal, hstand, hwork, hwaste, hjob]; exact id
  · simp only [State.RegisterLegal, hroll, hseq, hdock]; exact id

/-! ## The primitives -/

theorem post_keeps (s : State) (key : NoticeKey) (detail : NoticeDetail) : s.Keeps c (s.post key detail) :=
  ⟨rfl, rfl, rfl, fun h => ⟨postInto_keys_nodup key detail h.1, postInto_counts key detail h.2⟩, id, id,
    fun _ => id, id⟩

/-- A stand's record changes and its fraction stays below a metre. -/
theorem modStand_keeps_of_lt (s : State) (n : StandNo) (f : Stand → Stand)
    (hf : c → s.FractionsLegal → (f s.stands[n]).fraction < 1000) : s.Keeps c (s.modStand n f) := by
  refine ⟨rfl, rfl, rfl, id, id, id, fun hc h => ?_, id⟩
  obtain ⟨hstands, hwaste, hcut⟩ := h
  refine ⟨fun i => ⟨?_, (hstands i).2⟩, hwaste, hcut⟩
  rw [State.modStand_stands, getElem_set_fin]
  split
  · exact hf hc ⟨hstands, hwaste, hcut⟩
  · exact (hstands i).1

/-- A stand's record changes and its fraction stays. -/
theorem modStand_keeps (s : State) (n : StandNo) (f : Stand → Stand)
    (hf : ∀ x, (f x).fraction = x.fraction) : s.Keeps c (s.modStand n f) :=
  modStand_keeps_of_lt s n f fun _ h => by rw [hf]; exact (h.1 n).1

@[simp] theorem Stand.setArm_fraction (x : Stand) (a : Arm) (r : ArmRecord) :
    (x.setArm a r).fraction = x.fraction := by cases a <;> rfl

theorem modArm_keeps (s : State) (n : StandNo) (a : Arm) (f : ArmRecord → ArmRecord) :
    s.Keeps c (s.modArm n a f) := modStand_keeps s n _ fun _ => Stand.setArm_fraction _ _ _

theorem setStandState_keeps (s : State) (n : StandNo) (x : StandState) : s.Keeps c (s.setStandState n x) :=
  modStand_keeps s n _ fun _ => rfl

theorem enterSplicing_keeps (s : State) (n : StandNo) : s.Keeps c (s.enterSplicing n) :=
  modStand_keeps s n _ fun _ => rfl

/-- A slot's job changes lawfully, into a state that no other slot need give up (R148). -/
theorem modJob_keeps_of (s : State) (j : JobSlot) (f : Job → Job)
    (hstate : s.JobsLegal → (f s.jobs[j]).state = .active ∨ (f s.jobs[j]).state = .staged →
      ∀ i, s.jobs[i].state = (f s.jobs[j]).state → i = j)
    (hcut : s.FractionsLegal → (f s.jobs[j]).cutoff ≤ 999) (hlegal : s.jobs[j].Legal → (f s.jobs[j]).Legal) :
    s.Keeps c (s.modJob j f) := by
  have hread (i : JobSlot) : (s.modJob j f).jobs[i] = if i = j then f s.jobs[j] else s.jobs[i] :=
    getElem_set_fin s.jobs j i _
  refine ⟨rfl, rfl, rfl, id, fun h => ⟨fun i => ?_, fun i i' heq hor => ?_⟩, id,
    fun _ h => ⟨h.1, h.2.1, fun i => ?_⟩, id⟩
  · rw [hread]
    split
    · exact hlegal (h.1 j)
    · exact h.1 i
  · rw [hread] at heq hor
    rw [hread] at heq
    by_cases hi : i = j <;> by_cases hi' : i' = j
    · exact hi.trans hi'.symm
    · rw [if_pos hi, if_neg hi'] at heq
      rw [if_pos hi] at hor
      exact absurd (hstate h hor i' heq.symm) hi'
    · rw [if_neg hi, if_pos hi'] at heq
      rw [if_neg hi, heq] at hor
      exact absurd (hstate h hor i heq) hi
    · rw [if_neg hi, if_neg hi'] at heq
      rw [if_neg hi] at hor
      exact h.2 i i' heq hor
  · rw [hread]
    split
    · exact hcut h
    · exact h.2.2 i

/-- A slot's job changes lawfully, in the same state and with the same cutoff. -/
theorem modJob_keeps_of_same (s : State) (j : JobSlot) (f : Job → Job)
    (hstate : (f s.jobs[j]).state = s.jobs[j].state) (hcut : (f s.jobs[j]).cutoff = s.jobs[j].cutoff)
    (hlegal : s.jobs[j].Legal → (f s.jobs[j]).Legal) : s.Keeps c (s.modJob j f) :=
  modJob_keeps_of s j f
    (fun h hor i hi => h.2 i j (hi.trans hstate) (hi ▸ hor))
    (fun h => hcut ▸ h.2.2 j) hlegal

/-- A change of a job that leaves its state, its cutoff and its copy counts. -/
def Job.SameCounts (f : Job → Job) : Prop :=
  ∀ j, (f j).state = j.state ∧ (f j).cutoff = j.cutoff ∧ (f j).good = j.good ∧ (f j).reject = j.reject ∧
    (f j).gross = j.gross ∧ (f j).startupReject = j.startupReject

theorem modJob_keeps (s : State) (j : JobSlot) {f : Job → Job} (hf : Job.SameCounts f) :
    s.Keeps c (s.modJob j f) := by
  obtain ⟨hstate, hcut, hgood, hrej, hgross, hstart⟩ := hf s.jobs[j]
  refine modJob_keeps_of_same s j f hstate hcut ?_
  simp only [Job.Legal, hgood, hrej, hgross, hstart]
  exact id

theorem charge_keeps (s : State) {f : Job → Job} (hf : Job.SameCounts f) : s.Keeps c (s.charge f) := by
  unfold State.charge
  split
  · exact .refl s
  · exact modJob_keeps s _ hf

theorem registerLegal_iff (s : State) :
    s.RegisterLegal ↔ tableWf Config.rollSlots s.rolls = true ∧ (s.rolls.map fun p => p.2.tag).Nodup ∧
      (∀ p ∈ s.rolls, p.2.Legal) ∧ s.sequence ≤ Config.max32 ∧ s.dock.length ≤ 16 := Iff.rfl

/-- A record changes lawfully and keeps its tag. -/
theorem modRoll_keeps (s : State) (k : RollSlot) (f : Roll → Roll) (htag : ∀ r, (f r).tag = r.tag)
    (hlegal : ∀ r, r.Legal → (f r).Legal) : s.Keeps c (s.modRoll k f) := by
  refine ⟨rfl, rfl, rfl, id, id, id, fun _ => id, fun h => ?_⟩
  obtain ⟨hwf, htags, hrolls, hrest⟩ := (registerLegal_iff s).1 h
  refine (registerLegal_iff _).2 ⟨tableWf_tableModify k f hwf, ?_, fun p hp => ?_, hrest⟩
  · have : ((tableModify s.rolls k f).map fun p => p.2.tag) = s.rolls.map fun p => p.2.tag := by
      rw [tableModify, List.map_map]
      refine List.map_congr_left fun p _ => ?_
      by_cases hp : p.1 = k <;> simp [hp, htag]
    exact this ▸ htags
  · obtain hp | ⟨r, hr, rfl⟩ := mem_tableModify hp
    · exact hrolls p hp
    · exact hlegal r (hrolls _ hr)

/-- A record changes in nothing that the invariant reads. -/
theorem modRoll_keeps_same (s : State) (k : RollSlot) (f : Roll → Roll)
    (hf : ∀ r, (f r).tag = r.tag ∧ (f r).remaining = r.remaining ∧ (f r).registered = r.registered ∧
      (f r).overrun = r.overrun ∧ (f r).sequence = r.sequence) : s.Keeps c (s.modRoll k f) :=
  modRoll_keeps s k f (fun r => (hf r).1) fun r h => by
    obtain ⟨h1, h2, h3, h4, h5⟩ := hf r
    simpa only [Roll.Legal, h1, h2, h3, h4, h5] using h

theorem eraseRoll_keeps (s : State) (k : RollSlot) : s.Keeps c (s.eraseRoll k) := by
  refine ⟨rfl, rfl, rfl, id, id, id, fun _ => id, fun h => ?_⟩
  obtain ⟨hwf, htags, hrolls, hrest⟩ := h
  have hsub : (tableErase s.rolls k).Sublist s.rolls := List.filter_sublist
  exact ⟨tableWf_tableErase k hwf, (hsub.map _).nodup htags, fun p hp => hrolls p (hsub.subset hp), hrest⟩

theorem unclaim_keeps (s : State) (k : RollSlot) : s.Keeps c (s.unclaim k) :=
  modRoll_keeps_same s k _ (by simp)

theorem deduct_keeps (s : State) (k : RollSlot) (m : Nat) : s.Keeps c (s.deduct k m) :=
  modRoll_keeps s k _ (fun _ => rfl) fun _ ⟨h1, h2, h3, h4, h5⟩ => ⟨h1, h2, (Nat.sub_le _ _).trans h3, h4, h5⟩

theorem stepRoll_keeps (s : State) (k : RollSlot) : s.Keeps c (s.modRoll k Roll.stepped) := by
  refine modRoll_keeps s k _ (fun r => ?_) fun r ⟨h1, h2, h3, h4, h5⟩ => ?_
  · unfold Roll.stepped
    split <;> rfl
  · unfold Roll.stepped
    split
    · exact ⟨h1, h2, (Nat.sub_le _ _).trans h3, h4, h5⟩
    · exact ⟨h1, h2, h3, min_le_left _ _, h5⟩

/-- A fold keeps what each of its steps keeps. -/
theorem foldl_keeps {α : Type} {f : State → α → State} (hf : ∀ (s : State) (x : α), s.Keeps c (f s x)) (l : List α) (s : State) :
    s.Keeps c (l.foldl f s) := by
  induction l generalizing s with
  | nil => exact .refl s
  | cons x l ih => exact (hf s x).trans (ih _)

/-! ## The dispatcher -/

theorem reserve_keeps (s : State) (k : OrderSlot) (kind : PaperKind) (p : Place) : s.Keeps c (s.reserve k kind p) := by
  unfold State.reserve
  split
  · exact keeps_of_legalFields rfl
  · exact modArm_keeps ..
  · exact .refl s

theorem release_keeps (s : State) (p : Place) : s.Keeps c (s.release p) := by
  unfold State.release
  split
  · exact keeps_of_legalFields rfl
  · exact modArm_keeps ..
  · exact .refl s

theorem enterQueue_keeps (s : State) (k : OrderSlot) (x : OrderClass) : s.Keeps c (s.enterQueue k x) :=
  keeps_of_legalFields (by rw [s.enterQueue_changes]; rfl)

theorem resumeWaiter_keeps (s : State) (n : StandNo) (a : Arm) : s.Keeps c (s.resumeWaiter n a) :=
  keeps_of_legalFields (by rw [s.resumeWaiter_changes]; rfl)

theorem vacateArm_keeps (s : State) (n : StandNo) (a : Arm) : s.Keeps c (s.vacateArm n a) :=
  (modArm_keeps s n a _).trans (resumeWaiter_keeps _ n a)

theorem createOrder_keeps (s : State) (slot : OrderSlot) (kind : OrderKind) (origin : OrderOrigin) (k : RollSlot)
    (r : Roll) (source dest : Place) : s.Keeps c (s.createOrder slot kind origin k r source dest) := by
  have hclaim (x : State) : x.Keeps c
      ((x.modRoll k fun y => { y with claim := some slot }).reserve slot r.kind dest) :=
    (modRoll_keeps_same x k _ (by simp)).trans (reserve_keeps ..)
  unfold State.createOrder
  refine .trans (t := { s.setOrder slot (some
    (newOrder s.newNumber kind origin k r.tag s.working.fleet.orderLimit source dest)) with
      nextNumber := nextAfter s.newNumber }) (keeps_of_legalFields rfl) ?_
  refine (hclaim _).trans ?_
  dsimp only
  split
  · exact keeps_of_legalFields rfl
  · exact enterQueue_keeps ..

theorem dismiss_keeps (s : State) (o : Order) : s.Keeps c (s.dismiss o) :=
  keeps_of_legalFields (by rw [s.dismiss_changes]; rfl)

theorem withdraw_keeps (s : State) (k : OrderSlot) (o : Order) : s.Keeps c (s.withdraw k o) :=
  (unclaim_keeps s o.roll).trans <| (release_keeps _ o.dest).trans <|
    .trans (t := State.leaveQueue _ k) (keeps_of_legalFields rfl) (dismiss_keeps _ o)

theorem markCancelled_keeps (s : State) (k : OrderSlot) (o : Order) : s.Keeps c (s.markCancelled k o) :=
  .trans (t := s.modOrder k _) (keeps_of_legalFields rfl) (post_keeps ..)

theorem serveDemand_keeps (s : State) (n : StandNo) : s.Keeps c (s.serveDemand n) := by
  unfold State.serveDemand
  split
  · split
    · exact (createOrder_keeps ..).trans (keeps_of_legalFields rfl)
    · exact .refl s
  · exact .refl s

theorem examine_keeps (s : State) : s.Keeps c s.examine := foldl_keeps serveDemand_keeps _ s

theorem postShort_keeps (s : State) (n : StandNo) : s.Keeps c (s.postShort n) := by
  unfold State.postShort
  split
  · exact post_keeps ..
  · exact .refl s

theorem appendDemand_keeps (s : State) (n : StandNo) : s.Keeps c (s.appendDemand n) :=
  keeps_of_legalFields (by rw [s.appendDemand_changes]; rfl)

theorem raiseDemand_keeps (s : State) (n : StandNo) : s.Keeps c (s.raiseDemand n) := by
  unfold State.raiseDemand
  split
  · exact .refl s
  · exact (appendDemand_keeps s n).trans <| (examine_keeps _).trans (postShort_keeps _ n)

theorem pair_keeps (s : State) : s.Keeps c s.pair := keeps_of_legalFields (by rw [s.pair_changes]; rfl)

theorem endOrder_keeps (s : State) (k : OrderSlot) (o : Order) : s.Keeps c (s.endOrder k o) :=
  (withdraw_keeps s k o).trans <|
    .trans (t := State.setOrder _ k none) (keeps_of_legalFields rfl) <| (examine_keeps _).trans (pair_keeps _)

theorem holdCancel_keeps (s : State) (k : OrderSlot) (o : Order) : s.Keeps c (s.holdCancel k o) := by
  refine (withdraw_keeps s k o).trans <| (markCancelled_keeps _ k o).trans ?_
  unfold State.holdCancel
  dsimp only
  split
  · exact examine_keeps _
  · exact (raiseDemand_keeps ..).trans (examine_keeps _)

/-! ## The stands -/

theorem demote_keeps (s : State) (n : StandNo) (a : Arm) (notify : Bool) : s.Keeps c (s.demote n a notify) := by
  unfold State.demote
  dsimp only
  split
  · split
    · exact .refl s
    · split
      · exact (modArm_keeps ..).trans (post_keeps ..)
      · exact modArm_keeps ..
  · exact .refl s

theorem compareStandby_keeps (s : State) (n : StandNo) (notify : Bool) : s.Keeps c (s.compareStandby n notify) := by
  unfold State.compareStandby
  split
  · exact .refl s
  · exact demote_keeps ..

theorem callUpCheck_keeps (s : State) (n : StandNo) (r : Nat) : s.Keeps c (s.callUpCheck n r) := by
  unfold State.callUpCheck
  dsimp only
  split
  · refine .trans (modStand_keeps s n (fun x => { x with callUpRaised := true }) fun _ => rfl) <|
      (post_keeps _ (.callUp n) (.metres r)).trans ?_
    split
    · exact raiseDemand_keeps ..
    · exact .refl _
  · exact .refl s

theorem zeroCheck_keeps (s : State) (n : StandNo) (r tag : Nat) : s.Keeps c (s.zeroCheck n r tag) := by
  unfold State.zeroCheck
  dsimp only
  split
  · refine (setStandState_keeps s n .webOut).trans ?_
    split
    · exact (compareStandby_keeps ..).trans (post_keeps ..)
    · exact post_keeps ..
  · exact .refl s

theorem spliceMarkCheck_keeps (s : State) (n : StandNo) (r : Nat) : s.Keeps c (s.spliceMarkCheck n r) := by
  unfold State.spliceMarkCheck
  dsimp only
  split
  · split
    · exact enterSplicing_keeps ..
    · exact setStandState_keeps ..
  · exact .refl s

theorem markChecks_keeps (s : State) (n : StandNo) : s.Keeps c (s.markChecks n) := by
  unfold State.markChecks
  split
  · exact .refl s
  · exact (callUpCheck_keeps ..).trans <| (zeroCheck_keeps ..).trans (spliceMarkCheck_keeps ..)

theorem countPaper_keeps (s : State) (n : StandNo) : s.Keeps c (s.countPaper n) := by
  unfold State.countPaper
  split
  · exact charge_keeps s (by simp [Job.SameCounts])
  · exact .refl s

theorem windowExpiry_keeps (s : State) (n : StandNo) : s.Keeps c (s.windowExpiry n) :=
  (setStandState_keeps s n .spliceHeld).trans <| (post_keeps ..).trans (compareStandby_keeps ..)

theorem countWindow_keeps (s : State) (n : StandNo) : s.Keeps c (s.countWindow n) := by
  unfold State.countWindow
  dsimp only
  split
  · refine .trans (modStand_keeps s n (fun x => { x with window := x.window - 1 }) fun _ => rfl) ?_
    split
    · exact windowExpiry_keeps ..
    · exact .refl _
  · exact .refl s

theorem metreStep_keeps (s : State) (n : StandNo) : s.Keeps c (s.metreStep n) := by
  unfold State.metreStep
  split
  · exact .refl s
  · exact (stepRoll_keeps ..).trans <| (markChecks_keeps ..).trans <|
      (countPaper_keeps ..).trans (countWindow_keeps ..)

/-- R8: an increment below a metre leaves the fraction below one. -/
theorem lengthInput_keeps (s : State) (n : StandNo) {m : Nat} (hm : c → s.FractionsLegal → m ≤ 999) :
    s.Keeps c (s.lengthInput n m) := by
  unfold State.lengthInput
  dsimp only
  split
  · exact .refl s
  · split
    · refine .trans (modStand_keeps_of_lt s n _ fun hc h => ?_) (metreStep_keeps _ n)
      have := hm hc h
      have := (h.1 n).1
      dsimp only
      omega
    · refine modStand_keeps_of_lt s n _ fun _ _ => ?_
      dsimp only
      omega

theorem copyStands_keeps (s : State) : s.Keeps True s.copyStands := by
  unfold State.copyStands
  split
  · exact .refl s
  · next j _ =>
    have hinput (t : State) (n : StandNo) : t.Keeps (s.jobs[j].cutoff ≤ 999)
        (if s.working.stands[n].source = .copy then t.lengthInput n s.jobs[j].cutoff else t) := by
      split
      · exact lengthInput_keeps t n fun hm _ => hm
      · exact .refl t
    have h := foldl_keeps hinput (List.finRange 8) s
    exact { h with fractions := fun _ hs => h.fractions (hs.2.2 j) hs }

theorem promote_keeps (s : State) (n : StandNo) (a : Arm) (k : RollSlot) : s.Keeps c (s.promote n a k) :=
  .trans (modRoll_keeps_same s k (fun r => { r with state := .running }) (by simp))
    (modStand_keeps_of_lt _ n (fun st => { st.setArm a { st.arm a with status := .running } with
      running := some a, fraction := 0, callUpRaised := false }) fun _ _ => Nat.zero_lt_succ 999)

theorem retireOld_keeps (s : State) (n : StandNo) (a : Arm) (k : RollSlot) (r : Roll) :
    s.Keeps c (s.retireOld n a k r) :=
  (charge_keeps s (by simp [Job.SameCounts, Job.chargeStub])).trans <| (eraseRoll_keeps ..).trans (modArm_keeps ..)

theorem keepStub_keeps (s : State) (n : StandNo) (a : Arm) (k : RollSlot) (r : Roll) :
    s.Keeps c (s.keepStub n a k r) := by
  refine .trans (modRoll_keeps_same s k (fun x => { x with state := .stub, partRoll := true }) (by simp)) <|
    .trans (modArm_keeps _ n a fun x => { x with status := .stub }) ?_
  unfold State.keepStub
  dsimp only
  split
  · exact createOrder_keeps ..
  · exact post_keeps ..

theorem spliceDone_keeps (s : State) (n : StandNo) (a : Arm) (i k : RollSlot) (old new : Roll) :
    s.Keeps c (s.spliceDone n a i k old new) := by
  have hwaste (x : State) (m : Nat) : x.Keeps c (x.charge (Job.chargeSplice m)) :=
    charge_keeps x (by simp [Job.SameCounts, Job.chargeSplice])
  have hcount (x : State) : x.Keeps c (x.charge fun j =>
      { j with rollsSpliced := satAdd Config.max16 j.rollsSpliced 1 }) :=
    charge_keeps x (by simp [Job.SameCounts])
  refine (promote_keeps s n a.other k).trans <| (deduct_keeps _ k s.working.stands[n].spliceWaste).trans <|
    (hwaste _ (min s.working.stands[n].spliceWaste new.remaining)).trans <| (hcount _).trans ?_
  unfold State.spliceDone
  dsimp only
  split
  · exact (keepStub_keeps ..).trans <| (post_keeps ..).trans <| (setStandState_keeps ..).trans <|
      (markChecks_keeps ..).trans (examine_keeps _)
  · exact (retireOld_keeps ..).trans <| (post_keeps ..).trans <| (setStandState_keeps ..).trans <|
      (markChecks_keeps ..).trans (examine_keeps _)

theorem placeStandby_keeps (s : State) (n : StandNo) (a : Arm) (k : RollSlot) (r : Roll) :
    s.Keeps c (s.placeStandby n a k r) := by
  refine .trans (modRoll_keeps_same s k (fun x => { x with state := .standby, location := .arm n a }) (by simp)) <|
    .trans (modArm_keeps _ n a fun _ =>
      ⟨(s.modRoll k fun x => { x with state := .standby, location := .arm n a }).standbyStatus n r, some k, none⟩) ?_
  unfold State.placeStandby
  dsimp only
  split
  · exact post_keeps ..
  · split
    · exact enterSplicing_keeps ..
    · exact .refl _

end Sys2Proof.Machine

/-! PROOF. What the job counter's operations, the reports and the requests keep of the five invariants. -/

namespace Sys2Proof.Machine

variable {c : Prop} {s t : State}

/-! ## The job counter -/

theorem budgetCheck_keeps (s : State) (j : JobSlot) : s.Keeps c (s.budgetCheck j) := by
  unfold State.budgetCheck
  dsimp only
  split
  · exact (modJob_keeps s j (f := fun x => { x with budgetReached := true }) (by simp [Job.SameCounts])).trans
      (post_keeps ..)
  · exact .refl s

/-- R12: whole metres leave the waste fraction, so less than one is left. -/
theorem chargeRun_keeps (s : State) (j : JobSlot) : s.Keeps c (s.chargeRun j) := by
  have hcharge (m : Nat) : s.Keeps c (s.modJob j fun x => { x with runWaste := satAdd Config.max32 x.runWaste m }) :=
    modJob_keeps s j (by simp [Job.SameCounts])
  refine (hcharge ((s.wasteFraction + s.jobs[j].cutoff * s.wasteStands) / 1000)).trans ?_
  exact ⟨rfl, rfl, rfl, id, id, id, fun _ h => ⟨h.1, Nat.mod_lt _ (by decide), h.2.2⟩, id⟩

/-- R155: one copy more of the gross is one more of the good or of the reject. -/
theorem Job.countCopy_legal {j : Job} (reject : Bool) (hroom : j.gross < Config.max32) (h : j.Legal) :
    (j.countCopy reject).Legal := by
  obtain ⟨hsum, hstart, -⟩ := h
  have hgross : j.gross + 1 ≤ Config.max32 := hroom
  unfold Job.countCopy
  dsimp only
  split
  · refine ⟨?_, ?_, hgross⟩ <;> dsimp only
    · omega
    · split <;> omega
  · refine ⟨?_, hstart, hgross⟩
    dsimp only
    omega

theorem Job.countCopy_state (reject : Bool) (j : Job) : (j.countCopy reject).state = j.state := by
  unfold Job.countCopy
  dsimp only
  split <;> rfl

theorem Job.countCopy_cutoff (reject : Bool) (j : Job) : (j.countCopy reject).cutoff = j.cutoff := by
  unfold Job.countCopy
  dsimp only
  split <;> rfl

theorem modJob_countCopy_keeps (s : State) (j : JobSlot) (reject : Bool) (hroom : s.jobs[j].gross < Config.max32) :
    s.Keeps c (s.modJob j (Job.countCopy reject)) :=
  modJob_keeps_of_same s j _ (Job.countCopy_state ..) (Job.countCopy_cutoff ..) (Job.countCopy_legal reject hroom)

theorem countCopy_keeps (s : State) (reject : Bool) : s.Keeps c (s.countCopy reject) := by
  unfold State.countCopy
  split
  · exact .refl s
  · next j _ =>
    dsimp only
    split
    · exact modJob_keeps s j (by simp [Job.SameCounts])
    · next hfull =>
      have hroom : s.jobs[j].gross < Config.max32 := by
        rw [not_or, not_le] at hfull
        exact hfull.2
      split
      · refine (chargeRun_keeps s j).trans <| (modJob_countCopy_keeps _ j reject ?_).trans (budgetCheck_keeps ..)
        simpa [State.chargeRun] using hroom
      · exact modJob_countCopy_keeps s j reject hroom

/-! ## The changeover -/

theorem compareArm_keeps (s : State) (n : StandNo) (a : Arm) : s.Keeps c (s.compareArm n a) := by
  unfold State.compareArm
  dsimp only
  split
  · exact demote_keeps ..
  · split
    · refine (modArm_keeps s n a fun x => { x with status := .ready }).trans ?_
      split
      · exact enterSplicing_keeps ..
      · exact .refl _
    · exact .refl s
  · exact .refl s

theorem compareStand_keeps (s : State) (n : StandNo) : s.Keeps c (s.compareStand n) := by
  unfold State.compareStand
  split
  · exact .refl s
  · exact (compareArm_keeps ..).trans (compareArm_keeps ..)

theorem pruneSlot_keeps (s : State) (k : OrderSlot) : s.Keeps c (s.pruneSlot k).1 := by
  unfold State.pruneSlot
  split
  · exact .refl s
  · split
    · exact .refl s
    · exact (withdraw_keeps ..).trans (markCancelled_keeps ..)

theorem pruneOrders_keeps (s : State) : s.Keeps c s.pruneOrders.1 := by
  have h (l : List OrderSlot) (p : State × List StandNo) : p.1.Keeps c (l.foldl (fun p k =>
      let q := p.1.pruneSlot k
      (q.1, match q.2 with | none => p.2 | some n => p.2 ++ [n])) p).1 := by
    induction l generalizing p with
    | nil => exact .refl p.1
    | cons k l ih => exact (pruneSlot_keeps p.1 k).trans (ih (_, _))
  exact h (List.finRange 32) (s, [])

theorem adoptPlan_keeps (s : State) : s.Keeps c s.adoptPlan.1 := by
  unfold State.adoptPlan
  dsimp only
  generalize (List.finRange 8).filter _ = again
  refine (pruneOrders_keeps s).trans <| (foldl_keeps appendDemand_keeps again _).trans ?_
  have hexamine (t : State) (l : List StandNo) : t.Keeps c (State.examine { t with demand := l }) :=
    .trans (t := { t with demand := l }) (keeps_of_legalFields rfl) (examine_keeps _)
  exact (hexamine _ _).trans (foldl_keeps postShort_keeps again _)

/-- R152 step 1, slot by slot. -/
theorem closeJob_jobs (s : State) (i : JobSlot) :
    s.closeJob.jobs[i] = if s.activeSlot = some i then { s.jobs[i] with state := .closed } else s.jobs[i] := by
  unfold State.closeJob
  split
  · next h => simp [h]
  · next j h =>
    simp only [h, Option.some.injEq, State.post_jobs, State.modJob_jobs, getElem_set_fin]
    by_cases hij : i = j
    · simp [hij]
    · simp [hij, Ne.symm hij]

theorem activeSlot_eq_some {s : State} {j : JobSlot} (h : s.activeSlot = some j) : s.jobs[j].state = .active :=
  of_decide_eq_true (find?_finRange_eq_some.1 h).1

theorem stagedSlot_eq_some {s : State} {j : JobSlot} (h : s.stagedSlot = some j) : s.jobs[j].state = .staged :=
  of_decide_eq_true (find?_finRange_eq_some.1 h).1

/-- R148: with one ACTIVE slot at most, that slot is the one found. -/
theorem activeSlot_of_active {s : State} (h : s.JobsLegal) {j : JobSlot} (hj : s.jobs[j].state = .active) :
    s.activeSlot = some j := by
  cases hfind : s.activeSlot with
  | none => exact absurd hj (of_decide_eq_false (find?_finRange_eq_none.1 hfind j))
  | some i =>
    have hi := activeSlot_eq_some hfind
    exact congrArg some (h.2 i j (hi.trans hj.symm) (.inl hi))

/-- R152, slot by slot: the STAGED slot becomes ACTIVE, the ACTIVE one CLOSED. -/
theorem activate_jobs {s : State} {j : JobSlot} (hj : s.stagedSlot = some j) (i : JobSlot) :
    (s.activate j).jobs[i] =
      if i = j then { s.jobs[j] with state := .active, phase := if s.saleable then .saleable else .startup }
      else if s.activeSlot = some i then { s.jobs[i] with state := .closed } else s.jobs[i] := by
  have hne : s.activeSlot ≠ some j := fun h => by
    have := (activeSlot_eq_some h).symm.trans (stagedSlot_eq_some hj)
    contradiction
  simp only [State.activate, State.modJob_jobs, getElem_set_fin, closeJob_jobs]
  split <;> rfl

theorem activate_keeps {s : State} {j : JobSlot} (hj : s.stagedSlot = some j) : s.Keeps c (s.activate j) := by
  have hfields : ((s.activate j).requests, (s.activate j).answers, (s.activate j).received) =
      (s.requests, s.answers, s.received) := by rw [s.activate_changes]
  simp only [Prod.mk.injEq] at hfields
  obtain ⟨hreq, hans, hrec⟩ := hfields
  have hread := activate_jobs hj
  have hcounts (i : JobSlot) : (s.activate j).jobs[i].Legal ↔ s.jobs[i].Legal := by
    rw [hread]
    split
    · next h => rw [h]; rfl
    · split <;> rfl
  have hcut (i : JobSlot) : (s.activate j).jobs[i].cutoff = s.jobs[i].cutoff := by
    rw [hread]
    split
    · next h => rw [h]
    · split <;> rfl
  refine ⟨hreq, hans, hrec, fun h => ?_, fun h => ⟨fun i => (hcounts i).2 (h.1 i), ?_⟩, ?_,
    fun _ h => ⟨?_, Nat.zero_lt_succ 999, fun i => ?_⟩, ?_⟩
  · change NoticesLegal s.closeJob.notices
    unfold State.closeJob
    split
    · exact h
    · exact (post_keeps (c := True) _ _ _).notices h
  · have hactive (i : JobSlot) : (s.activate j).jobs[i].state = .active → i = j := by
      rw [hread]
      split
      · next hi => exact fun _ => hi
      · split
        · intro h; contradiction
        · next hi => exact fun hact => absurd (activeSlot_of_active h hact) hi
    have hstaged (i : JobSlot) : (s.activate j).jobs[i].state ≠ .staged := by
      rw [hread]
      split
      · simp
      · split
        · simp
        · next hi _ => exact fun hst => hi (h.2 i j (hst.trans (stagedSlot_eq_some hj).symm) (.inr hst))
    intro i i' heq hor
    obtain hor | hor := hor
    · exact (hactive i hor).trans (hactive i' (heq ▸ hor)).symm
    · exact absurd hor (hstaged i)
  · rw [s.activate_changes]
    exact id
  · rw [s.activate_changes]
    exact h.1
  · rw [hcut]
    exact h.2.2 i
  · rw [s.activate_changes]
    exact id

theorem changeover_keeps {s : State} {j : JobSlot} (hj : s.stagedSlot = some j) : s.Keeps c (s.changeover j).1 := by
  have hcompare := foldl_keeps (c := c) compareStand_keeps (List.finRange 8) (s.activate j)
  unfold State.changeover
  dsimp only
  generalize (List.finRange 8).foldl State.compareStand (s.activate j) = t at hcompare ⊢
  exact (activate_keeps hj).trans <| hcompare.trans <| (adoptPlan_keeps t).trans (pair_keeps _)

/-! ## The hall seconds -/

theorem tickDeadline_keeps (s : State) (k : OrderSlot) : s.Keeps c (s.tickDeadline k) := by
  unfold State.tickDeadline
  split
  · exact .refl s
  · next o _ =>
    split
    · split
      · exact .trans (t := s.setOrder k (some { o with deadline := .expired, stalled := true }))
          (keeps_of_legalFields rfl) (post_keeps ..)
      · exact keeps_of_legalFields rfl
    · exact .refl s

theorem tickTenure_keeps (s : State) (g : AisleNo) : s.Keeps c (s.tickTenure g) := by
  have hmod (f : Aisle → Aisle) : s.Keeps c (s.modAisle g f) := keeps_of_legalFields rfl
  unfold State.tickTenure State.expireTenure State.postBlocked
  split
  · split
    · split
      · exact hmod _
      · exact (hmod _).trans (post_keeps ..)
    · exact hmod _
  · exact .refl s

theorem tick_keeps (s : State) : s.Keeps c s.tick :=
  (foldl_keeps tickDeadline_keeps (List.finRange 32) s).trans (foldl_keeps tickTenure_keeps (List.finRange 8) _)

/-- The accumulator moves and stays below the modulus (R75). -/
theorem accumulate_keeps (s : State) (n : Nat) (hn : s.SettingsLegal → n < Config.hallModulus) :
    s.Keeps c { s with hallAccumulator := n } :=
  ⟨rfl, rfl, rfl, id, id, fun h => ⟨h.1, h.2.1, h.2.2.1, h.2.2.2.1, hn h⟩, fun _ => id, id⟩

theorem refclk_keeps (s : State) : s.Keeps c s.refclk := by
  unfold State.refclk
  dsimp only
  split
  · next hlt => exact accumulate_keeps s _ fun _ => hlt
  · refine (accumulate_keeps s (s.hallAccumulator + s.hallIncrement - Config.hallModulus) fun h => ?_).trans
      (tick_keeps _)
    obtain ⟨-, -, -, hinc, hacc⟩ := h
    simp only [Config.max32, Config.hallModulus] at *
    omega

/-- R75: the edge that carries leaves less than one increment in the accumulator. -/
theorem edgesToCarry_lt (s : State) (hpos : 0 < s.hallIncrement) (hacc : s.hallAccumulator < Config.hallModulus) :
    s.hallAccumulator + s.edgesToCarry * s.hallIncrement < Config.hallModulus + s.hallIncrement := by
  have hle : s.edgesToCarry * s.hallIncrement ≤
      (Config.hallModulus - s.hallAccumulator) + (s.hallIncrement - 1) := Nat.div_mul_le_self _ _
  omega

theorem hallSecond_keeps (s : State) : s.Keeps c s.hallSecond := by
  unfold State.hallSecond
  split
  · exact .refl s
  · next hinc =>
    refine (accumulate_keeps s (s.hallAccumulator + s.edgesToCarry * s.hallIncrement - Config.hallModulus)
      fun h => ?_).trans (tick_keeps _)
    obtain ⟨-, -, -, hmax, hacc⟩ := h
    have := edgesToCarry_lt s (by omega) hacc
    simp only [Config.max32, Config.hallModulus] at *
    omega

theorem hallSeconds_keeps (m : Nat) (s : State) : s.Keeps c (hallSeconds m s) := by
  induction m generalizing s with
  | zero => exact .refl s
  | succ m ih => exact (hallSecond_keeps s).trans (ih _)

/-! ## The reports -/

theorem refuse_keeps (s : State) (v : VehicleNo) (kind : Byte) (e : Reason) : s.Keeps c (s.refuse v kind e) :=
  .trans (t := s.instruct v (.refuse kind e)) (keeps_of_legalFields rfl) (post_keeps ..)

theorem reportOnline_keeps (s : State) (tag : Option Nat) (aisle : Option AisleNo) (v : VehicleNo) :
    s.Keeps c (s.reportOnline tag aisle v) := by
  have hback (t : State) (ht : t = { s with
      idle := t.idle, vehicles := t.vehicles, outbound := t.outbound, aisles := t.aisles }) : s.Keeps c t :=
    keeps_of_legalFields (by rw [ht]; rfl)
  unfold State.reportOnline State.idleIfEmpty State.parkIn
  dsimp only
  repeat' split
  any_goals exact refuse_keeps ..
  all_goals exact hback _ rfl

theorem reportAtPlace_keeps (s : State) (p : Place) (v : VehicleNo) : s.Keeps c (s.reportAtPlace p v) := by
  have harrive (g : AisleNo) : s.Keeps c (s.arrive g v) := keeps_of_legalFields (by rw [s.arrive_changes]; rfl)
  have hend : s.Keeps c ((s.endDrive v).ack v 0x02) :=
    keeps_of_legalFields (by rw [State.ack, State.instruct, s.endDrive_changes]; rfl)
  have hleg (k : OrderSlot) : s.Keeps c (s.atLegPlace v k p) := by
    unfold State.atLegPlace
    split
    · dsimp only
      split
      · exact harrive _
      · split
        · exact harrive _
        · exact refuse_keeps ..
    · split
      · exact keeps_of_legalFields rfl
      · exact hend
    · exact hend
  unfold State.reportAtPlace
  dsimp only
  repeat' split
  any_goals exact refuse_keeps ..
  all_goals exact hleg _

theorem leaveDock_keeps (s : State) (k : RollSlot) : s.Keeps c (s.leaveDock k) := by
  refine ⟨rfl, rfl, rfl, id, id, id, fun _ => id, fun h => ?_⟩
  obtain ⟨hwf, htags, hrolls, hseq, hdock⟩ := h
  exact ⟨hwf, htags, hrolls, hseq, (List.length_filter_le _ _).trans hdock⟩

theorem pick_keeps (s : State) (v : VehicleNo) (o : Order) : s.Keeps c (s.pick v o) := by
  have hleave (t : State) : t.Keeps c (t.leaveSource o.roll o.source) := by
    unfold State.leaveSource
    split
    · exact leaveDock_keeps ..
    · exact keeps_of_legalFields rfl
    · exact vacateArm_keeps ..
    · exact .refl t
  have hadvance (t : State) : t.Keeps c (t.advance v .laden .laden) :=
    keeps_of_legalFields (by rw [t.advance_changes]; rfl)
  have hexamine (t : State) : t.Keeps c (t.examineAfterPick o.source) := by
    unfold State.examineAfterPick
    split
    · exact examine_keeps t
    · exact examine_keeps t
    · exact .refl t
  refine .trans (t := s.ack v 0x03) (keeps_of_legalFields rfl) <|
    (modRoll_keeps_same _ o.roll (fun r => { r with state := .carried, location := .vehicle v }) (by simp)).trans <|
    (hleave _).trans <| .trans (t := State.modVehicle _ v fun x => { x with roll := some o.roll })
      (keeps_of_legalFields rfl) <| (hadvance _).trans (hexamine _)

theorem reportPicked_keeps (s : State) (tag : Nat) (v : VehicleNo) : s.Keeps c (s.reportPicked tag v) := by
  unfold State.reportPicked
  dsimp only
  repeat' split
  any_goals exact refuse_keeps ..
  all_goals exact pick_keeps ..

theorem placeDropped_keeps (s : State) (k : RollSlot) (r : Roll) (p : Place) : s.Keeps c (s.placeDropped k r p) := by
  unfold State.placeDropped
  split
  · next l =>
    exact (modRoll_keeps_same s k (fun x => { x with state := .stored, location := .lane l }) (by simp)).trans
      (keeps_of_legalFields rfl)
  · exact placeStandby_keeps ..
  · exact eraseRoll_keeps ..

theorem complete_keeps (s : State) (v : VehicleNo) (k : OrderSlot) (o : Order) (r : Roll) :
    s.Keeps c (s.complete v k o r) := by
  have hdone (t : State) (x : Option Order) : t.Keeps c (t.setOrder k x) := keeps_of_legalFields rfl
  have hidle (t : State) : t.Keeps c
      (((t.modVehicle v fun x => { x with order := none, state := .idle }).enterIdle v).ack v 0x04) :=
    keeps_of_legalFields rfl
  exact .trans (t := s.modVehicle v fun x => { x with roll := none }) (keeps_of_legalFields rfl) <|
    (placeDropped_keeps _ o.roll r o.dest).trans <| (unclaim_keeps _ o.roll).trans <| (hdone _ _).trans <|
    (post_keeps _ _ _).trans <| (hidle _).trans (examine_keeps _)

theorem reportDropped_keeps (s : State) (v : VehicleNo) : s.Keeps c (s.reportDropped v) := by
  unfold State.reportDropped
  dsimp only
  repeat' split
  any_goals exact refuse_keeps ..
  all_goals exact complete_keeps ..

theorem handOver_keeps (s : State) (g : AisleNo) : s.Keeps c (s.handOver g) :=
  keeps_of_legalFields (by rw [s.handOver_changes]; rfl)

theorem reportClear_keeps (s : State) (v : VehicleNo) : s.Keeps c (s.reportClear v) := by
  unfold State.reportClear
  repeat' split
  any_goals exact refuse_keeps ..
  all_goals exact .trans (t := s.ack v 0x05) (keeps_of_legalFields rfl) (handOver_keeps ..)

theorem reportPark_keeps (s : State) (v : VehicleNo) : s.Keeps c (s.reportPark v) := by
  have hpark (g : AisleNo) : s.Keeps c (s.parkHolder v g) := by
    unfold State.parkHolder
    dsimp only
    split <;> exact keeps_of_legalFields rfl
  unfold State.reportPark
  repeat' split
  any_goals exact refuse_keeps ..
  all_goals exact hpark _

theorem stallOrderOf_keeps (s : State) (v : VehicleNo) : s.Keeps c (s.stallOrderOf v) := by
  unfold State.stallOrderOf
  split
  · exact .refl s
  · next k _ =>
    split
    · exact .refl s
    · next o _ =>
      exact .trans (t := s.setOrder k (some { o with stalled := true })) (keeps_of_legalFields rfl) (post_keeps ..)

theorem reportFault_keeps (s : State) (code : Nat) (v : VehicleNo) : s.Keeps c (s.reportFault code v) := by
  have hmod (f : Vehicle → Vehicle) : s.Keeps c (s.modVehicle v f) := keeps_of_legalFields rfl
  have hack (t : State) : t.Keeps c (t.ack v 0x07) := keeps_of_legalFields rfl
  have hstop (t : State) : t.Keeps c ((t.leaveIdle v).endWait v) :=
    keeps_of_legalFields (by rw [State.endWait_changes]; rfl)
  unfold State.reportFault
  split
  · exact refuse_keeps ..
  · exact (hmod _).trans <| (post_keeps ..).trans (hack _)
  · exact (hmod _).trans <| (hstop _).trans <| (post_keeps ..).trans <| (stallOrderOf_keeps ..).trans (hack _)

theorem reportOffline_keeps (s : State) (v : VehicleNo) : s.Keeps c (s.reportOffline v) := by
  have hrelease (t : State) : t.Keeps c (t.releaseTenure v) :=
    keeps_of_legalFields (by rw [t.releaseTenure_changes]; rfl)
  have hgo : s.Keeps c (s.goOffline v) :=
    .trans (t := ((s.modVehicle v fun x => { x with state := .offline, beforeFault := none, faultCode := 0
      }).leaveIdle v).ack v 0x08) (keeps_of_legalFields rfl) (hrelease _)
  unfold State.reportOffline
  repeat' split
  any_goals exact refuse_keeps ..
  all_goals exact hgo

end Sys2Proof.Machine

/-! PROOF. Every request, report and event keeps the five invariants, and so does every step. -/

namespace Sys2Proof.Machine

variable {s t : State}

/-! ## Replies -/

/-- A reply refuses, or its records keep the invariants of `s`. -/
def Reply.Keeps (s : State) : Reply → Prop
  | .refuse _ => True
  | .ok t _ => s.Keeps True t

theorem withRoll_keeps {bytes : List Byte} {body : RollSlot → Roll → Reply} (h : ∀ k r, (body k r).Keeps s) :
    (s.withRoll bytes body).Keeps s := by
  unfold State.withRoll
  split
  · trivial
  · split
    · trivial
    · exact h _ _

theorem withStand_keeps {b : Nat} {body : StandNo → Reply} (h : ∀ n, (body n).Keeps s) :
    (withStand b body).Keeps s := by
  unfold withStand
  split
  · trivial
  · exact h _

theorem withJob_keeps {b : Nat} {body : JobSlot → Reply} (h : ∀ j, (body j).Keeps s) :
    (withJob b body).Keeps s := by
  unfold withJob
  split
  · trivial
  · exact h _

theorem withOrder_keeps {number : Nat} {body : OrderSlot → Order → Reply} (h : ∀ k o, (body k o).Keeps s) :
    (s.withOrder number body).Keeps s := by
  unfold State.withOrder
  split
  · trivial
  · split
    · trivial
    · split
      · trivial
      · exact h _ _

/-! ## The readers -/

section
variable (f : List Byte) (s : State)

theorem readRoll_keeps : (readRoll f s).Keeps s := withRoll_keeps fun _ _ => .refl s

theorem readLane_keeps : (readLane f s).Keeps s := by
  unfold readLane
  split
  · trivial
  · exact .refl s

theorem countStock_keeps : (countStock f s).Keeps s := by
  unfold countStock
  dsimp only
  split
  · split
    · exact .refl s
    · trivial
  · trivial

theorem readOrder_keeps : (readOrder f s).Keeps s := by
  unfold readOrder
  split
  · trivial
  · split
    · trivial
    · exact .refl s

theorem readVehicle_keeps : (readVehicle f s).Keeps s := by
  unfold readVehicle
  split
  · trivial
  · exact .refl s

theorem readAisle_keeps : (readAisle f s).Keeps s := by
  unfold readAisle
  split
  · trivial
  · exact .refl s

theorem readStand_keeps : (readStand f s).Keeps s := withStand_keeps fun _ => .refl s

theorem readJob_keeps : (readJob f s).Keeps s := withJob_keeps fun _ => .refl s

/-! ## The port and the register -/

theorem fetchNotice_keeps : (fetchNotice f s).Keeps s := by
  unfold fetchNotice
  split
  · exact .refl s
  · next e rest hes =>
    have htail : s.Keeps True { s with notices := rest } :=
      ⟨rfl, rfl, rfl, fun h => by
        rw [hes] at h
        exact ⟨(List.nodup_cons.1 h.1).2, fun x hx => h.2 x (List.mem_cons_of_mem e hx)⟩,
        id, id, fun _ => id, id⟩
    dsimp only
    split
    · exact htail
    · exact htail.trans <| .trans (t := State.setOrder _ _ none) (keeps_of_legalFields rfl) <|
        (examine_keeps _).trans (pair_keeps _)

/-- A table written at a key it does not list holds its old entries and the new one. -/
theorem tableSet_perm {α : Type} {t : List (Nat × α)} {k : Nat} (x : α) (h : tableGet t k = none) :
    (tableSet t k x).Perm ((k, x) :: t) := by
  induction t with
  | nil => exact .refl _
  | cons p t ih =>
    obtain ⟨j, y⟩ := p
    have hj : j ≠ k := fun hj => by simp [tableGet, hj] at h
    rw [tableGet, if_neg hj] at h
    unfold tableSet
    split
    · exact .refl _
    · rw [if_neg (Ne.symm hj)]
      exact ((ih h).cons _).trans (.swap ..)

theorem freeRollSlot_lt {k : RollSlot} (h : s.freeRollSlot = some k) : k < Config.rollSlots := by
  unfold State.freeRollSlot at h
  dsimp only at h
  split at h
  · next hlt => exact Option.some.inj h ▸ hlt
  · contradiction

theorem freeRollSlot_free {k : RollSlot} (hwf : tableWf Config.rollSlots s.rolls = true)
    (h : s.freeRollSlot = some k) : tableGet s.rolls k = none := by
  obtain ⟨-, hnone, -⟩ := tableFree_spec 0 hwf fun p _ => Nat.zero_le p.1
  unfold State.freeRollSlot at h
  dsimp only at h
  split at h
  · exact Option.some.inj h ▸ hnone
  · contradiction

/-- R18, R20: a lawful record of a new tag enters a free slot, and the dock list has a place for it. -/
theorem createRoll_register {k : RollSlot} {r : Roll} {dock : List RollSlot} (h : s.RegisterLegal)
    (hk : s.freeRollSlot = some k) (hr : s.sequence ≤ Config.max32 → r.Legal) (htag : findTag r.tag s.rolls = none)
    (hdock : s.dock.length ≤ 16 → dock.length ≤ 16) :
    State.RegisterLegal { s.createRoll k r with dock := dock } := by
  obtain ⟨hwf, htags, hrolls, hseq, hlen⟩ := (registerLegal_iff s).1 h
  have hperm := tableSet_perm r (freeRollSlot_free s hwf hk)
  refine (registerLegal_iff _).2 ⟨tableWf_tableSet r hwf (freeRollSlot_lt s hk), ?_, fun p hp => ?_,
    min_le_left _ _, hdock hlen⟩
  · refine (hperm.map fun p => p.2.tag).nodup_iff.2 ?_
    rw [List.map_cons, List.nodup_cons]
    refine ⟨fun hmem => ?_, htags⟩
    obtain ⟨p, hp, heq⟩ := List.mem_map.1 hmem
    exact (findTag_eq_none_iff _ _).1 htag p hp heq
  · obtain rfl | hp := List.mem_cons.1 (hperm.mem_iff.1 hp)
    · exact hr hseq
    · exact hrolls p hp

theorem createRoll_keeps {k : RollSlot} {r : Roll} {dock : List RollSlot} (hk : s.freeRollSlot = some k)
    (hr : s.sequence ≤ Config.max32 → r.Legal) (htag : findTag r.tag s.rolls = none)
    (hdock : s.dock.length ≤ 16 → dock.length ≤ 16) : s.Keeps True { s.createRoll k r with dock := dock } :=
  ⟨rfl, rfl, rfl, id, id, id, fun _ => id, fun h => createRoll_register s h hk hr htag hdock⟩

theorem length_append_le_of_not_full {dock : List RollSlot} (h : ¬ Config.dockPlaces ≤ dock.length) (k : RollSlot) :
    (dock ++ [k]).length ≤ 16 := by
  simp only [Config.dockPlaces, List.length_append, List.length_singleton] at *
  omega

theorem registerRoll_keeps : (registerRoll f s).Keeps s := by
  unfold registerRoll
  dsimp only
  split
  · trivial
  · next g _ =>
    split
    · trivial
    · next hfig =>
      split
      · trivial
      · next htag =>
        split
        · trivial
        · next k hk =>
          split
          · trivial
          · next hplace =>
            rw [not_or, Bool.not_eq_false] at hfig
            obtain ⟨ht, -⟩ := (figuresValid_iff ..).1 hfig.1
            exact createRoll_keeps s hk (fun hseq => ⟨ht.1, ht.2, le_rfl, Nat.zero_le _, hseq⟩)
              (Option.not_isSome_iff_eq_none.1 htag) fun _ => length_append_le_of_not_full hplace k

/-- R32 to R34: only a roll on the dock lengthens the dock list. -/
theorem placeDeclared_keeps (k : RollSlot) (r : Roll) (hloc : r.location ≠ .dock) :
    s.Keeps True (s.placeDeclared k r) := by
  unfold State.placeDeclared
  split
  · contradiction
  · next l _ =>
    have hlane (g : Lane → Lane) : s.Keeps True (s.modLane l g) := keeps_of_legalFields rfl
    dsimp only
    split
    · exact (hlane _).trans <| (examine_keeps _).trans (pair_keeps _)
    · exact hlane _
  · exact keeps_of_legalFields rfl
  · split
    · exact modStand_keeps_of_lt _ _ _ fun _ _ => Nat.zero_lt_succ 999
    · exact modArm_keeps ..
    · exact modArm_keeps ..

/-- R30: the dock is the location of a DOCKED roll alone. -/
theorem location?_dock {st : RollState} {index armByte : Nat} (h : location? st index armByte = some .dock) :
    st = .docked := by
  cases st with
  | docked => rfl
  | stored | carried =>
    simp only [location?] at h
    split at h
    · obtain ⟨_, _, h⟩ := Option.map_eq_some_iff.1 h
      contradiction
    · contradiction
  | standby | running | stub =>
    obtain ⟨_, _, h⟩ := Option.bind_eq_some_iff.1 h
    obtain ⟨_, _, h⟩ := Option.map_eq_some_iff.1 h
    contradiction

theorem declareRoll_keeps : (declareRoll f s).Keeps s := by
  unfold declareRoll
  dsimp only
  split
  · next g st _ _ =>
    split
    · trivial
    · next place hplace =>
      split
      · trivial
      · next hfields =>
        split
        · trivial
        · next htag =>
          split
          · trivial
          · next k hk =>
            split
            · trivial
            · next hfull =>
              split
              · trivial
              · simp only [not_or, Bool.not_eq_false] at hfields
                obtain ⟨hfig, -, -, hrem, -⟩ := hfields
                obtain ⟨ht, -⟩ := (figuresValid_iff ..).1 hfig
                have hnew := Option.not_isSome_iff_eq_none.1 htag
                by_cases hdock : place = .dock
                · subst hdock
                  have hdocked := location?_dock hplace
                  subst hdocked
                  have hroom : ¬ Config.dockPlaces ≤ s.dock.length := fun h => hfull ⟨rfl, h⟩
                  exact createRoll_keeps s hk
                    (fun hseq => ⟨ht.1, ht.2, not_lt.1 hrem, Nat.zero_le _, hseq⟩) hnew
                    fun _ => length_append_le_of_not_full hroom k
                · exact .trans (createRoll_keeps s (dock := s.dock) hk
                    (fun hseq => ⟨ht.1, ht.2, not_lt.1 hrem, Nat.zero_le _, hseq⟩) hnew id)
                    (placeDeclared_keeps _ k _ hdock)
  · trivial

theorem amendRoll_keeps : (amendRoll f s).Keeps s := by
  have hflags (k : RollSlot) (hold damaged : Bool) : s.Keeps True (s.modRoll k fun x =>
      { x with hold := hold, damaged := damaged }) := modRoll_keeps_same s k _ (by simp)
  have hend (t : State) (p : Prop) [Decidable p] (h : s.Keeps True t) :
      s.Keeps True (if p then t.examine else t).pair := by
    split
    · exact (h.trans (examine_keeps _)).trans (pair_keeps _)
    · exact h.trans (pair_keeps _)
  unfold amendRoll
  split
  · refine withRoll_keeps fun k r => hend _ _ ?_
    split
    · exact hflags k _ _
    · exact (hflags k _ _).trans (holdCancel_keeps ..)
  · trivial

theorem leavePlace_keeps (k : RollSlot) (p : Location) : s.Keeps True (s.leavePlace k p) := by
  unfold State.leavePlace
  split
  · exact leaveDock_keeps ..
  · exact keeps_of_legalFields rfl
  · unfold State.leaveVehicle
    dsimp only
    split <;> exact keeps_of_legalFields rfl
  · exact vacateArm_keeps ..

theorem retire_keeps (k : RollSlot) (r : Roll) : s.Keeps True (s.retire k r) := by
  have herase := (leavePlace_keeps s k r.location).trans (eraseRoll_keeps _ k)
  unfold State.retire
  dsimp only
  split
  · exact herase.trans <| (examine_keeps _).trans (pair_keeps _)
  · exact herase.trans <| (examine_keeps _).trans (pair_keeps _)
  · exact herase.trans (pair_keeps _)

theorem retireRoll_keeps : (retireRoll f s).Keeps s := withRoll_keeps fun k r => by
  split
  · exact retire_keeps s k r
  · trivial

/-! ## Orders -/

theorem createOrder_pair_keeps (slot : OrderSlot) (kind : OrderKind) (origin : OrderOrigin) (k : RollSlot)
    (r : Roll) (source dest : Place) : s.Keeps True (s.createOrder slot kind origin k r source dest).pair :=
  (createOrder_keeps ..).trans (pair_keeps _)

theorem putAway_keeps : (putAway f s).Keeps s := by
  unfold putAway
  split
  · trivial
  · refine withRoll_keeps fun k r => ?_
    repeat' split
    any_goals trivial
    all_goals exact createOrder_pair_keeps ..

theorem relocate_keeps : (relocate f s).Keeps s := by
  unfold relocate State.relocateFront
  repeat' split
  any_goals trivial
  all_goals exact createOrder_pair_keeps ..

theorem feed_keeps : (feed f s).Keeps s := by
  have hdemand (t : State) (l : List StandNo) : t.Keeps True (State.pair { t with demand := l }) :=
    .trans (t := { t with demand := l }) (keeps_of_legalFields rfl) (pair_keeps _)
  refine withStand_keeps fun n => ?_
  split
  · trivial
  · unfold State.feedAny
    dsimp only
    split
    · trivial
    · refine State.Keeps.trans ?_ (pair_keeps _)
      split
      · exact examine_keeps s
      · exact raiseDemand_keeps s n
  · unfold State.feedNamed
    repeat' split
    any_goals trivial
    all_goals exact (createOrder_keeps ..).trans (hdemand _ _)

theorem remove_keeps : (remove f s).Keeps s := withRoll_keeps fun k r => by
  repeat' split
  any_goals trivial
  all_goals exact createOrder_pair_keeps ..

theorem cancelOrder_keeps : (cancelOrder f s).Keeps s := withOrder_keeps fun k o => by
  split
  · exact endOrder_keeps ..
  · trivial

theorem abandonOrder_keeps : (abandonOrder f s).Keeps s := withOrder_keeps fun k o => by
  split
  · exact endOrder_keeps ..
  · trivial

/-! ## Stands -/

theorem setHold_keeps (b : Nat) (hold : Bool) : (s.setHold b hold).Keeps s := withStand_keeps fun n => by
  split
  · trivial
  · exact modStand_keeps s n _ fun _ => rfl

theorem spliceNow_keeps : (spliceNow f s).Keeps s := withStand_keeps fun n => by
  split
  · exact enterSplicing_keeps s n
  · trivial

theorem threadEmpty_keeps (n : StandNo) (named : Option Arm) : (s.threadEmpty n named).Keeps s := by
  unfold State.threadEmpty
  repeat' split
  any_goals trivial
  all_goals exact (promote_keeps ..).trans <| (setStandState_keeps ..).trans <| (markChecks_keeps ..).trans (pair_keeps _)

theorem threadStandby_keeps (n : StandNo) (a : Arm) (i : RollSlot) (old : Roll) (k : RollSlot) :
    s.Keeps True (s.threadStandby n a i old k) :=
  (promote_keeps s n a.other k).trans <| (retireOld_keeps _ n a i old).trans <|
    (setStandState_keeps ..).trans <| (markChecks_keeps ..).trans (examine_keeps _)

theorem threadOff_keeps (n : StandNo) (a : Arm) (i : RollSlot) (old : Roll) :
    s.Keeps True (s.threadOff n a i old) := by
  have hempty (t : State) : t.Keeps True (t.modStand n fun st =>
      { st with state := .empty, running := none, callUpRaised := false, fraction := 0 }) :=
    modStand_keeps_of_lt t n _ fun _ _ => Nat.zero_lt_succ 999
  exact (retireOld_keeps s n a i old).trans <| (hempty _).trans (examine_keeps _)

theorem thread_keeps : (thread f s).Keeps s := withStand_keeps fun n => by
  split
  · trivial
  · split
    · exact threadEmpty_keeps ..
    · unfold State.threadWebOut
      split
      · trivial
      · split
        · split
          · exact (threadStandby_keeps ..).trans (pair_keeps _)
          · trivial
        · exact (threadOff_keeps ..).trans (pair_keeps _)
        · trivial
    · trivial

theorem strip_keeps : (strip f s).Keeps s := withStand_keeps fun n => by
  have hstrip (a : Arm) (k : RollSlot) (r : Roll) (m : Nat) : s.Keeps True (s.strip n a k r m) := by
    have htake := (deduct_keeps (c := True) s k m).trans
      (charge_keeps _ (f := Job.chargeStrip (min m r.remaining)) (by simp [Job.SameCounts, Job.chargeStrip]))
    unfold State.strip
    dsimp only
    split
    · exact htake.trans <| (markChecks_keeps ..).trans (pair_keeps _)
    · exact htake
  repeat' split
  any_goals trivial
  all_goals exact hstrip ..

theorem setMarks_keeps : (setMarks f s).Keeps s := withStand_keeps fun n => by
  have hmarks (callUp splice : Nat) : s.Keeps True (s.modStand n fun st =>
      { st with callUpMark := callUp, spliceMark := splice }) := modStand_keeps s n _ fun _ => rfl
  repeat' split
  any_goals trivial
  all_goals exact (hmarks _ _).trans <| (markChecks_keeps ..).trans (pair_keeps _)

/-! ## Jobs -/

theorem stage_keeps {number cutoff budget : Nat} {plan : WebPlan} (hcut : cutoff ≤ 999) :
    (s.stage number cutoff budget plan).Keeps s := by
  unfold State.stage
  split
  · trivial
  · split
    · trivial
    · split
      · next j hj =>
        have hst := stagedSlot_eq_some hj
        exact modJob_keeps_of s j _ (fun h _ i hi => h.2 i j (hi.trans hst.symm) (.inr hi)) (fun _ => hcut) id
      · next j hnone _ =>
        have hother (i : JobSlot) : s.jobs[i].state ≠ .staged :=
          of_decide_eq_false (find?_finRange_eq_none.1 hnone i)
        exact modJob_keeps_of s j _ (fun _ _ i hi => absurd hi (hother i)) (fun _ => hcut)
          fun _ => ⟨rfl, le_rfl, Nat.zero_le _⟩
      · trivial

theorem stageJob_keeps : (stageJob f s).Keeps s := by
  unfold stageJob
  dsimp only
  split
  · trivial
  · next hfields =>
    split
    · trivial
    · rw [not_or, not_or, Bool.not_eq_false, within, decide_eq_true_eq] at hfields
      obtain ⟨-, ⟨-, hcut⟩, -⟩ := hfields
      exact stage_keeps s hcut

theorem changeover_reply_keeps : (changeover f s).Keeps s := by
  unfold changeover
  split
  · trivial
  · next hj => exact changeover_keeps hj

theorem setBudget_keeps : (setBudget f s).Keeps s := withJob_keeps fun j => by
  dsimp only
  split
  · exact modJob_keeps s j (by simp [Job.SameCounts])
  · refine (modJob_keeps s j ?_).trans (budgetCheck_keeps _ j)
    simp [Job.SameCounts]
  · trivial
  · trivial

theorem retireJob_keeps : (retireJob f s).Keeps s := withJob_keeps fun j => by
  have hfreed : s.Keeps True (s.modJob j fun _ => Job.freed) :=
    modJob_keeps_of s j _ (fun _ h => by simp [Job.freed] at h) (fun _ => Nat.zero_le _)
      fun _ => ⟨rfl, le_rfl, Nat.zero_le _⟩
  dsimp only
  split
  · exact hfreed
  · trivial

/-! ## Settings -/

/-- R187: in a valid set of settings every stand's increment is 1 to 999. -/
theorem valid_rollerIncrement {x : Settings} (h : x.valid = true) (n : StandNo) :
    1 ≤ x.stands[n].rollerIncrement ∧ x.stands[n].rollerIncrement ≤ 999 := by
  simp only [Settings.valid, Bool.and_eq_true, List.all_eq_true] at h
  obtain ⟨⟨-, hstands⟩, -⟩ := h
  obtain ⟨hrange, -⟩ := hstands x.stands[n] (by simp)
  simp only [StandSetting.inRange, Bool.and_eq_true, within, decide_eq_true_eq] at hrange
  exact hrange.1.1.1.1.1

/-- R187: in a valid set of settings the generator's increment is in its range. -/
theorem valid_increment {x : Settings} (h : x.valid = true) :
    1 ≤ x.fleet.increment ∧ x.fleet.increment ≤ Config.max32 := by
  simp only [Settings.valid, Bool.and_eq_true] at h
  obtain ⟨-, hfleet⟩ := h
  simp only [FleetSetting.inRange, Bool.and_eq_true, within, decide_eq_true_eq] at hfleet
  exact hfleet.2

/-- R189, R191: valid settings come into force. -/
theorem inForce_keeps {x : Settings} (hx : x.valid = true) :
    s.Keeps True { s with working := x, loaded := x, hallIncrement := x.fleet.increment, device := .ready } :=
  ⟨rfl, rfl, rfl, id, id, fun h => ⟨fun _ => hx, hx, (valid_increment hx).1, (valid_increment hx).2, h.2.2.2.2⟩,
    fun _ h => ⟨fun n => ⟨(h.1 n).1, valid_rollerIncrement hx n⟩, h.2⟩, id⟩

theorem putInForce_keeps {x : Settings} (hx : x.valid = true) : s.Keeps True (s.putInForce x) := by
  have hstart (t : State) (n : StandNo) : t.Keeps True (t.modStand n fun st => st.start x.stands[n]) :=
    modStand_keeps t n _ fun st => by unfold Stand.start; split <;> rfl
  exact (foldl_keeps hstart (List.finRange 8) s).trans (inForce_keeps _ hx)

/-- A change of the stands one after the other leaves every other record. -/
theorem foldl_modStand_changes (g : StandNo → Stand → Stand) (l : List StandNo) (s : State) :
    l.foldl (fun t n => t.modStand n (g n)) s =
      { s with stands := (l.foldl (fun t n => t.modStand n (g n)) s).stands } := by
  induction l generalizing s with
  | nil => rfl
  | cons n l ih => exact ih (s.modStand n (g n))

theorem commitSettings_keeps : (commitSettings f s).Keeps s := by
  have hcommit (t : State) (n : StandNo) : t.Keeps True (t.modStand n fun st => st.commit s.working.stands[n]) :=
    modStand_keeps t n _ fun st => by unfold Stand.commit; split <;> rfl
  have hfold := foldl_keeps hcommit (List.finRange 8) s
  have hchanges := foldl_modStand_changes (fun n st => st.commit s.working.stands[n]) (List.finRange 8) s
  unfold commitSettings State.commit
  dsimp only
  generalize (List.finRange 8).foldl _ s = t at hfold hchanges ⊢
  split
  · next hvalid =>
    have hforce := hfold.trans (inForce_keeps t hvalid)
    rw [hchanges] at hforce ⊢
    exact hforce
  · trivial

/-- R190: outside READY a group of the working settings changes; the stands' increments stay in their range. -/
theorem working_keeps {x : Settings} (hdev : s.device ≠ .ready)
    (hx : s.FractionsLegal → ∀ n : StandNo, 1 ≤ x.stands[n].rollerIncrement ∧ x.stands[n].rollerIncrement ≤ 999) :
    s.Keeps True { s with working := x } :=
  ⟨rfl, rfl, rfl, id, id, fun h => ⟨fun hready => absurd hready hdev, h.2⟩,
    fun _ h => ⟨fun n => ⟨(h.1 n).1, hx h n⟩, h.2⟩, id⟩

theorem setGrade_keeps (hdev : s.device ≠ .ready) : (setGrade f s).Keeps s := by
  unfold setGrade
  split
  · split
    · exact working_keeps s hdev fun h n => (h.1 n).2
    · trivial
  · trivial

theorem setLane_keeps (hdev : s.device ≠ .ready) : (setLane f s).Keeps s := by
  unfold setLane
  split
  · split
    · exact working_keeps s hdev fun h n => (h.1 n).2
    · trivial
  · trivial

theorem setFleet_keeps (hdev : s.device ≠ .ready) : (setFleet f s).Keeps s := by
  unfold setFleet
  dsimp only
  split
  · exact working_keeps s hdev fun h n => (h.1 n).2
  · trivial

theorem setStand_keeps (hdev : s.device ≠ .ready) : (setStand f s).Keeps s := by
  unfold setStand
  split
  · next n e _ _ =>
    split
    · next hrange =>
      refine .trans (working_keeps s (x := { s.working with stands := s.working.stands.set n e }) hdev
        fun h i => ?_) (setStandState_keeps ..)
      rw [getElem_set_fin]
      split
      · simp only [StandSetting.inRange, Bool.and_eq_true, within, decide_eq_true_eq] at hrange
        exact hrange.1.1.1.1.1
      · exact (h.1 i).2
    · trivial
  · trivial

/-- Outside READY nothing is required of the working settings. -/
theorem leaveReady_keeps {d : DeviceState} (hd : d ≠ .ready) : s.Keeps True { s with device := d } :=
  ⟨rfl, rfl, rfl, id, id, fun h => ⟨fun hready => absurd hready hd, h.2⟩, fun _ => id, id⟩

theorem reloadSettings_keeps : (reloadSettings f s).Keeps s := by
  unfold reloadSettings
  split
  · trivial
  · exact leaveReady_keeps s (by decide)

theorem storeSettings_keeps : (storeSettings f s).Keeps s := by
  unfold storeSettings
  split
  · trivial
  · exact keeps_of_legalFields rfl

end

/-! ## Commands -/

/-- A command keeps each of the five invariants. -/
structure State.KeepsLegal (s t : State) : Prop where
  jobs : s.JobsLegal → t.JobsLegal
  port : s.PortLegal → t.PortLegal
  settings : s.SettingsLegal → t.SettingsLegal
  fractions : s.FractionsLegal → t.FractionsLegal
  register : s.RegisterLegal → t.RegisterLegal

theorem State.KeepsLegal.trans {u : State} (h : s.KeepsLegal t) (h' : t.KeepsLegal u) : s.KeepsLegal u :=
  ⟨h'.jobs ∘ h.jobs, h'.port ∘ h.port, h'.settings ∘ h.settings, h'.fractions ∘ h.fractions,
    h'.register ∘ h.register⟩

theorem State.Keeps.legal (h : s.Keeps True t) : s.KeepsLegal t :=
  ⟨h.jobs, fun ⟨hreq, hans, hrec, hnotes⟩ => ⟨h.requests ▸ hreq, h.answers ▸ hans, h.received ▸ hrec,
    h.notices hnotes⟩, h.settings, h.fractions trivial, h.register⟩

/-- A change of none of the fields the invariants read. -/
theorem keepsLegal_of_legalFields (h : t.legalFields = s.legalFields) : s.KeepsLegal t :=
  (keeps_of_legalFields h).legal

/-- A change of the port's and the link's buffers alone. -/
theorem keepsLegal_of_port (h : s.legalFields.2 = t.legalFields.2)
    (hq : (s.device, s.working, s.loaded, s.hallIncrement, s.hallAccumulator, s.wasteFraction, s.sequence, s.dock) =
      (t.device, t.working, t.loaded, t.hallIncrement, t.hallAccumulator, t.wasteFraction, t.sequence, t.dock))
    (hport : s.PortLegal → t.PortLegal) : s.KeepsLegal t := by
  simp only [State.legalFields, Prod.mk.injEq] at h hq
  obtain ⟨-, hstand, hjob, hroll⟩ := h
  obtain ⟨hdev, hwork, hload, hinc, hacc, hwaste, hseq, hdock⟩ := hq
  refine ⟨?_, hport, ?_, ?_, ?_⟩
  · simp only [State.JobsLegal, hjob]; exact id
  · simp only [State.SettingsLegal, hdev, hwork, hload, hinc, hacc]; exact id
  · simp only [State.FractionsLegal, hstand, hwork, hwaste, hjob]; exact id
  · simp only [State.RegisterLegal, hroll, hseq, hdock]; exact id

/-- R168: an answer takes a place of the queue that is free. -/
theorem answer_keepsLegal (r : Request) (e : Result) (out : List Byte) (h : s.answers.length < 4) :
    s.KeepsLegal (s.answer r e out) :=
  keepsLegal_of_port rfl rfl fun ⟨hreq, _, hrest⟩ => ⟨hreq, by simp; omega, hrest⟩

theorem unqueued_keepsLegal {r : Request} {rest : List Request} (h : s.requests = r :: rest) :
    s.KeepsLegal (s.unqueued rest) :=
  keepsLegal_of_port rfl rfl fun ⟨hreq, hrest⟩ => ⟨by simp [h] at hreq ⊢; omega, hrest⟩

theorem serve_keepsLegal {q : RequestKind} {body : List Byte → State → Reply}
    (hbody : ∀ f u, q.gate u.device = none → (body f u).Keeps u) : s.KeepsLegal (s.serve q body) := by
  obtain h | ⟨r, rest, hreq, hans, h⟩ := serve_cases s q body
  · rw [h]
    exact (State.Keeps.refl s).legal
  · refine (unqueued_keepsLegal hreq).trans ?_
    obtain ⟨e, h⟩ | ⟨t, out, hok, hgate, h⟩ := h
    · rw [h]
      exact answer_keepsLegal r e [] hans
    · have hkeeps := hbody r.fields (s.unqueued rest) hgate
      rw [hok] at hkeeps
      rw [h]
      exact hkeeps.legal.trans (answer_keepsLegal r .ok out (hkeeps.answers ▸ hans))

theorem take_keepsLegal {α : Type} {want : FleetFrame → Option α} {body : α → VehicleNo → State → State}
    (hbody : ∀ (x : α) (v : VehicleNo) (u : State), u.Keeps True (body x v u)) : s.KeepsLegal (s.take want body) := by
  obtain h | ⟨f, rest, x, hrec, -, -, h⟩ := take_cases s want body
  · rw [h]
    exact (State.Keeps.refl s).legal
  · rw [h]
    have huntaken : s.KeepsLegal (s.untaken rest) := keepsLegal_of_port rfl rfl
      fun ⟨hreq, hans, hlen, hrest⟩ => ⟨hreq, hans, by simp [hrec] at hlen ⊢; omega, hrest⟩
    exact huntaken.trans ((hbody x f.vehicle _).trans (pair_keeps _)).legal

theorem unknownRequest_keepsLegal {s t : State} (h : execUnknownRequest s = .next t) : s.KeepsLegal t := by
  injection h with h
  subst h
  split
  · exact (State.Keeps.refl s).legal
  · next r rest hreq =>
    split
    · next hc =>
      have hans : s.answers.length < 4 := by
        obtain ⟨-, hserve⟩ := hc
        simp only [State.canServe, Bool.and_eq_true, Config.answerPlaces] at hserve
        exact of_decide_eq_true hserve.1.1
      exact (unqueued_keepsLegal hreq).trans (answer_keepsLegal r .unknownRequest [] hans)
    · exact (State.Keeps.refl s).legal

/-! ## The port and the resets -/

theorem offer_keepsLegal (s : State) (r : Request) : s.KeepsLegal (s.offer r) := by
  unfold State.offer
  split
  · next hroom =>
    refine keepsLegal_of_port rfl rfl fun ⟨_, hrest⟩ => ⟨?_, hrest⟩
    simp only [Config.requestPlaces] at hroom
    simp only [List.length_append, List.length_singleton]
    omega
  · exact keepsLegal_of_port rfl rfl id

theorem judgeFrame_keepsLegal (s : State) (mosi : List Byte) : s.KeepsLegal (s.judgeFrame mosi) := by
  unfold State.judgeFrame
  dsimp only
  split
  · exact (State.Keeps.refl s).legal
  · split
    · exact keepsLegal_of_port rfl rfl id
    · split
      · exact offer_keepsLegal ..
      · exact (State.Keeps.refl s).legal

theorem resetPort_keepsLegal (s : State) : s.KeepsLegal s.resetPort := by
  refine ⟨id, fun ⟨_, _, hrec, _⟩ => ⟨Nat.zero_le 4, Nat.zero_le 4, hrec, List.nodup_nil, ?_⟩, id, id, id⟩
  intro e he
  contradiction

theorem resetStand_keeps (s : State) (n : StandNo) : s.Keeps True (s.resetStand n) := by
  have hmarks (t : State) : t.Keeps True (t.modStand n fun st =>
      { st with
        armA := st.armA.unreserved
        armB := st.armB.unreserved
        callUpMark := t.loaded.stands[n].callUpMark
        spliceMark := t.loaded.stands[n].spliceMark }) := modStand_keeps t n _ fun _ => rfl
  unfold State.resetStand
  dsimp only
  split
  · exact (setStandState_keeps ..).trans <| (compareStandby_keeps ..).trans (hmarks _)
  · exact hmarks s

theorem reRaise_keeps (s : State) (n : StandNo) : s.Keeps True (s.reRaise n) := by
  unfold State.reRaise
  dsimp only
  split
  · exact raiseDemand_keeps s n
  · exact .refl s

/-- R41: every claim is released; tags and lengths stay. -/
theorem resetMoves_keepsLegal (s : State) : s.KeepsLegal s.resetMoves := by
  refine ⟨id, fun ⟨hreq, hans, _, hnotes⟩ => ⟨hreq, hans, Nat.zero_le 8, hnotes⟩, id, id, fun h => ?_⟩
  obtain ⟨hwf, htags, hrolls, hrest⟩ := h
  refine ⟨?_, ?_, fun p hp => ?_, hrest⟩
  · rw [tableWf_iff] at hwf ⊢
    refine ⟨by simpa [State.resetMoves, Function.comp_def] using hwf.1, fun p hp => ?_⟩
    obtain ⟨p', hp', rfl⟩ := List.mem_map.1 hp
    exact hwf.2 p' hp'
  · simpa [State.resetMoves, Function.comp_def] using htags
  · obtain ⟨p', hp', rfl⟩ := List.mem_map.1 hp
    exact hrolls p' hp'

theorem floorReset_keepsLegal (s : State) : s.KeepsLegal s.floorReset := by
  have hstands := foldl_keeps resetStand_keeps (List.finRange 8) s
  unfold State.floorReset
  dsimp only
  generalize (List.finRange 8).foldl State.resetStand s = t at hstands ⊢
  have hraise := foldl_keeps reRaise_keeps (List.finRange 8) t.resetMoves.resetPort
  split
  · exact (State.Keeps.refl s).legal
  · exact resetPort_keepsLegal s
  · exact hstands.legal.trans <| (resetMoves_keepsLegal t).trans <| (resetPort_keepsLegal _).trans hraise.legal

theorem select_keepsLegal (s : State) : s.KeepsLegal s.select := by
  unfold State.select
  split
  · exact (State.Keeps.refl s).legal
  · exact keepsLegal_of_port rfl rfl id

theorem deselect_keepsLegal (s : State) (clocked : Nat) : s.KeepsLegal (s.deselect clocked) := by
  have htail (t : State) : t.KeepsLegal { t with answers := t.answers.tail } :=
    keepsLegal_of_port rfl rfl fun ⟨hreq, hans, hrest⟩ => ⟨hreq, by simp; omega, hrest⟩
  have hmarks (overrun framing : Bool) : s.KeepsLegal
      { s with period := none, overrunMark := overrun, framingMark := framing } := keepsLegal_of_port rfl rfl id
  have hspoil (t : State) : t.KeepsLegal { t with frameSpoiled := true } := keepsLegal_of_port rfl rfl id
  unfold State.deselect
  split
  · exact (State.Keeps.refl s).legal
  · dsimp only
    split
    · exact hmarks _ _
    · split
      · split
        · exact (hmarks _ _).trans <| (htail _).trans <| (floorReset_keepsLegal _).trans (hspoil _)
        · exact (hmarks _ _).trans (htail _)
      · exact hmarks _ _

/-! ## The fleet link's receiver -/

theorem takeFrame_keepsLegal (s : State) (vehicle kind : Byte) (fields : List Byte) :
    s.KeepsLegal (s.takeFrame vehicle kind fields) := by
  unfold State.takeFrame
  split
  · exact (State.Keeps.refl s).legal
  · split
    · next hroom =>
      refine keepsLegal_of_port rfl rfl fun ⟨hreq, hans, _, hrest⟩ => ⟨hreq, hans, ?_, hrest⟩
      have := hroom.2.1
      simp only [Config.receivePlaces] at this
      simp only [List.length_append, List.length_singleton]
      omega
    · exact (State.Keeps.refl s).legal

theorem scanFrames_keepsLegal (fuel : Nat) (bytes : List Byte) (s : State) :
    s.KeepsLegal (scanFrames fuel bytes s) := by
  have hline (t : State) (b : List Byte) : t.KeepsLegal { t with lineBytes := b } := keepsLegal_of_port rfl rfl id
  induction fuel generalizing bytes s with
  | zero => exact hline _ _
  | succ fuel ih =>
    unfold scanFrames
    dsimp only
    repeat' split
    any_goals exact hline _ _
    any_goals exact ih _ _
    all_goals exact (takeFrame_keepsLegal ..).trans (ih _ _)

/-! ## Every command -/

theorem splicingSteps_keeps (n : StandNo) (fuel : Nat) (s : State) : s.Keeps True (splicingSteps n fuel s) := by
  induction fuel generalizing s with
  | zero => exact .refl s
  | succ fuel ih =>
    unfold splicingSteps
    split
    · exact (metreStep_keeps s n).trans (ih _)
    · exact .refl s

theorem endStore_keeps (s : State) (o : StoreOutcome) : s.Keeps True (s.endStore o) := by
  unfold State.endStore
  split
  · exact .trans (t := { s with store := none }) (keeps_of_legalFields rfl) (post_keeps ..)
  · exact .refl s

theorem takeSplice_keeps (s : State) (n : StandNo) : s.Keeps True (s.takeSplice n) := by
  unfold State.takeSplice
  split
  · split
    · exact (spliceDone_keeps ..).trans (pair_keeps _)
    · exact post_keeps ..
  · exact post_keeps ..

theorem pulseChangeover_keeps (s : State) : s.Keeps True s.pulseChangeover := by
  unfold State.pulseChangeover
  split
  · exact post_keeps ..
  · next hj => exact changeover_keeps hj

theorem powerOn_legal (setmem saleable : Bool) :
    (State.powerOn setmem saleable).JobsLegal ∧ (State.powerOn setmem saleable).PortLegal ∧
    (State.powerOn setmem saleable).SettingsLegal ∧ (State.powerOn setmem saleable).FractionsLegal ∧
    (State.powerOn setmem saleable).RegisterLegal := by
  have hvalid : Settings.default.valid = true := by decide
  have hready : (State.powerOn setmem saleable).device ≠ .ready := by cases setmem <;> simp [State.powerOn]
  have hincrement : 1 ≤ 268 ∧ 268 ≤ Config.max32 ∧ 0 < Config.hallModulus := by decide
  refine ⟨⟨fun j => ?_, fun i j _ hor => ?_⟩, ⟨Nat.zero_le 4, Nat.zero_le 4, Nat.zero_le 8, List.nodup_nil, nofun⟩,
    ⟨fun h => absurd h hready, hvalid, hincrement⟩,
    ⟨fun n => ⟨?_, valid_rollerIncrement hvalid n⟩, Nat.zero_lt_succ 999, fun j => ?_⟩,
    ⟨rfl, List.nodup_nil, nofun, Nat.zero_le _, Nat.zero_le _⟩⟩
  · simp [State.powerOn, Job.freed]
  · simp [State.powerOn, Job.freed] at hor
  · simp [State.powerOn, Stand.off]
  · simp [State.powerOn, Job.freed]

theorem powerOnReset_keepsLegal (setmem saleable : Bool) (s : State) : s.KeepsLegal
    { State.powerOn setmem saleable with frameSpoiled := s.spoilsFrame, pending := s.pending } := by
  obtain ⟨hjobs, hport, hsettings, hfractions, hregister⟩ := powerOn_legal setmem saleable
  exact ⟨fun _ => hjobs, fun _ => hport, fun _ => hsettings, fun _ => hfractions, fun _ => hregister⟩

theorem edit_device {q : RequestKind} (hq : q ∈ RequestKind.editsSettings) {d : DeviceState}
    (h : q.gate d = none) : d ≠ .ready := by
  rintro rfl
  rw [q.gate_ready, if_pos hq] at h
  contradiction

/-- A conditional command that keeps the invariants where it acts. -/
theorem keepsLegal_ite {p : Prop} [Decidable p] {u : State} (h : p → s.Keeps True u) :
    s.KeepsLegal (if p then u else s) := by
  split
  · next hp => exact (h hp).legal
  · exact (State.Keeps.refl s).legal

/-- R189: what a load puts in force is valid. -/
theorem image?_valid {b : List Byte} {x : Settings} (h : image? b = some x) : x.valid = true := by
  unfold image? at h
  split at h
  · split at h
    · dsimp only at h
      split at h
      · next hvalid => exact Option.some.inj h ▸ hvalid
      · contradiction
    · contradiction
  · contradiction

theorem readSettings?_valid {read : MemoryRead} {x : Settings} (h : readSettings? read = some x) :
    x.valid = true := by
  cases read with
  | noAck => contradiction
  | image bytes => exact image?_valid h

/-- The meaning of every request keeps the invariants. -/
theorem request_keepsLegal (q : RequestKind) (s : State) : ∃ t, exec q.command s = .next t ∧ s.KeepsLegal t := by
  have hedit {q : RequestKind} (hq : q ∈ RequestKind.editsSettings) {u : State} (h : q.gate u.device = none) :=
    edit_device hq h
  cases q with
  | readStatus => exact ⟨_, rfl, serve_keepsLegal (fun f u _ => State.Keeps.refl u)⟩
  | fetchNotice => exact ⟨_, rfl, serve_keepsLegal (fun f u _ => fetchNotice_keeps f u)⟩
  | resetFloor => exact ⟨_, rfl, serve_keepsLegal (fun _ _ _ => keeps_of_legalFields rfl)⟩
  | registerRoll => exact ⟨_, rfl, serve_keepsLegal (fun f u _ => registerRoll_keeps f u)⟩
  | declareRoll => exact ⟨_, rfl, serve_keepsLegal (fun f u _ => declareRoll_keeps f u)⟩
  | readRoll => exact ⟨_, rfl, serve_keepsLegal (fun f u _ => readRoll_keeps f u)⟩
  | amendRoll => exact ⟨_, rfl, serve_keepsLegal (fun f u _ => amendRoll_keeps f u)⟩
  | retireRoll => exact ⟨_, rfl, serve_keepsLegal (fun f u _ => retireRoll_keeps f u)⟩
  | readLane => exact ⟨_, rfl, serve_keepsLegal (fun f u _ => readLane_keeps f u)⟩
  | putAway => exact ⟨_, rfl, serve_keepsLegal (fun f u _ => putAway_keeps f u)⟩
  | relocate => exact ⟨_, rfl, serve_keepsLegal (fun f u _ => relocate_keeps f u)⟩
  | countStock => exact ⟨_, rfl, serve_keepsLegal (fun f u _ => countStock_keeps f u)⟩
  | feed => exact ⟨_, rfl, serve_keepsLegal (fun f u _ => feed_keeps f u)⟩
  | remove => exact ⟨_, rfl, serve_keepsLegal (fun f u _ => remove_keeps f u)⟩
  | cancelOrder => exact ⟨_, rfl, serve_keepsLegal (fun f u _ => cancelOrder_keeps f u)⟩
  | abandonOrder => exact ⟨_, rfl, serve_keepsLegal (fun f u _ => abandonOrder_keeps f u)⟩
  | readOrder => exact ⟨_, rfl, serve_keepsLegal (fun f u _ => readOrder_keeps f u)⟩
  | readVehicle => exact ⟨_, rfl, serve_keepsLegal (fun f u _ => readVehicle_keeps f u)⟩
  | readAisle => exact ⟨_, rfl, serve_keepsLegal (fun f u _ => readAisle_keeps f u)⟩
  | readStand => exact ⟨_, rfl, serve_keepsLegal (fun f u _ => readStand_keeps f u)⟩
  | holdTracking => exact ⟨_, rfl, serve_keepsLegal (fun _ u _ => setHold_keeps u _ _)⟩
  | releaseTracking => exact ⟨_, rfl, serve_keepsLegal (fun _ u _ => setHold_keeps u _ _)⟩
  | spliceNow => exact ⟨_, rfl, serve_keepsLegal (fun f u _ => spliceNow_keeps f u)⟩
  | thread => exact ⟨_, rfl, serve_keepsLegal (fun f u _ => thread_keeps f u)⟩
  | strip => exact ⟨_, rfl, serve_keepsLegal (fun f u _ => strip_keeps f u)⟩
  | setMarks => exact ⟨_, rfl, serve_keepsLegal (fun f u _ => setMarks_keeps f u)⟩
  | stageJob => exact ⟨_, rfl, serve_keepsLegal (fun f u _ => stageJob_keeps f u)⟩
  | changeover => exact ⟨_, rfl, serve_keepsLegal (fun f u _ => changeover_reply_keeps f u)⟩
  | setBudget => exact ⟨_, rfl, serve_keepsLegal (fun f u _ => setBudget_keeps f u)⟩
  | readJob => exact ⟨_, rfl, serve_keepsLegal (fun f u _ => readJob_keeps f u)⟩
  | retireJob => exact ⟨_, rfl, serve_keepsLegal (fun f u _ => retireJob_keeps f u)⟩
  | setGrade => exact ⟨_, rfl, serve_keepsLegal (fun f u h => setGrade_keeps f u (hedit (by decide) h))⟩
  | setLane => exact ⟨_, rfl, serve_keepsLegal (fun f u h => setLane_keeps f u (hedit (by decide) h))⟩
  | setStand => exact ⟨_, rfl, serve_keepsLegal (fun f u h => setStand_keeps f u (hedit (by decide) h))⟩
  | setFleet => exact ⟨_, rfl, serve_keepsLegal (fun f u h => setFleet_keeps f u (hedit (by decide) h))⟩
  | commitSettings => exact ⟨_, rfl, serve_keepsLegal (fun f u _ => commitSettings_keeps f u)⟩
  | reloadSettings => exact ⟨_, rfl, serve_keepsLegal (fun f u _ => reloadSettings_keeps f u)⟩
  | storeSettings => exact ⟨_, rfl, serve_keepsLegal (fun f u _ => storeSettings_keeps f u)⟩

/-- Every command keeps the invariants. -/
theorem exec_keepsLegal (i : Instr) (s : State) : ∃ t, exec i s = .next t ∧ s.KeepsLegal t := by
  cases i with
  | powerOnReset setmem saleable => exact ⟨_, rfl, powerOnReset_keepsLegal setmem saleable s⟩
  | floorReset => exact ⟨_, rfl, floorReset_keepsLegal s⟩
  | settingsLoad read =>
    refine ⟨_, rfl, keepsLegal_ite fun _ => ?_⟩
    split
    · exact leaveReady_keeps s (by decide)
    · next x hx => exact putInForce_keeps s (readSettings?_valid hx)
  | settingsStoreEnd acknowledged => exact ⟨_, rfl, (endStore_keeps s _).legal⟩
  | storeTimeout => exact ⟨_, rfl, (endStore_keeps s _).legal⟩
  | hallSecondTick => exact ⟨_, rfl, (hallSecond_keeps s).legal⟩
  | orderDeadlineExpiry k => exact ⟨_, rfl, (hallSeconds_keeps _ s).legal⟩
  | tenureExpiry g => exact ⟨_, rfl, (hallSeconds_keeps _ s).legal⟩
  | refclkEdge => exact ⟨_, rfl, (refclk_keeps s).legal⟩
  | requestFrame mosi =>
    refine ⟨_, rfl, ?_⟩
    split
    · exact keepsLegal_of_legalFields rfl
    · exact judgeFrame_keepsLegal s mosi
  | answerFrame edge =>
    refine ⟨_, rfl, ?_⟩
    split
    · exact select_keepsLegal s
    · exact deselect_keepsLegal s _
  | unknownRequest => exact ⟨_, rfl, unknownRequest_keepsLegal rfl⟩
  | readStatus => exact request_keepsLegal .readStatus s
  | fetchNotice => exact request_keepsLegal .fetchNotice s
  | resetFloor => exact request_keepsLegal .resetFloor s
  | registerRoll => exact request_keepsLegal .registerRoll s
  | declareRoll => exact request_keepsLegal .declareRoll s
  | readRoll => exact request_keepsLegal .readRoll s
  | amendRoll => exact request_keepsLegal .amendRoll s
  | retireRoll => exact request_keepsLegal .retireRoll s
  | readLane => exact request_keepsLegal .readLane s
  | putAway => exact request_keepsLegal .putAway s
  | relocate => exact request_keepsLegal .relocate s
  | countStock => exact request_keepsLegal .countStock s
  | feed => exact request_keepsLegal .feed s
  | remove => exact request_keepsLegal .remove s
  | cancelOrder => exact request_keepsLegal .cancelOrder s
  | abandonOrder => exact request_keepsLegal .abandonOrder s
  | readOrder => exact request_keepsLegal .readOrder s
  | readVehicle => exact request_keepsLegal .readVehicle s
  | readAisle => exact request_keepsLegal .readAisle s
  | readStand => exact request_keepsLegal .readStand s
  | holdTracking => exact request_keepsLegal .holdTracking s
  | releaseTracking => exact request_keepsLegal .releaseTracking s
  | spliceNow => exact request_keepsLegal .spliceNow s
  | thread => exact request_keepsLegal .thread s
  | strip => exact request_keepsLegal .strip s
  | setMarks => exact request_keepsLegal .setMarks s
  | stageJob => exact request_keepsLegal .stageJob s
  | changeover => exact request_keepsLegal .changeover s
  | setBudget => exact request_keepsLegal .setBudget s
  | readJob => exact request_keepsLegal .readJob s
  | retireJob => exact request_keepsLegal .retireJob s
  | setGrade => exact request_keepsLegal .setGrade s
  | setLane => exact request_keepsLegal .setLane s
  | setStand => exact request_keepsLegal .setStand s
  | setFleet => exact request_keepsLegal .setFleet s
  | commitSettings => exact request_keepsLegal .commitSettings s
  | reloadSettings => exact request_keepsLegal .reloadSettings s
  | storeSettings => exact request_keepsLegal .storeSettings s
  | fleetFrame bytes => exact ⟨_, rfl, scanFrames_keepsLegal _ _ s⟩
  | unknownReport => exact ⟨_, rfl, take_keepsLegal fun _ _ _ => refuse_keeps ..⟩
  | online => exact ⟨_, rfl, take_keepsLegal fun _ _ _ => reportOnline_keeps ..⟩
  | atPlace => exact ⟨_, rfl, take_keepsLegal fun _ _ _ => reportAtPlace_keeps ..⟩
  | picked => exact ⟨_, rfl, take_keepsLegal fun _ _ _ => reportPicked_keeps ..⟩
  | dropped => exact ⟨_, rfl, take_keepsLegal fun _ _ _ => reportDropped_keeps ..⟩
  | clear => exact ⟨_, rfl, take_keepsLegal fun _ _ _ => reportClear_keeps ..⟩
  | park => exact ⟨_, rfl, take_keepsLegal fun _ _ _ => reportPark_keeps ..⟩
  | fault => exact ⟨_, rfl, take_keepsLegal fun _ _ _ => reportFault_keeps ..⟩
  | offline => exact ⟨_, rfl, take_keepsLegal fun _ _ _ => reportOffline_keeps ..⟩
  | instructionSent =>
    refine ⟨_, rfl, ?_⟩
    split
    · exact keepsLegal_of_legalFields rfl
    · have hsent : s.KeepsLegal { s with outbound := s.outbound.tail } := keepsLegal_of_legalFields rfl
      exact hsent.trans (pair_keeps _).legal
  | pairing => exact ⟨_, rfl, (pair_keeps s).legal⟩
  | copyEvent reject =>
    exact ⟨_, rfl, keepsLegal_ite fun _ =>
      (countCopy_keeps s reject).trans <| (copyStands_keeps _).trans (pair_keeps _)⟩
  | rollerPulse n =>
    exact ⟨_, rfl, keepsLegal_ite fun _ => (lengthInput_keeps s n fun _ h => (h.1 n).2.2).trans (pair_keeps _)⟩
  | spliceWindowExpiry n => exact ⟨_, rfl, keepsLegal_ite fun _ => (splicingSteps_keeps n _ s).trans (pair_keeps _)⟩
  | splicedPulse n => exact ⟨_, rfl, keepsLegal_ite fun _ => takeSplice_keeps s n⟩
  | saleableEdge rising =>
    have hlevel : s.Keeps True { s with saleable := rising } := keeps_of_legalFields rfl
    have hedge : Job.SameCounts (Job.edge rising) := fun j => by
      unfold Job.edge
      split <;> simp
    refine ⟨_, rfl, hlevel.legal.trans (keepsLegal_ite fun _ => charge_keeps _ hedge)⟩
  | changeoverPulse => exact ⟨_, rfl, keepsLegal_ite fun _ => pulseChangeover_keeps s⟩

/-- The queue of commands is no part of the invariants, so a step keeps what its command keeps. -/
theorem step_keepsLegal (h : step s = .next t) : s.KeepsLegal t := by
  unfold step at h
  split at h
  · injection h with h
    exact h ▸ (State.Keeps.refl s).legal
  · next i rest _ =>
    obtain ⟨u, hu, hlegal⟩ := exec_keepsLegal i { s with pending := rest }
    rw [hu] at h
    injection h with h
    have hpop : s.KeepsLegal { s with pending := rest } := keepsLegal_of_legalFields rfl
    exact h ▸ hpop.trans hlegal

/-! ## The invariants -/

/-- Settles O3: the empty records of power-on reset and the default settings. -/
theorem invariantsHoldAfterPowerOn : Obligations.InvariantsHoldAfterPowerOn :=
  ⟨powerOn_legal, powerOn_legal false false⟩

/-- Settles O4: each command's operations keep the job slots legal (`exec_keepsLegal`). -/
theorem stepKeepsJobsLegal : Obligations.StepKeepsJobsLegal := fun _ _ hs h => (step_keepsLegal h).jobs hs

/-- Settles O5: each command's operations keep the buffers and the notice list legal (`exec_keepsLegal`). -/
theorem stepKeepsPortLegal : Obligations.StepKeepsPortLegal := fun _ _ hs h => (step_keepsLegal h).port hs

/-- Settles O6: each command's operations keep the settings in force valid (`exec_keepsLegal`). -/
theorem stepKeepsSettingsLegal : Obligations.StepKeepsSettingsLegal := fun _ _ hs h =>
  (step_keepsLegal h).settings hs

/-- Settles O7: each command's operations keep the fractions below a metre (`exec_keepsLegal`). -/
theorem stepKeepsFractionsLegal : Obligations.StepKeepsFractionsLegal := fun _ _ hs h =>
  (step_keepsLegal h).fractions hs

/-- Settles O8: each command's operations keep the roll register legal (`exec_keepsLegal`). -/
theorem stepKeepsRegisterLegal : Obligations.StepKeepsRegisterLegal := fun _ _ hs h =>
  (step_keepsLegal h).register hs

end Sys2Proof.Machine

/-! PROOF. The machine's step, power-on reset, and the frames and the service of the control port (R165 to R176, R188). -/

namespace Sys2Proof.Machine

/-! ## Steps and power-on reset -/

/-- Settles O1: by the definition of a step. -/
theorem stepRunsFrontCommand : Obligations.StepRunsFrontCommand := by
  refine ⟨fun _ _ _ => rfl, fun s h => ?_⟩
  unfold step
  rw [h]

/-- Settles O2: the power-on values are read off `State.powerOn`, and the one period it cuts is marked by `State.spoilsFrame`. -/
theorem powerOnClearsEveryRecord : Obligations.PowerOnClearsEveryRecord := by
  intro setmem saleable s
  let t : State := { State.powerOn setmem saleable with frameSpoiled := s.spoilsFrame, pending := s.pending }
  have hlane (l : LaneNo) : t.lanes[l] = ⟨none, [], 0⟩ := Vector.getElem_replicate _
  have horder (k : OrderSlot) : t.orders[k] = none := Vector.getElem_replicate _
  have hvehicle (v : VehicleNo) : t.vehicles[v] = ⟨.offline, none, none, none, none, 0⟩ := Vector.getElem_replicate _
  have haisle (g : AisleNo) : t.aisles[g] = ⟨none, .free, [], .none⟩ := Vector.getElem_replicate _
  have hstand (n : StandNo) : t.stands[n] = Stand.off := Vector.getElem_replicate _
  have hjob (j : JobSlot) : t.jobs[j] = Job.freed := Vector.getElem_replicate _
  have hjobState (j : JobSlot) : t.jobs[j].state = .free := congrArg Job.state (hjob j)
  have hactive : t.activeSlot = none :=
    find?_finRange_eq_none.2 fun j => by simp only [hjobState]; rfl
  have hwebs : t.websOut = 0 := by
    simp only [State.websOut, hstand]
    rfl
  refine ⟨t, rfl, rfl, rfl, rfl, rfl, rfl, rfl, rfl, rfl, rfl, rfl, rfl, hlane, horder, rfl, rfl, rfl, rfl,
    hvehicle, rfl, rfl, rfl, rfl, haisle, hstand, hjobState, rfl, rfl, rfl, rfl, rfl, rfl, rfl, rfl,
    fun hperiod mosi => ?_, fun hperiod hspoiled => ?_, rfl, ?_, ?_, fun n => ?_, rfl⟩
  · have hspoils : s.spoilsFrame = true := by
      rw [State.spoilsFrame, Option.isSome_iff_ne_none.2 hperiod, Bool.or_true]
    change execRequestFrame mosi t = _
    exact congrArg Host.Outcome.next (if_pos hspoils)
  · change s.spoilsFrame = false
    rw [State.spoilsFrame, hperiod, hspoiled]
    rfl
  · rw [State.pressStop, hwebs]
    rfl
  · rw [State.wasteAlarm, hactive]
  · rw [State.spliceCommand, hstand]
    rfl

/-! ## Request frames -/

theorem exec_requestFrame {s : State} (hs : s.frameSpoiled = false) (mosi : List Byte) :
    exec (.requestFrame mosi) s = .next (s.judgeFrame mosi) := by
  change execRequestFrame mosi s = _
  simp only [execRequestFrame, hs, Bool.false_eq_true, if_false]

/-- R165: a period too short for a length, or with a length of 0, carries no request. -/
theorem judgeFrame_empty {s : State} {mosi : List Byte} (h : mosi.length < 2 ∨ num mosi 0 2 = 0) :
    s.judgeFrame mosi = s := if_pos h

/-- R165: a length out of its range, or beyond the bytes of the period, is a framing error. -/
theorem judgeFrame_framing {s : State} {mosi : List Byte} (h : 2 ≤ mosi.length) (h0 : num mosi 0 2 ≠ 0)
    (hbad : num mosi 0 2 = 1 ∨ 60 < num mosi 0 2 ∨ mosi.length < num mosi 0 2 + 2) :
    s.judgeFrame mosi = { s with framingMark := true } := by
  have hlen : ¬ (mosi.length < 2 ∨ num mosi 0 2 = 0) := not_or.2 ⟨not_lt.2 h, h0⟩
  unfold State.judgeFrame
  dsimp only
  rw [if_neg hlen, if_pos hbad]

/-- R165: a frame with all its bytes offers its request; the bytes behind it are not looked at. -/
theorem judgeFrame_request (s : State) (code tag : Byte) {fields : List Byte} (extra : List Byte)
    (h : fields.length ≤ 58) :
    s.judgeFrame (beBytes 2 (fields.length + 2) ++ code :: tag :: (fields ++ extra)) = s.offer ⟨code, tag, fields⟩ := by
  have hnum : num (beBytes 2 (fields.length + 2) ++ code :: tag :: (fields ++ extra)) 0 2 = fields.length + 2 :=
    num_head _ (by omega)
  have hdrop : (beBytes 2 (fields.length + 2) ++ code :: tag :: (fields ++ extra)).drop 2 =
      code :: tag :: (fields ++ extra) := List.drop_left' (beBytes_length 2 _)
  unfold State.judgeFrame
  simp only [hnum, hdrop, List.length_append, beBytes_length, List.length_cons]
  rw [if_neg (by omega), if_neg (by omega), Nat.add_sub_cancel, List.take_left]

/-- Settles O9: the four judgements of R165, and the request buffer's place (R167). -/
theorem requestFrameJudged : Obligations.RequestFrameJudged := by
  intro s hs
  refine ⟨fun mosi h => ?_, fun mosi hlen h => ?_, fun mosi hlen h2 _ hshort => ?_,
    fun code tag fields extra h => ⟨fun hroom => ?_, fun hfull => ?_⟩⟩ <;> rw [exec_requestFrame hs]
  · rw [judgeFrame_empty h]
  · rw [judgeFrame_framing hlen (by omega) (h.imp_right .inl)]
  · rw [judgeFrame_framing hlen (by omega) (.inr (.inr hshort))]
  · rw [judgeFrame_request s code tag extra h, State.offer]
    exact congrArg Host.Outcome.next (if_pos hroom)
  · rw [judgeFrame_request s code tag extra h, State.offer]
    exact congrArg Host.Outcome.next (if_neg (not_lt.2 hfull))

/-! ## Answer frames -/

/-- R179, R181: bit `i` of a byte of flags is its flag `i`. -/
theorem flagBits_getLsbD (flags : List Bool) {i : Nat} (hi : i < 8) :
    (flagBits flags).getLsbD i = flags.getD i false := by
  have hbit (l : List Bool) (j : Nat) :
      (l.foldr (fun b n => (if b = true then 1 else 0) + 2 * n) 0).testBit j = l.getD j false := by
    induction l generalizing j with
    | nil => simp
    | cons b l ih =>
      rw [List.foldr_cons, add_comm]
      cases j with
      | zero => cases b <;> simp [Nat.testBit_zero]
      | succ j =>
        have hhalf (n : Nat) : (2 * n + (if b = true then 1 else 0)) / 2 = n := by split <;> omega
        rw [Nat.testBit_succ, hhalf, ih, List.getD_cons_succ]
  rw [flagBits, byteOf, BitVec.getLsbD_ofNat, hbit]
  simp [hi]

theorem not_isEmpty_iff {α : Type} (l : List α) : (!l.isEmpty) = true ↔ l ≠ [] := by simp

theorem attention_iff (s : State) : s.attention = true ↔ s.answers ≠ [] ∨ s.notices ≠ [] := by
  rw [State.attention, Bool.or_eq_true, not_isEmpty_iff, not_isEmpty_iff]

/-- Settles O10: the period is fixed by `State.select`, the status byte read bit by bit (`flagBits_getLsbD`), SPI_MISO byte by byte (`State.miso_frame`, `State.miso_past`). -/
theorem answerFrameFixedAtSelect : Obligations.AnswerFrameFixedAtSelect := by
  refine ⟨fun s hperiod => ⟨s.statusByte, ?_, ?_, ?_, ?_, ?_, ?_, ?_, ?_, ?_, attention_iff s⟩,
    fun s p clocked i hperiod hi => ⟨State.miso_length hperiod clocked, ?_⟩⟩
  · change Host.Outcome.next s.select = _
    unfold State.select
    rw [hperiod]
    cases s.answers.head? <;> rfl
  · rw [State.statusByte, flagBits_getLsbD _ (by decide)]
    exact not_isEmpty_iff s.answers
  · rw [State.statusByte, flagBits_getLsbD _ (by decide)]
    exact decide_eq_true_iff
  · rw [State.statusByte, flagBits_getLsbD _ (by decide)]
    exact not_isEmpty_iff s.notices
  · rw [State.statusByte, flagBits_getLsbD _ (by decide)]
    rfl
  · rw [State.statusByte, flagBits_getLsbD _ (by decide)]
    rfl
  · rw [State.statusByte, flagBits_getLsbD _ (by decide)]
    exact decide_eq_true_iff
  · rw [State.statusByte, flagBits_getLsbD _ (by decide)]
    exact decide_eq_true_iff
  · rw [State.statusByte, flagBits_getLsbD _ (by decide)]
    exact decide_eq_true_iff
  · split
    · next hf => rw [State.miso_frame hperiod hi hf, List.getD_eq_getElem?_getD, List.getElem?_eq_getElem hf]; rfl
    · next hf => exact State.miso_past hperiod hi (not_lt.1 hf)

/-! ## The release -/

/-- R166, R167: the release of a period whose status byte has been clocked. -/
def State.released (s : State) (p : Period) : State :=
  { s with
    period := none
    overrunMark := s.overrunMark && !p.showsOverrun
    framingMark := s.framingMark && !p.showsFraming }

/-- R166, R167, R175: what a release with at least the status byte clocked does. -/
theorem exec_released {s : State} {p : Period} {clocked : Nat} (hp : s.period = some p) (hc : 1 ≤ clocked) :
    exec (.answerFrame (.released clocked)) s = .next (match p.answer with
      | none => s.released p
      | some a =>
        if p.live ∧ p.frame.length ≤ clocked then
          let t := { s.released p with answers := s.answers.tail }
          if s.resetPending ∧ a.isResetFloor then { t.floorReset with frameSpoiled := true } else t
        else s.released p) := by
  have hclocked : decide (1 ≤ clocked) = true := decide_eq_true hc
  change Host.Outcome.next (s.deselect clocked) = _
  unfold State.deselect
  rw [hp]
  simp only [hclocked, Bool.and_true]
  rfl

/-- Settles O11: the three outcomes of a release without a pending reset (`exec_released`). -/
theorem answerLeavesWhenClockedInFull : Obligations.AnswerLeavesWhenClockedInFull := by
  intro s p clocked hp hc
  rw [exec_released hp hc]
  refine ⟨fun hnone => ?_, fun hshort => ?_, fun hsome hlive hfull hreset => ?_⟩
  · rw [hnone]
    rfl
  · have hcut : ¬ (p.live = true ∧ p.frame.length ≤ clocked) := fun h => not_le.2 hshort h.2
    cases p.answer with
    | none => rfl
    | some a => exact congrArg Host.Outcome.next (if_neg hcut)
  · obtain ⟨a, ha⟩ := Option.ne_none_iff_exists'.1 hsome
    have hno : ¬ (s.resetPending = true ∧ a.isResetFloor = true) := fun h => by simp [hreset] at h
    rw [ha]
    dsimp only
    rw [if_pos ⟨hlive, hfull⟩]
    exact congrArg Host.Outcome.next (if_neg hno)

/-- Settles O12: RESET FLOOR's rule sets the mark alone, and the release of its answer takes the reset (`exec_released`). -/
theorem resetFloorTakenAtItsAnswer : Obligations.ResetFloorTakenAtItsAnswer := by
  constructor
  · intro s tag rest hserves
    change Host.Outcome.next (s.serve .resetFloor resetFloor) = _
    rw [serve_ok hserves rfl (t := { s.unqueued rest with resetPending := true }) (out := []) rfl]
  intro s p tag fields mosi clocked hp ha hlive hc hfull hreset t
  constructor
  · have hcode : Answer.isResetFloor ⟨0x03, tag, .ok, fields⟩ = true := decide_eq_true ⟨rfl, rfl⟩
    rw [exec_released hp hc]
    rw [ha]
    dsimp only
    rw [if_pos ⟨hlive, hfull⟩]
    exact congrArg Host.Outcome.next (if_pos ⟨hreset, hcode⟩)
  · rfl

/-! ## The head request -/

/-- R168: while the port may not serve the head request, nothing changes. -/
theorem serve_waits {s : State} {q : RequestKind} {body : List Byte → State → Reply}
    (h : s.canServe q.queues = false) : s.serve q body = s := by
  unfold State.serve
  split
  · rfl
  · simp only [h, Bool.false_eq_true, and_false, if_false]

/-- R168: the three things that hold the port back. -/
theorem canServe_eq_false {s : State} {queues : Bool}
    (h : 4 ≤ s.answers.length ∨ s.resetPending = true ∨ queues = true ∧ s.outboundFree < 4) :
    s.canServe queues = false := by
  unfold State.canServe
  obtain h | h | ⟨hq, h⟩ := h
  · have hfull : decide (s.answers.length < Config.answerPlaces) = false := decide_eq_false (not_lt.2 h)
    rw [hfull, Bool.false_and, Bool.false_and]
  · rw [h, Bool.not_true, Bool.and_false]
  · have hfew : decide (Config.outboundMargin ≤ s.outboundFree) = false := decide_eq_false (not_le.2 h)
    rw [hq, hfew, Bool.not_true, Bool.false_or, Bool.and_false, Bool.false_and]

theorem canServe_false {s : State} (ha : s.answers.length < 4) (hr : s.resetPending = false) :
    s.canServe false = true := by
  simp [State.canServe, Config.answerPlaces, ha, hr]

theorem queues_of_mem {q : RequestKind}
    (h : q ∈ [.putAway, .relocate, .remove, .amendRoll, .retireRoll, .cancelOrder, .abandonOrder]) :
    q.queues = true := by
  simp only [List.mem_cons, List.not_mem_nil, or_false] at h
  obtain rfl | rfl | rfl | rfl | rfl | rfl | rfl := h <;> rfl

theorem requestKind?_eq_none {code : Byte} (h : ∀ q : RequestKind, q.code ≠ code) : requestKind? code = none :=
  List.find?_eq_none.2 fun q _ => by simpa using h q

/-- Settles O14: the port is held back (`serve_waits`), and a code of no request is found in no place of the table. -/
theorem headRequestWaitsOrIsUnknown : Obligations.HeadRequestWaitsOrIsUnknown := by
  refine ⟨fun q s h => ?_, fun s h => ?_, fun s code tag fields rest hreq ha hr hcode => ?_⟩
  · obtain ⟨body, hexec⟩ := exec_command q
    rw [hexec, serve_waits (canServe_eq_false (h.imp_right (.imp_right (.imp_left queues_of_mem))))]
  · have hwait : s.canServe false = false := canServe_eq_false (h.imp_right .inl)
    change execUnknownRequest s = _
    unfold execUnknownRequest
    split
    · rfl
    · simp only [hwait, Bool.false_eq_true, and_false, if_false]
  · change execUnknownRequest s = _
    simp only [execUnknownRequest, hreq, requestKind?_eq_none hcode, canServe_false ha hr, and_self, if_true]
    rfl

/-! ## FETCH NOTICE -/

theorem exec_fetchNotice (s : State) : exec .fetchNotice s = .next (s.serve .fetchNotice fetchNotice) := rfl

/-- R173 with an entry at the head whose key frees no slot. -/
theorem freedBy_eq_none {s : State} {key : NoticeKey}
    (h : ∀ k : OrderSlot, key = .orderDone k ∨ key = .orderCancelled k →
      ∀ o, s.orders[k] = some o → o.isOpen = true) : s.freedBy key = none := by
  unfold State.freedBy
  split
  · next k =>
    split
    · rfl
    · next o ho => rw [if_pos (h k (.inl rfl) o ho)]
  · next k =>
    split
    · rfl
    · next o ho => rw [if_pos (h k (.inr rfl) o ho)]
  · rfl

/-- R80: the slot of an ended order's entry. -/
theorem freedBy_eq_some {s : State} {key : NoticeKey} {k : OrderSlot} {o : Order}
    (hkey : key = .orderDone k ∨ key = .orderCancelled k) (ho : s.orders[k] = some o)
    (hended : o.state = .done ∨ o.state = .cancelled) : s.freedBy key = some k := by
  have hclosed : o.isOpen = false := by
    obtain h | h := hended <;> simp [Order.isOpen, h]
  obtain rfl | rfl := hkey <;> simp [State.freedBy, ho, hclosed]

/-- Settles O16: the empty list's readout, and the head entry with the slot it frees or none. -/
theorem fetchNoticeRemovesHead : Obligations.FetchNoticeRemovesHead := by
  refine ⟨fun s tag rest hserves hnil => ⟨0 :: noticeReadout none, ?_, rfl, rfl⟩,
    fun s tag rest e es hserves hcons hopen => ?_, fun s tag rest e es k o hserves hcons hkey ho hended => ?_⟩
  · have hbody : fetchNotice [] (s.unqueued rest) = .ok (s.unqueued rest) (0 :: noticeReadout none) := by
      simp only [fetchNotice, State.unqueued_notices, hnil]
    rw [exec_fetchNotice, serve_ok hserves rfl hbody]
  · have hfree : (s.unqueued rest).freedBy e.key = none := freedBy_eq_none hopen
    have hbody : fetchNotice [] (s.unqueued rest) = .ok { s.unqueued rest with notices := es }
        (byteOf es.length :: noticeReadout (some e)) := by
      simp only [fetchNotice, State.unqueued_notices, hcons, hfree]
    rw [exec_fetchNotice, serve_ok hserves rfl hbody]
    rfl
  · have hfree : (s.unqueued rest).freedBy e.key = some k := freedBy_eq_some hkey ho hended
    have hbody : fetchNotice [] (s.unqueued rest) =
        .ok ({ s.unqueued rest with notices := es, orders := s.orders.set k none }.examine).pair
          (byteOf es.length :: noticeReadout (some e)) := by
      simp only [fetchNotice, State.unqueued_notices, hcons, hfree]
      rfl
    rw [exec_fetchNotice, serve_ok hserves rfl hbody]
    rfl

end Sys2Proof.Machine

/-! PROOF. The fields of requests that name a roll, a stand, a lane or a flag action, and the readers of a list of rolls (R19, R15, R178). -/

namespace Sys2Proof.Machine

/-! ## Byte fields -/

theorem byteOf_val {n : Nat} (k : Fin n) (h : n ≤ 256) : (byteOf k.val).toNat = k.val :=
  byteOf_toNat_of_lt (k.isLt.trans_le h)

/-- A byte behind a list of bytes. -/
theorem byteAt_append (a f : List Byte) (i : Nat) : byteAt (a ++ f) (a.length + i) = byteAt f i :=
  num_skip a f i 1

/-- A field that lies in the first of two lists of bytes. -/
theorem num_append_left {a f : List Byte} {i len : Nat} (h : i + len ≤ a.length) :
    num (a ++ f) i len = num a i len := by
  rw [num, num, List.drop_append_of_le_length (by omega), List.take_append_of_le_length (by
    rw [List.length_drop]; omega)]

theorem fin?_byteOf {n : Nat} (k : Fin n) (h : n ≤ 256) : fin? n (byteOf k.val).toNat = some k := by
  rw [byteOf_val k h, fin?_val]

/-! ## Rolls -/

/-- R19: the slot found for a tag that one record alone carries. -/
theorem findTag_eq_some {rolls : List (RollSlot × Roll)} {k : RollSlot} {r : Roll} (hmem : (k, r) ∈ rolls)
    (hone : ∀ p ∈ rolls, p.2.tag = r.tag → p.1 = k) : findTag r.tag rolls = some k := by
  induction rolls with
  | nil => contradiction
  | cons p rolls ih =>
    obtain ⟨j, x⟩ := p
    unfold findTag
    split
    · next htag => exact congrArg some (hone (j, x) List.mem_cons_self htag)
    · next htag =>
      obtain heq | hmem := List.mem_cons.1 hmem
      · exact absurd (congrArg (fun p => p.2.tag) heq).symm htag
      · exact ih hmem fun p hp => hone p (List.mem_cons_of_mem _ hp)

theorem resolve_slot {s : State} {k : RollSlot} {r : Roll} (h : s.roll? k = some r) :
    s.resolve (.bySlot k) = some (k, r) := by
  rw [State.resolve, h]
  rfl

/-- R19: six bytes that name a roll are read as a reference that resolves to it. -/
theorem names_resolve {s : State} {ref : List Byte} {k : Nat} {r : Roll} (h : s.Names ref k r) :
    ∃ x, rollRef? ref = some x ∧ s.resolve x = some (k, r) := by
  obtain ⟨hr, ⟨rfl, hk⟩ | ⟨rfl, h1, hmax, hone⟩⟩ := h
  · have href := rollRef?_slot hk []
    rw [List.append_nil] at href
    exact ⟨_, href, resolve_slot hr⟩
  · have href := rollRef?_tag h1 hmax []
    rw [List.append_nil] at href
    refine ⟨_, href, ?_⟩
    rw [State.resolve, findTag_eq_some (mem_of_tableGet hr) hone, Option.bind_some, hr]
    rfl

theorem names_length {s : State} {ref : List Byte} {k : Nat} {r : Roll} (h : s.Names ref k r) :
    ref.length = 6 := by
  obtain ⟨-, ⟨rfl, -⟩ | ⟨rfl, -⟩⟩ := h <;> rfl

theorem names_slot {s : State} {k : Nat} {r : Roll} (hk : k < 1024) (h : s.roll? k = some r) :
    s.Names (1 :: beBytes 5 k) k r := ⟨h, .inl ⟨rfl, hk⟩⟩

theorem withRoll_names {s : State} {ref : List Byte} {k : Nat} {r : Roll} (h : s.Names ref k r)
    (body : RollSlot → Roll → Reply) : s.withRoll ref body = body k r := by
  obtain ⟨x, href, hres⟩ := names_resolve h
  simp only [State.withRoll, href, hres]

/-! ## Commands -/

theorem exec_amendRoll (s : State) : exec .amendRoll s = .next (s.serve .amendRoll amendRoll) := rfl
theorem exec_retireRoll (s : State) : exec .retireRoll s = .next (s.serve .retireRoll retireRoll) := rfl
theorem exec_countStock (s : State) : exec .countStock s = .next (s.serve .countStock countStock) := rfl
theorem exec_declareRoll (s : State) : exec .declareRoll s = .next (s.serve .declareRoll declareRoll) := rfl

/-! ## COUNT STOCK -/

theorem countStock_ok (s : State) (g : GradeCode) (storedOnly : Bool) {w : Nat} (hw : 300 ≤ w) (hw' : w ≤ 2600) :
    countStock (byteOf g.val :: (beBytes 2 w ++ [flagByte storedOnly])) s =
      .ok s (beBytes 4 (s.stock ⟨g, w⟩ storedOnly).length ++
        beBytes 4 ((s.stock ⟨g, w⟩ storedOnly).map Roll.remaining).sum) := by
  have hwidth : num (byteOf g.val :: (beBytes 2 w ++ [flagByte storedOnly])) 1 2 = w := by
    rw [num_succ, num_head _ (by omega)]
  have hflag : byteAt (byteOf g.val :: (beBytes 2 w ++ [flagByte storedOnly])) 3 = (flagByte storedOnly).toNat := by
    rw [byteAt_succ, byteAt_behind 2 w _ 0, byteAt_zero]
  have hin : within 300 2600 w = true := decide_eq_true ⟨hw, hw'⟩
  simp only [countStock, hwidth, hflag, byteAt_zero, fin?_byteOf g (by decide), flag?_flagByte, hin, if_true]

/-- R15: the rolls counted are the records of that grade, width and, when asked, state. -/
theorem stock_eq (s : State) (g : GradeCode) (w : Nat) (storedOnly : Bool) :
    s.stock ⟨g, w⟩ storedOnly = (s.rolls.filter fun p =>
      decide (p.2.grade = g ∧ p.2.width = w ∧ (storedOnly = true → p.2.state = .stored))).map Prod.snd := by
  rw [State.stock, List.filter_map]
  refine congrArg _ (List.filter_congr fun p _ => ?_)
  cases storedOnly <;> simp [Roll.kind, Bool.and_assoc, Bool.decide_and]

/-- Settles O23: the request's fields read back (`countStock_ok`), and the records it counts (`stock_eq`). -/
theorem countStockCountsRolls : Obligations.CountStockCountsRolls := by
  intro s tag rest g w storedOnly hserves hw hw' counted
  have hlen : (byteOf g.val :: (beBytes 2 w ++ [flagByte storedOnly])).length = 4 := by simp
  rw [exec_countStock, serve_ok hserves hlen (countStock_ok _ g storedOnly hw hw'), stock_eq, List.length_map,
    List.map_map]
  rfl

/-! ## AMEND ROLL -/

/-- R36, R181: a flag action byte and what it makes of a flag. -/
theorem action?_of_le {h : Nat} (hle : h ≤ 2) : ∃ a, action? h = some a ∧
    (∀ old, a.apply old = if h = 1 then true else if h = 2 then false else old) ∧
    (a = .set ↔ h = 1) ∧ (a = .clear ↔ h = 2) := by
  obtain rfl | rfl | rfl : h = 0 ∨ h = 1 ∨ h = 2 := by omega
  · exact ⟨.leave, rfl, fun _ => rfl, by decide, by decide⟩
  · exact ⟨.set, rfl, fun _ => rfl, by decide, by decide⟩
  · exact ⟨.clear, rfl, fun _ => rfl, by decide, by decide⟩

theorem action?_eq_none {h : Nat} (hgt : 2 < h) : action? h = none := by
  unfold action?
  rw [if_neg (by omega), if_neg (by omega), if_neg (by omega)]

/-- R37: the order a hold would cancel is an unpicked FEED order. -/
theorem unpickedFeed_eq_none {s : State} {claim : Option OrderSlot}
    (h : ∀ (c : OrderSlot) (o : Order), claim = some c → s.orders[c] = some o →
      o.kind ≠ .feed ∨ (o.state ≠ .waiting ∧ o.state ≠ .assigned ∧ o.state ≠ .loading)) :
    s.unpickedFeed claim = none := by
  cases claim with
  | none => rfl
  | some c =>
    simp only [State.unpickedFeed, Option.bind_some]
    split
    · rfl
    · next o ho =>
      refine if_neg fun ⟨hfeed, hstate⟩ => ?_
      obtain hkind | ⟨hw, ha, hl⟩ := h c o rfl ho
      · exact hkind hfeed
      · obtain h | h | h := hstate
        · exact hw h
        · exact ha h
        · exact hl h

/-- The fields of an AMEND ROLL: the reference and the two actions. -/
theorem amendRoll_fields {ref : List Byte} {h d : Nat} (hlen : ref.length = 6) (hh : h < 256) (hd : d < 256) :
    (ref ++ [byteOf h, byteOf d]).length = 8 ∧ (ref ++ [byteOf h, byteOf d]).take 6 = ref ∧
      byteAt (ref ++ [byteOf h, byteOf d]) 6 = h ∧ byteAt (ref ++ [byteOf h, byteOf d]) 7 = d := by
  have hhold := byteAt_append ref [byteOf h, byteOf d] 0
  have hdamaged := byteAt_append ref [byteOf h, byteOf d] 1
  rw [hlen] at hhold hdamaged
  refine ⟨by simp [hlen], List.take_left' hlen, ?_, ?_⟩
  · rw [hhold, byteAt_zero, byteOf_toNat_of_lt hh]
  · rw [hdamaged, byteAt_succ, byteAt_zero, byteOf_toNat_of_lt hd]

/-- Settles O20: the two actions read back (`action?_of_le`), and no order to be cancelled (`unpickedFeed_eq_none`). -/
theorem amendRollSetsFlags : Obligations.AmendRollSetsFlags := by
  intro s tag rest k r ref h d hserves hh hd hnames acted hold damaged t
  obtain ⟨hlen, href, hhold, hdamaged⟩ := amendRoll_fields (names_length hnames) hh hd
  have hnames' : (s.unqueued rest).Names ref k r := hnames
  constructor
  · intro hbad
    have hbody : amendRoll (ref ++ [byteOf h, byteOf d]) (s.unqueued rest) = .refuse .badField := by
      simp only [amendRoll, hhold, hdamaged]
      obtain hbad | hbad := hbad
      · rw [action?_eq_none hbad]
      · rw [action?_eq_none hbad]
        cases action? h <;> rfl
    rw [exec_amendRoll, serve_refused hserves hlen hbody]
  · intro hle hle' hkeep
    obtain ⟨a, ha, haapply, haset, haclear⟩ := action?_of_le hle
    obtain ⟨b, hb, hbapply, -, hbclear⟩ := action?_of_le hle'
    have hnone : (if a = .set then (s.unqueued rest).unpickedFeed r.claim else none) = none := by
      split
      · next hset => exact unpickedFeed_eq_none (hkeep (haset.1 hset))
      · rfl
    have hholdEq : a.apply r.hold = hold := haapply r.hold
    have hdamagedEq : b.apply r.damaged = damaged := hbapply r.damaged
    have hcond : ((a = .clear ∨ b = .clear) ∧ hold = false ∧ damaged = false) ↔
        ((h = 2 ∨ d = 2) ∧ hold = false ∧ damaged = false) := by rw [haclear, hbclear]
    refine ⟨{ r with hold := hold, damaged := damaged }.flags, fun hclear => ?_, fun hclear => ?_, ?_, ?_, ?_, ?_⟩
    · have hbody : amendRoll (ref ++ [byteOf h, byteOf d]) (s.unqueued rest) =
          .ok t.examine.pair [{ r with hold := hold, damaged := damaged }.flags, 0, 0] := by
        simp only [amendRoll, hhold, hdamaged, ha, hb, href]
        rw [withRoll_names hnames', hnone]
        dsimp only
        rw [hholdEq, hdamagedEq, if_pos (hcond.2 hclear)]
        rfl
      rw [exec_amendRoll, serve_ok hserves hlen hbody]
    · have hbody : amendRoll (ref ++ [byteOf h, byteOf d]) (s.unqueued rest) =
          .ok t.pair [{ r with hold := hold, damaged := damaged }.flags, 0, 0] := by
        simp only [amendRoll, hhold, hdamaged, ha, hb, href]
        rw [withRoll_names hnames', hnone]
        dsimp only
        rw [hholdEq, hdamagedEq, if_neg (mt hcond.1 hclear)]
        rfl
      rw [exec_amendRoll, serve_ok hserves hlen hbody]
    all_goals exact flagBits_getLsbD _ (by decide)

end Sys2Proof.Machine

/-! PROOF. RETIRE ROLL: what each place makes of a roll that leaves it (R22, R25, R38, R39, R95). -/

namespace Sys2Proof.Machine

/-! ## Arms and the vehicles that wait at them -/

theorem waiterAt_eq_none {s : State} {n : StandNo} {a : Arm}
    (h : ∀ w : VehicleNo, s.vehicles[w].waiting ≠ some (.armBusy n a)) : s.waiterAt n a = none :=
  find?_finRange_eq_none.2 fun w => decide_eq_false (h w)

theorem waiterAt_eq_some {s : State} {n : StandNo} {a : Arm} {w : VehicleNo}
    (h : ∀ u : VehicleNo, s.vehicles[u].waiting = some (.armBusy n a) ↔ u = w) : s.waiterAt n a = some w :=
  find?_finRange_eq_some.2 ⟨decide_eq_true ((h w).2 rfl), fun u hu => decide_eq_false fun hw => hu.ne ((h u).1 hw)⟩

theorem orderNumberOf_eq {s : State} {v : VehicleNo} {c : OrderSlot} {q : Order} (hv : s.vehicles[v].order = some c)
    (hq : s.orders[c] = some q) : s.orderNumberOf v = q.number := by
  simp only [State.orderNumberOf, hv, Option.bind_some, hq]

theorem resumeWaiter_of_none {s : State} {n : StandNo} {a : Arm}
    (h : ∀ w : VehicleNo, s.vehicles[w].waiting ≠ some (.armBusy n a)) : s.resumeWaiter n a = s := by
  rw [State.resumeWaiter, waiterAt_eq_none h]

/-- R95: the one vehicle that waits at the arm is sent RESUME with its order's number. -/
theorem resumeWaiter_of_waiter {s : State} {n : StandNo} {a : Arm} {w : VehicleNo} {c : OrderSlot} {q : Order}
    (h : ∀ u : VehicleNo, s.vehicles[u].waiting = some (.armBusy n a) ↔ u = w)
    (hw : s.vehicles[w].order = some c) (hq : s.orders[c] = some q) :
    s.resumeWaiter n a = { s with
      vehicles := s.vehicles.set w { s.vehicles[w] with waiting := none }
      outbound := s.outbound ++ [⟨w, .resume q.number⟩] } := by
  rw [State.resumeWaiter, waiterAt_eq_some h]
  dsimp only
  rw [orderNumberOf_eq hw hq]
  rfl

/-- R65: an arm that a roll leaves keeps the reservation that rode with a stub. -/
theorem ArmRecord.vacated_eq (r : ArmRecord) :
    r.vacated = ⟨if r.reservation = none then .empty else .reserved, none, r.reservation⟩ := by
  unfold ArmRecord.vacated
  cases h : r.reservation <;> rfl

theorem vacateArm_of_none {s : State} {n : StandNo} {a : Arm}
    (h : ∀ w : VehicleNo, s.vehicles[w].waiting ≠ some (.armBusy n a)) :
    s.vacateArm n a = { s with stands := s.stands.set n (s.stands[n].setArm a (s.stands[n].arm a).vacated) } :=
  resumeWaiter_of_none (s := s.modArm n a ArmRecord.vacated) h

theorem vacateArm_of_waiter {s : State} {n : StandNo} {a : Arm} {w : VehicleNo} {c : OrderSlot} {q : Order}
    (h : ∀ u : VehicleNo, s.vehicles[u].waiting = some (.armBusy n a) ↔ u = w)
    (hw : s.vehicles[w].order = some c) (hq : s.orders[c] = some q) :
    s.vacateArm n a = { s with
      stands := s.stands.set n (s.stands[n].setArm a (s.stands[n].arm a).vacated)
      vehicles := s.vehicles.set w { s.vehicles[w] with waiting := none }
      outbound := s.outbound ++ [⟨w, .resume q.number⟩] } :=
  resumeWaiter_of_waiter (s := s.modArm n a ArmRecord.vacated) h hw hq

/-! ## Lanes -/

/-- R45: a lane is unbound when nothing is left of it. -/
theorem Lane.unbindIfEmpty_eq (x : Lane) : x.unbindIfEmpty =
    { x with binding := if x.contents = [] ∧ x.reservations = 0 then none else x.binding } := by
  unfold Lane.unbindIfEmpty
  by_cases h : x.contents = [] ∧ x.reservations = 0
  · rw [if_pos ⟨List.isEmpty_iff.2 h.1, h.2⟩, if_pos h]
  · rw [if_neg fun h' => h ⟨List.isEmpty_iff.1 h'.1, h'.2⟩, if_neg h]

theorem leaveLane_eq {s : State} {l : LaneNo} {k : RollSlot} {tail : List RollSlot}
    (h : s.lanes[l].contents = k :: tail) :
    s.leaveLane l = { s with lanes := s.lanes.set l { s.lanes[l] with
      contents := tail
      binding := if tail = [] ∧ s.lanes[l].reservations = 0 then none else s.lanes[l].binding } } := by
  rw [State.leaveLane, State.modLane, h, Lane.unbindIfEmpty_eq]
  rfl

/-- R25, R69: a vehicle that loses its roll enters the idle list when it is IDLE. -/
theorem leaveVehicle_eq (s : State) (v : VehicleNo) : s.leaveVehicle v = { s with
    vehicles := s.vehicles.set v { s.vehicles[v] with roll := none }
    idle := if s.vehicles[v].state = .idle then s.idle ++ [v] else s.idle } := by
  unfold State.leaveVehicle
  simp only [State.modVehicle_vehicles, getElem_set_fin, if_true]
  by_cases h : s.vehicles[v].state = .idle
  · rw [if_pos h, if_pos h]
    rfl
  · rw [if_neg h, if_neg h]
    rfl

/-! ## The request -/

theorem retireRoll_eq {s : State} {k : Nat} {r : Roll} (hk : k < 1024) (hr : s.roll? k = some r) :
    retireRoll (1 :: beBytes 5 k) s = if s.retirable k r then .ok (s.retire k r) (beBytes 2 k ++ beBytes 5 r.tag)
      else .refuse .wrongState := withRoll_names (names_slot hk hr) _

theorem retirable_front {s : State} {k : Nat} {r : Roll} {l : LaneNo} (hclaim : r.claim = none)
    (hst : r.state = .stored) (hloc : r.location = .lane l) (hfront : s.lanes[l].contents.head? = some k) :
    s.retirable k r = true := by
  simp only [State.retirable, hclaim, hst, hloc, decide_eq_true hfront]
  rfl

theorem retirable_carried {s : State} {k : Nat} {r : Roll} {v : VehicleNo} (hclaim : r.claim = none)
    (hst : r.state = .carried) (hloc : r.location = .vehicle v) (hfree : s.vehicles[v].order = none) :
    s.retirable k r = true := by
  simp only [State.retirable, hclaim, hst, hloc, hfree]
  rfl

/-- R38: what RETIRE ROLL refuses. -/
theorem not_retirable {s : State} {k : Nat} {r : Roll}
    (h : r.claim ≠ none ∨ r.state = .standby ∨ r.state = .running ∨
      (∃ l : LaneNo, r.state = .stored ∧ r.location = .lane l ∧ s.lanes[l].contents.head? ≠ some k) ∨
      (∃ v : VehicleNo, r.state = .carried ∧ r.location = .vehicle v ∧ s.vehicles[v].order ≠ none)) :
    s.retirable k r = false := by
  unfold State.retirable
  obtain h | h | h | ⟨l, hst, hloc, hfront⟩ | ⟨v, hst, hloc, hbusy⟩ := h
  · rw [Option.isNone_eq_false_iff.2 (Option.isSome_iff_ne_none.2 h), Bool.false_and]
  · rw [h]
    exact Bool.and_false _
  · rw [h]
    exact Bool.and_false _
  · simp only [hst, hloc, decide_eq_false hfront, Bool.and_false]
  · simp only [hst, hloc, Option.isNone_eq_false_iff.2 (Option.isSome_iff_ne_none.2 hbusy), Bool.and_false]

/-- Settles O22: the roll leaves its place (`leaveLane_eq`, `vacateArm_of_none`, `vacateArm_of_waiter`), or is refused (`not_retirable`). -/
theorem retireRollFreesSlot : Obligations.RetireRollFreesSlot := by
  intro s tag rest k r hserves hk hr out freed
  have hlen : (1 :: beBytes 5 k : List Byte).length = 6 := rfl
  have hbody := retireRoll_eq (s := s.unqueued rest) hk hr
  have hok (hyes : (s.unqueued rest).retirable k r = true) : exec .retireRoll s =
      .next (((s.unqueued rest).retire k r).okAnswer .retireRoll tag out) := by
    rw [if_pos hyes] at hbody
    rw [exec_retireRoll, serve_ok hserves hlen hbody]
  refine ⟨⟨tableGet_tableErase_self _ _, fun j hj => tableGet_tableErase_other _ hj⟩,
    fun hclaim => ⟨fun hst hloc => ?_, fun l tail hst hloc hfront => ?_, fun n a hst hloc => ?_,
      fun v hst hloc hfree => ?_⟩, fun hno => ?_⟩
  · rw [hok (by simp [State.retirable, hclaim, hst])]
    simp only [State.retire, hloc]
    rfl
  · rw [hok (retirable_front hclaim hst hloc (congrArg List.head? hfront))]
    simp only [State.retire, hloc, State.leavePlace]
    rw [leaveLane_eq (s := s.unqueued rest) hfront]
    rfl
  · have hyes : (s.unqueued rest).retirable k r = true := by simp [State.retirable, hclaim, hst]
    intro emptied
    refine ⟨fun hnone => ?_, fun w c q hwaiter hw hq => ?_⟩
    · rw [hok hyes]
      simp only [State.retire, hloc, State.leavePlace]
      rw [vacateArm_of_none (s := s.unqueued rest) hnone, ArmRecord.vacated_eq]
      rfl
    · rw [hok hyes]
      simp only [State.retire, hloc, State.leavePlace]
      rw [vacateArm_of_waiter (s := s.unqueued rest) hwaiter hw hq, ArmRecord.vacated_eq]
      rfl
  · rw [hok (retirable_carried hclaim hst hloc hfree)]
    simp only [State.retire, hloc, State.leavePlace]
    rw [leaveVehicle_eq]
    rfl
  · rw [if_neg (by rw [not_retirable (s := s.unqueued rest) hno]; exact Bool.false_ne_true)] at hbody
    rw [exec_retireRoll, serve_refused hserves hlen hbody]

end Sys2Proof.Machine

/-! PROOF. Put-away selection, feed selection, the number of a new order and its creation (R51, R53, R54, R61, R64). -/

namespace Sys2Proof.Machine

/-! ## Least values -/

/-- The least candidate stands behind larger ones alone. -/
theorem leastOf_split {α : Type} {value : α → Nat} {l : List α} {x : α} (h : leastOf value l = some x) :
    ∃ front back, l = front ++ x :: back ∧ (∀ y ∈ front, value x < value y) ∧ ∀ y ∈ back, value x ≤ value y := by
  induction l generalizing x with
  | nil => contradiction
  | cons a l ih =>
    have hleast := leastOf_spec value l
    unfold leastOf at h
    split at h
    · next hnone =>
      obtain rfl := Option.some.inj h
      obtain rfl := hleast.1.1 hnone
      exact ⟨[], [], rfl, nofun, nofun⟩
    · next y hy =>
      split at h
      · next hlt =>
        obtain rfl := Option.some.inj h
        obtain ⟨front, back, rfl, hfront, hback⟩ := ih hy
        exact ⟨a :: front, back, rfl, List.forall_mem_cons.2 ⟨hlt, hfront⟩, hback⟩
      · next hge =>
        obtain rfl := Option.some.inj h
        exact ⟨[], l, rfl, nofun, fun z hz => (not_lt.1 hge).trans ((hleast.2 y hy).2 z hz)⟩

/-- Of candidates in rising order of a key, the least one with the lowest key is taken. -/
theorem leastOf_lowest {α : Type} {value : α → Nat} {key : α → Nat} {l : List α} {x : α}
    (hsorted : l.Pairwise fun a b => key a < key b) (h : leastOf value l = some x) :
    x ∈ l ∧ ∀ y ∈ l, value x < value y ∨ (value x = value y ∧ key x ≤ key y) := by
  obtain ⟨front, back, rfl, hfront, hback⟩ := leastOf_split h
  refine ⟨by simp, fun y hy => ?_⟩
  obtain hy | hy := List.mem_append.1 hy
  · exact .inl (hfront y hy)
  · obtain rfl | hy := List.mem_cons.1 hy
    · exact .inr ⟨rfl, le_rfl⟩
    · have hkey : key x < key y := (List.pairwise_cons.1 (List.pairwise_append.1 hsorted).2.1).1 y hy
      obtain hlt | heq := (hback y hy).lt_or_eq
      · exact .inl hlt
      · exact .inr ⟨heq, hkey.le⟩

/-! ## Put-away selection -/

/-- R51: a lane put-away selection may take. -/
def State.UsableLane (s : State) (without : Option LaneNo) (l : LaneNo) : Prop :=
  s.working.lanes[l].enabled = true ∧ without ≠ some l

/-- R51: a usable lane bound to the paper, with a free place. -/
def State.RoomyLane (s : State) (kind : PaperKind) (without : Option LaneNo) (l : LaneNo) : Prop :=
  s.UsableLane without l ∧ s.lanes[l].binding = some kind ∧ 0 < s.freePlaces l

/-- The usable lanes of R51 in rising order. -/
def State.usableLanes (s : State) (without : Option LaneNo) : List LaneNo :=
  (List.finRange 32).filter fun l => s.working.lanes[l].enabled && decide (without ≠ some l)

/-- The roomy lanes of R51 in rising order. -/
def State.roomyLanes (s : State) (kind : PaperKind) (without : Option LaneNo) : List LaneNo :=
  (s.usableLanes without).filter fun l =>
    decide (s.lanes[l].binding = some kind) && decide (0 < s.freePlaces l)

theorem putAwayLane_eq (s : State) (kind : PaperKind) (without : Option LaneNo) :
    s.putAwayLane kind without = (leastOf s.freePlaces (s.roomyLanes kind without)).or
      ((s.usableLanes without).find? fun l => decide (s.lanes[l].binding = none)) := by
  unfold State.putAwayLane
  dsimp only
  change (match leastOf s.freePlaces (s.roomyLanes kind without) with | some l => some l | none => _) = _
  cases leastOf s.freePlaces (s.roomyLanes kind without) <;> rfl

theorem mem_usableLanes {s : State} {without : Option LaneNo} {l : LaneNo} :
    l ∈ s.usableLanes without ↔ s.UsableLane without l := by
  simp only [State.usableLanes, State.UsableLane, List.mem_filter, List.mem_finRange, true_and, Bool.and_eq_true,
    decide_eq_true_eq]

theorem mem_roomyLanes {s : State} {kind : PaperKind} {without : Option LaneNo} {l : LaneNo} :
    l ∈ s.roomyLanes kind without ↔ s.RoomyLane kind without l := by
  simp only [State.roomyLanes, State.RoomyLane, List.mem_filter, mem_usableLanes, Bool.and_eq_true,
    decide_eq_true_eq]

theorem roomyLanes_eq_nil {s : State} {kind : PaperKind} {without : Option LaneNo} :
    s.roomyLanes kind without = [] ↔ ∀ m, ¬ s.RoomyLane kind without m := by
  rw [List.eq_nil_iff_forall_not_mem]
  exact forall_congr' fun m => not_congr mem_roomyLanes

theorem roomyLanes_sorted (s : State) (kind : PaperKind) (without : Option LaneNo) :
    (s.roomyLanes kind without).Pairwise fun a b => a.val < b.val :=
  ((List.pairwise_lt_finRange 32).filter _).filter _

theorem usableLanes_sorted (s : State) (without : Option LaneNo) :
    (s.usableLanes without).Pairwise fun a b => a < b := (List.pairwise_lt_finRange 32).filter _

/-- The first entry of a rising list that passes a test is the lowest one that does. -/
theorem find?_sorted {l : List LaneNo} {p : LaneNo → Bool} {x : LaneNo} (hsorted : l.Pairwise fun a b => a < b)
    (h : l.find? p = some x) : p x = true ∧ x ∈ l ∧ ∀ y ∈ l, p y = true → x ≤ y := by
  obtain ⟨hp, front, back, rfl, hfront⟩ := List.find?_eq_some_iff_append.1 h
  refine ⟨hp, by simp, fun y hy hpy => ?_⟩
  obtain hy | hy := List.mem_append.1 hy
  · exact absurd hpy (by simpa using hfront y hy)
  · obtain rfl | hy := List.mem_cons.1 hy
    · exact le_rfl
    · exact ((List.pairwise_cons.1 (List.pairwise_append.1 hsorted).2.1).1 y hy).le

/-- Settles O26: the least of the roomy lanes (`leastOf_lowest`), else the first unbound usable one (`find?_sorted`). -/
theorem putAwaySelectionFillsFullestLane : Obligations.PutAwaySelectionFillsFullestLane := by
  intro s kind without usable roomy
  have hnone : leastOf s.freePlaces (s.roomyLanes kind without) = none ↔ ∀ m, ¬ roomy m :=
    (leastOf_spec _ _).1.trans roomyLanes_eq_nil
  refine ⟨fun l hl hex => ?_, fun l hl hno => ?_, ?_⟩
  · rw [putAwayLane_eq] at hl
    cases hleast : leastOf s.freePlaces (s.roomyLanes kind without) with
    | none =>
      obtain ⟨m, hm⟩ := hex
      exact absurd hm (hnone.1 hleast m)
    | some x =>
      rw [hleast] at hl
      obtain rfl : x = l := Option.some.inj hl
      obtain ⟨hmem, hmin⟩ := leastOf_lowest (roomyLanes_sorted s kind without) hleast
      exact ⟨mem_roomyLanes.1 hmem, fun m hm => hmin m (mem_roomyLanes.2 hm)⟩
  · rw [putAwayLane_eq, hnone.2 hno, Option.none_or] at hl
    obtain ⟨hunbound, hmem, hlow⟩ := find?_sorted (usableLanes_sorted s without) hl
    exact ⟨mem_usableLanes.1 hmem, of_decide_eq_true hunbound,
      fun m hm hb => hlow m (mem_usableLanes.2 hm) (decide_eq_true hb)⟩
  · rw [putAwayLane_eq, Option.or_eq_none_iff, hnone, List.find?_eq_none]
    refine and_congr_right fun _ => forall_congr' fun m => ?_
    rw [mem_usableLanes, decide_eq_true_eq]
    rfl

/-! ## Feed selection -/

/-- R53: when a lane's front is eligible to feed a stand. -/
theorem eligibleFront_iff {s : State} {n : StandNo} {l : LaneNo} {k : RollSlot} {r : Roll} :
    s.eligibleFront n l = some (k, r) ↔
      s.working.lanes[l].enabled = true ∧ s.lanes[l].contents.head? = some k ∧ s.roll? k = some r ∧
        r.state = .stored ∧ r.hold = false ∧ r.damaged = false ∧ r.claim = none ∧
        s.requirement n = some ⟨r.grade, r.width⟩ := by
  unfold State.eligibleFront
  cases s.working.lanes[l].enabled with
  | false => simp
  | true =>
    cases s.lanes[l].contents with
    | nil => simp
    | cons j tail =>
      simp only [if_true, true_and, List.head?_cons, Option.some.injEq]
      cases hj : s.roll? j with
      | none =>
        simp only [reduceCtorEq, false_iff, not_and]
        rintro rfl hr
        rw [hj] at hr
        contradiction
      | some x =>
        constructor
        · intro h
          simp only at h
          split at h
          · next hc =>
            obtain ⟨rfl, rfl⟩ := Prod.mk.inj (Option.some.inj h)
            exact ⟨rfl, hj, hc⟩
          · contradiction
        · rintro ⟨rfl, hr, hc⟩
          obtain rfl : x = r := Option.some.inj (hj.symm.trans hr)
          simp only
          exact if_pos hc

/-- The eligible fronts in rising order of their lanes. -/
def State.feedChoices (s : State) (n : StandNo) : List FeedChoice :=
  (List.finRange 32).filterMap fun l => (s.eligibleFront n l).map fun p => ⟨l, p.1, p.2⟩

theorem mem_feedChoices {s : State} {n : StandNo} {c : FeedChoice} :
    c ∈ s.feedChoices n ↔ s.eligibleFront n c.lane = some (c.slot, c.roll) := by
  simp only [State.feedChoices, List.mem_filterMap, List.mem_finRange, true_and, Option.map_eq_some_iff]
  constructor
  · rintro ⟨l, p, hp, rfl⟩
    exact hp
  · intro h
    exact ⟨c.lane, _, h, rfl⟩

theorem feedChoices_sorted (s : State) (n : StandNo) :
    (s.feedChoices n).Pairwise fun a b => a.lane.val < b.lane.val := by
  refine (List.pairwise_lt_finRange 32).filterMap _ fun a b hab c hc d hd => ?_
  obtain ⟨_, _, rfl⟩ := Option.map_eq_some_iff.1 hc
  obtain ⟨_, _, rfl⟩ := Option.map_eq_some_iff.1 hd
  exact hab

theorem feedChoice_eq (s : State) (n : StandNo) :
    s.feedChoice n = leastOf (fun c => c.roll.sequence) (s.feedChoices n) := rfl

/-- R54: what feed selection takes is an eligible front. -/
theorem feedChoice_eligible {s : State} {n : StandNo} {c : FeedChoice} (h : s.feedChoice n = some c) :
    s.eligibleFront n c.lane = some (c.slot, c.roll) :=
  mem_feedChoices.1 (leastOf_lowest (feedChoices_sorted s n) h).1

theorem feedChoice_eq_none {s : State} {n : StandNo} :
    s.feedChoice n = none ↔ ∀ l, s.eligibleFront n l = none := by
  rw [feedChoice_eq, (leastOf_spec _ _).1, List.eq_nil_iff_forall_not_mem]
  constructor
  · intro h l
    cases hp : s.eligibleFront n l with
    | none => rfl
    | some p => exact absurd (mem_feedChoices (c := ⟨l, p.1, p.2⟩).2 hp) (h _)
  · intro h c hc
    have := mem_feedChoices.1 hc
    rw [h] at this
    contradiction

/-- Settles O27: the least of the eligible fronts (`leastOf_lowest`, `eligibleFront_iff`). -/
theorem feedSelectionTakesOldestFront : Obligations.FeedSelectionTakesOldestFront := by
  intro s n eligible
  have hiff (l : LaneNo) (k : Nat) (r : Roll) : eligible l k r ↔ s.eligibleFront n l = some (k, r) :=
    eligibleFront_iff.symm
  refine ⟨fun c hc => ⟨(hiff _ _ _).2 (feedChoice_eligible hc), fun l k r hel => ?_⟩, fun hnone l k r hel => ?_⟩
  · exact (leastOf_lowest (feedChoices_sorted s n) hc).2 ⟨l, k, r⟩ (mem_feedChoices.2 ((hiff l k r).1 hel))
  · have := feedChoice_eq_none.1 hnone l
    rw [(hiff l k r).1 hel] at this
    contradiction

/-! ## The number of a new order -/

theorem orderNumbered_eq_some {s : State} {number : Nat} {k : OrderSlot} (h : s.orderNumbered number = some k) :
    ∃ o, s.orders[k] = some o ∧ o.number = number := by
  obtain ⟨hk, -⟩ := find?_finRange_eq_some.1 h
  split at hk
  · contradiction
  · next o ho => exact ⟨o, ho, of_decide_eq_true hk⟩

theorem orderNumbered_eq_none {s : State} {number : Nat} :
    s.orderNumbered number = none ↔ ∀ (k : OrderSlot) (o : Order), s.orders[k] = some o → o.number ≠ number := by
  unfold State.orderNumbered
  rw [find?_finRange_eq_none]
  refine forall_congr' fun k => ?_
  cases s.orders[k] <;> simp

/-- R61: the numbers run from 1 to 65,535 and start again. -/
theorem nextAfter_iterate {number : Nat} (h1 : 1 ≤ number) (hmax : number ≤ 65535) (i : Nat) :
    nextAfter^[i] number = (number - 1 + i) % 65535 + 1 := by
  induction i with
  | zero =>
    rw [Function.iterate_zero, id, Nat.add_zero, Nat.mod_eq_of_lt (by omega)]
    omega
  | succ i ih =>
    rw [Function.iterate_succ_apply', ih, nextAfter, Config.max16]
    split <;> omega

/-- Thirty-two numbers in a row are unlike. -/
theorem nextAfter_iterate_inj {number i j : Nat} (h1 : 1 ≤ number) (hmax : number ≤ 65535) (hi : i < 32)
    (hj : j < 32) (h : nextAfter^[i] number = nextAfter^[j] number) : i = j := by
  rw [nextAfter_iterate h1 hmax, nextAfter_iterate h1 hmax] at h
  omega

/-- The search for an unused number ends at one, or after `fuel` numbers in use. -/
theorem unusedNumber_spec (s : State) (fuel number : Nat) :
    ∃ j ≤ fuel, s.unusedNumber fuel number = nextAfter^[j] number ∧
      (j < fuel → s.orderNumbered (nextAfter^[j] number) = none) ∧
      ∀ i < j, s.orderNumbered (nextAfter^[i] number) ≠ none := by
  induction fuel generalizing number with
  | zero => exact ⟨0, le_rfl, rfl, nofun, nofun⟩
  | succ fuel ih =>
    unfold State.unusedNumber
    split
    · next hnone => exact ⟨0, Nat.zero_le _, rfl, fun _ => Option.isNone_iff_eq_none.1 hnone, nofun⟩
    · next hsome =>
      obtain ⟨j, hj, hnum, hfound, hused⟩ := ih (nextAfter number)
      refine ⟨j + 1, Nat.succ_le_succ hj, hnum, fun hlt => hfound (Nat.lt_of_succ_lt_succ hlt), fun i hi => ?_⟩
      cases i with
      | zero => exact fun h => hsome (Option.isNone_iff_eq_none.2 h)
      | succ i => exact hused i (Nat.lt_of_succ_lt_succ hi)

/-- R61: were the 32 numbers from the counter on all in use, their 32 slots would be unlike, and none free. -/
theorem newNumberIsUnused {s : State} (h1 : 1 ≤ s.nextNumber) (hmax : s.nextNumber ≤ 65535) {free : OrderSlot}
    (hfree : s.orders[free] = none) : s.orderNumbered s.newNumber = none := by
  obtain ⟨j, hj, hnum, hfound, hused⟩ := unusedNumber_spec s 32 s.nextNumber
  rw [State.newNumber, hnum]
  refine hfound (lt_of_le_of_ne hj fun hall => ?_)
  subst hall
  have hslot (i : Fin 32) : ∃ k : OrderSlot, s.orderNumbered (nextAfter^[i.val] s.nextNumber) = some k :=
    Option.ne_none_iff_exists'.1 (hused i i.isLt)
  choose slot hslot using hslot
  have hinj : Function.Injective slot := fun a b hab => by
    obtain ⟨o, ho, hna⟩ := orderNumbered_eq_some (hslot a)
    obtain ⟨o', ho', hnb⟩ := orderNumbered_eq_some (hslot b)
    rw [hab, ho'] at ho
    have hsame : o' = o := Option.some.inj ho
    exact Fin.ext (nextAfter_iterate_inj h1 hmax a.isLt b.isLt (by rw [← hna, ← hnb, hsame]))
  obtain ⟨i, hi⟩ := Finite.injective_iff_surjective.1 hinj free
  obtain ⟨o, ho, -⟩ := orderNumbered_eq_some (hslot i)
  rw [hi, hfree] at ho
  contradiction

/-- Settles O28: the search stays in the range (`nextAfter_iterate`) and finds an unused number (`newNumberIsUnused`). -/
theorem newOrderNumberIsUnused : Obligations.NewOrderNumberIsUnused := by
  intro s h1 hmax ⟨free, hfree⟩
  obtain ⟨j, -, hnum, -, -⟩ := unusedNumber_spec s 32 s.nextNumber
  have hvalue : s.newNumber = (s.nextNumber - 1 + j) % 65535 + 1 := hnum.trans (nextAfter_iterate h1 hmax j)
  refine ⟨by omega, by omega, fun k o ho => ?_⟩
  exact orderNumbered_eq_none.1 (newNumberIsUnused h1 hmax hfree) k o ho

/-! ## The creation of an order -/

theorem OrderKind.cls_urgent_iff (k : OrderKind) : k.cls = .urgent ↔ k = .feed ∨ k = .returnStub := by
  cases k <;> decide

/-- R68: where a new order enters the waiting-order queue. -/
theorem enterQueue_eq (s : State) (c : OrderSlot) (kind : OrderKind) :
    let urgent := fun i : OrderSlot => s.orders[i].any fun x => decide (x.kind = .feed ∨ x.kind = .returnStub)
    s.enterQueue c kind.cls = { s with
      waiting := if kind = .feed ∨ kind = .returnStub
        then s.waiting.takeWhile urgent ++ c :: s.waiting.dropWhile urgent else s.waiting ++ [c] } := by
  intro urgent
  have hurgent : (fun i : OrderSlot => match s.orders[i] with
      | none => false
      | some o => decide (o.kind.cls = .urgent)) = urgent := by
    funext i
    simp only [urgent]
    cases s.orders[i] with
    | none => rfl
    | some o => simp [OrderKind.cls_urgent_iff]
  by_cases h : kind = .feed ∨ kind = .returnStub
  · rw [if_pos h, (OrderKind.cls_urgent_iff kind).2 h, ← hurgent]
    rfl
  · have hnormal : kind.cls = .normal := by
      cases hc : kind.cls with
      | normal => rfl
      | urgent => exact absurd ((OrderKind.cls_urgent_iff kind).1 hc) h
    rw [if_neg h, hnormal]
    rfl

/-- Settles O29: the reservation is what the destination makes of it, then the queue (`enterQueue_eq`) or the vehicle. -/
theorem orderCreationIsOneEvent : Obligations.OrderCreationIsOneEvent := by
  intro s c kind origin k r source dest lanes stands number o limit hdest
  have hreserve (t : State) (hl : t.lanes = s.lanes) (hs : t.stands = s.stands) :
      t.reserve c r.kind dest = { t with lanes := lanes, stands := stands } := by
    obtain ⟨rfl, rfl, rfl⟩ | ⟨l, rfl, rfl, rfl⟩ | ⟨n, a, rfl, rfl, rfl⟩ := hdest
    · rw [← hl, ← hs]
      rfl
    · rw [← hl, ← hs]
      rfl
    · rw [← hl, ← hs]
      rfl
  constructor
  · intro hplace orders urgent
    unfold State.createOrder
    cases source with
    | vehicle v => exact absurd rfl (hplace v)
    | dock | lane | arm | exitBay =>
      dsimp only
      generalize ht : State.modRoll _ k _ = t
      rw [hreserve t (by rw [← ht]; rfl) (by rw [← ht]; rfl), enterQueue_eq, ← ht]
      rfl
  · rintro v rfl
    unfold State.createOrder
    dsimp only
    generalize ht : State.modRoll _ k _ = t
    rw [hreserve t (by rw [← ht]; rfl) (by rw [← ht]; rfl), ← ht]
    rfl

end Sys2Proof.Machine

/-! PROOF. The readouts: their lengths, and the fields that stand in them (R35, R59, R81, R106, R121, R144, R161, R181, R182). -/

namespace Sys2Proof.Machine

/-! ## Fields of a readout -/

/-- A field behind a part of a readout. -/
theorem num_behind_part (a f : List Byte) {i len : Nat} (h : a.length ≤ i) :
    num (a ++ f) i len = num f (i - a.length) len := by
  have := num_skip a f (i - a.length) len
  rwa [Nat.add_sub_cancel' h] at this

/-- R177: a field reads back the number modulo its range. -/
theorem num_field (len n : Nat) (f : List Byte) : num (beBytes len n ++ f) 0 len = n % 256 ^ len := by
  rw [num, List.drop_zero, List.take_left' (beBytes_length len n), beNat_beBytes]

theorem num_optByte {n : Nat} (o : Option (Fin n)) (h : n ≤ 256) :
    (optByte (o.map Fin.val)).toNat = o.elim 255 Fin.val := by
  cases o with
  | none => rfl
  | some k => exact byteOf_val k h

theorem toNat_flagByte (b : Bool) : (flagByte b).toNat = if b then 1 else 0 := by cases b <;> rfl

theorem toNat_flagByte_decide (p : Prop) [Decidable p] : (flagByte (decide p)).toNat = if p then 1 else 0 := by
  rw [toNat_flagByte]
  simp only [decide_eq_true_eq]

@[simp] theorem optSlot_length (o : Option RollSlot) : (optSlot o).length = 2 := by cases o <;> rfl

theorem exec_readRoll (s : State) : exec .readRoll s = .next (s.serve .readRoll readRoll) := rfl
theorem exec_readLane (s : State) : exec .readLane s = .next (s.serve .readLane readLane) := rfl
theorem exec_readOrder (s : State) : exec .readOrder s = .next (s.serve .readOrder readOrder) := rfl
theorem exec_readVehicle (s : State) : exec .readVehicle s = .next (s.serve .readVehicle readVehicle) := rfl
theorem exec_readAisle (s : State) : exec .readAisle s = .next (s.serve .readAisle readAisle) := rfl
theorem exec_readStand (s : State) : exec .readStand s = .next (s.serve .readStand readStand) := rfl
theorem exec_readJob (s : State) : exec .readJob s = .next (s.serve .readJob readJob) := rfl

/-! ## Rolls, lanes and orders -/

@[simp] theorem locationBytes_length (s : State) (k : RollSlot) (p : Location) : (s.locationBytes k p).length = 3 := by
  cases p <;> rfl

theorem rollReadout_length (s : State) (k : RollSlot) (r : Roll) : (s.rollReadout k r).length = 32 := by
  simp [State.rollReadout]

@[simp] theorem entryBytes_length (s : State) (k : RollSlot) : (s.entryBytes k).length = 14 := by
  unfold State.entryBytes
  split <;> simp

/-- R59: the three bytes of a lane's binding. -/
def bindingBytes : Option PaperKind → List Byte
  | none => [noneByte, 0, 0]
  | some kind => byteOf kind.grade :: beBytes 2 kind.width

@[simp] theorem bindingBytes_length (b : Option PaperKind) : (bindingBytes b).length = 3 := by cases b <;> rfl

theorem bindingBytes_head (b : Option PaperKind) (f : List Byte) :
    num (bindingBytes b ++ f) 0 1 = b.elim 255 fun kind => kind.grade.val := by
  cases b with
  | none => rfl
  | some kind => exact (num_one _ _).trans (byteOf_val kind.grade (by decide))

theorem laneReadout_some (s : State) (l : LaneNo) : s.laneReadout (some l) =
    [byteOf l, flagByte s.working.lanes[l].enabled, byteOf s.working.lanes[l].aisle, byteOf s.working.lanes[l].depth] ++
      (bindingBytes s.lanes[l].binding ++
        ([byteOf s.lanes[l].reservations, byteOf (s.freePlaces l), byteOf s.lanes[l].contents.length] ++
          s.lanes[l].contents.flatMap s.entryBytes)) := by
  unfold State.laneReadout
  dsimp only
  cases s.lanes[l].binding with
  | none => rfl
  | some kind => rfl

theorem destination?_lane (l : LaneNo) : destination? (byteOf l.val).toNat = some (some l) := by
  have hl := byteOf_val l (by decide)
  have hne : ¬ (byteOf l.val).toNat = 254 := by omega
  rw [destination?, if_neg hne, fin?_byteOf l (by decide)]
  rfl

@[simp] theorem Place.bytes_length (p : Place) : p.bytes.length = 2 := by
  cases p with
  | arm n a => cases a <;> rfl
  | _ => rfl

@[simp] theorem Counter.bytes_length (x : Counter) : x.bytes.length = 2 := by cases x <;> rfl

theorem orderReadout_length (k : OrderSlot) (o : Order) : (orderReadout k o).length = 22 := by
  simp [orderReadout]

theorem readOrder_slot {s : State} {k : OrderSlot} {o : Order} (ho : s.orders[k] = some o) :
    readOrder (1 :: beBytes 2 k.val) s = .ok s (orderReadout k o) := by
  have hk : num (1 :: beBytes 2 k.val) 1 2 = k.val := by rw [num_succ, num_whole (by omega)]
  have hsome : s.orders[k].isSome = true := by rw [ho]; rfl
  have hres : s.resolveOrder (1 :: beBytes 2 k.val) = .ok k := by
    unfold State.resolveOrder
    dsimp only
    rw [hk, fin?_val]
    exact if_pos hsome
  unfold readOrder
  rw [hres]
  simp only [ho]

/-- Settles O24: the readouts, field by field (`num_behind_part`, `num_field`). -/
theorem readersOfRollsLanesAndOrders : Obligations.ReadersOfRollsLanesAndOrders := by
  refine ⟨fun s tag rest k r hserves hk hr => ?_, fun s tag rest l hserves => ?_, fun s tag rest hserves => ?_,
    fun s tag rest k o hserves ho => ?_⟩
  · have hbody : readRoll (1 :: beBytes 5 k) (s.unqueued rest) =
        .ok (s.unqueued rest) ((s.unqueued rest).rollReadout k r) :=
      withRoll_names (s := s.unqueued rest) (names_slot hk hr) _
    have hslot : k % 65536 = k := Nat.mod_eq_of_lt (by omega)
    have hgrade : r.grade.val < 256 := by omega
    refine ⟨_, by rw [exec_readRoll, serve_ok hserves rfl hbody], rollReadout_length _ k r, ?_⟩
    simp only [State.rollReadout, List.append_assoc, List.cons_append]
    simp [num_behind_part, num_field, num_optByte, hslot, hgrade]
    cases r.claim <;> rfl
  · have hbody : readLane [byteOf l.val] (s.unqueued rest) =
        .ok (s.unqueued rest) ((s.unqueued rest).laneReadout (some l)) := by
      simp only [readLane, selector?, byteAt_zero, destination?_lane]
    have hlane : l.val < 256 := by omega
    have haisle : s.working.lanes[l].aisle.val < 256 := by omega
    refine ⟨_, by rw [exec_readLane, serve_ok hserves rfl hbody], ?_⟩
    rw [laneReadout_some]
    refine ⟨?_, ?_⟩
    · rw [List.length_append, List.length_append, List.length_append, bindingBytes_length,
        length_flatMap_const _ _ 14 (entryBytes_length _)]
      simp
      omega
    · simp [num_behind_part, bindingBytes_head, toNat_flagByte, hlane]
      refine ⟨haisle, by cases s.lanes[l].binding <;> rfl, ?_⟩
      rw [Nat.sub_sub]
      rfl
  · have hbody : readLane [0xFE] (s.unqueued rest) =
        .ok (s.unqueued rest) ((s.unqueued rest).laneReadout none) := rfl
    have hout : (s.unqueued rest).laneReadout none = 0xFE :: (beBytes 8 0 ++
        (byteOf s.dock.length :: s.dock.flatMap (s.unqueued rest).entryBytes)) := rfl
    refine ⟨_, by rw [exec_readLane, serve_ok hserves rfl hbody], ?_⟩
    rw [hout]
    refine ⟨?_, ?_⟩
    · rw [List.length_cons, List.length_append, List.length_cons, beBytes_length,
        length_flatMap_const _ _ 14 (entryBytes_length _)]
      omega
    · simp [num_behind_part, num_field]
  · have hbody : readOrder (1 :: beBytes 2 k.val) (s.unqueued rest) =
        .ok (s.unqueued rest) (orderReadout k o) := readOrder_slot (s := s.unqueued rest) ho
    have hslot : k.val < 256 := by omega
    refine ⟨_, by rw [exec_readOrder, serve_ok hserves rfl hbody], orderReadout_length k o, ?_⟩
    simp only [orderReadout, List.append_assoc, List.cons_append]
    simp [num_behind_part, num_field, num_optByte, hslot]
    cases o.vehicle <;> rfl

/-! ## Vehicles, aisles, stands and jobs -/

@[simp] theorem waitBytes_length (w : Option Wait) : (waitBytes w).length = 3 := by
  cases w with
  | none => rfl
  | some w => cases w <;> rfl

@[simp] theorem laneBits_length (lanes : List LaneNo) : (laneBits lanes).length = 4 := beBytes_length 4 _

theorem vehicleReadout_length (s : State) (v : VehicleNo) : (s.vehicleReadout v).length = 20 := by
  simp [State.vehicleReadout]

/-- R181: the number that shows a counter. -/
def Counter.shown : Counter → Nat
  | .none => 65535
  | .expired => 0
  | .running left => left % 65536

theorem Counter.bytes_num (x : Counter) (f : List Byte) : num (x.bytes ++ f) 0 2 = x.shown := by
  cases x with
  | none => rfl
  | expired => rfl
  | running left => exact num_field 2 left f

@[simp] theorem armBytes_length (s : State) (a : ArmRecord) : (s.armBytes a).length = 17 := by
  unfold State.armBytes
  dsimp only
  split <;> simp

theorem armBytes_status (s : State) (a : ArmRecord) (f : List Byte) :
    num (s.armBytes a ++ f) 0 1 = a.status.code.toNat := by
  simp only [State.armBytes, List.cons_append]
  exact num_one _ _

theorem standReadout_length (s : State) (n : StandNo) : (s.standReadout n).length = 66 := by
  simp [State.standReadout]

/-- R144: the number that shows an arm, or none. -/
def armShown : Option Arm → Nat
  | none => 255
  | some .A => 0
  | some .B => 1

theorem toNat_optArm (a : Option Arm) : (optArm a).toNat = armShown a := by
  cases a with
  | none => rfl
  | some a => cases a <;> rfl

theorem planBytes_length (plan : WebPlan) :
    (planBytes plan).length = 4 * (List.finRange 8).countP fun n => plan[n].isSome := by
  have hpart (l : List StandNo) : (l.flatMap fun n => match plan[n] with
      | none => []
      | some kind => byteOf n.val :: byteOf kind.grade :: beBytes 2 kind.width).length =
        4 * l.countP fun n => plan[n].isSome := by
    induction l with
    | nil => rfl
    | cons n l ih =>
      rw [List.flatMap_cons, List.length_append, ih, List.countP_cons]
      cases plan[n] with
      | none => simp
      | some kind =>
        simp
        omega
  exact hpart _

/-- Settles O25: the readouts, field by field (`num_behind_part`, `num_field`). -/
theorem readersOfVehiclesAislesStandsAndJobs : Obligations.ReadersOfVehiclesAislesStandsAndJobs := by
  refine ⟨fun s tag rest v hserves => ?_, fun s tag rest g hserves => ?_, fun s tag rest n hserves => ?_,
    fun s tag rest j hserves => ⟨fun hfree => ?_, fun hlive => ?_⟩⟩
  · have hbody : readVehicle [byteOf v.val] (s.unqueued rest) =
        .ok (s.unqueued rest) ((s.unqueued rest).vehicleReadout v) := by
      simp only [readVehicle, byteAt_zero, fin?_byteOf v (by decide)]
    have hv : v.val < 256 := by omega
    refine ⟨_, by rw [exec_readVehicle, serve_ok hserves rfl hbody], vehicleReadout_length _ v, ?_⟩
    simp only [State.vehicleReadout, List.append_assoc, List.cons_append]
    simp [num_behind_part, num_optByte, hv]
    exact ⟨toNat_flagByte_decide _, by cases s.vehicles[v].order <;> rfl⟩
  · have hbody : readAisle [byteOf g.val] (s.unqueued rest) =
        .ok (s.unqueued rest) ((s.unqueued rest).aisleReadout g) := by
      simp only [readAisle, byteAt_zero, fin?_byteOf g (by decide)]
    have hg : g.val < 256 := by omega
    refine ⟨_, by rw [exec_readAisle, serve_ok hserves rfl hbody], ?_, ?_⟩
    · simp only [State.aisleReadout, List.length_append, List.length_cons]
      rw [length_flatMap_const _ _ 4 (fun v => by simp)]
      simp
      omega
    · simp only [State.aisleReadout, List.append_assoc, List.cons_append]
      simp [num_behind_part, num_optByte, Counter.bytes_num, hg]
      cases s.aisles[g].holder <;> cases s.aisles[g].counter <;> exact ⟨rfl, rfl⟩
  · have hbody : readStand [byteOf n.val] (s.unqueued rest) =
        .ok (s.unqueued rest) ((s.unqueued rest).standReadout n) := by
      simp only [readStand, withStand, byteAt_zero, fin?_byteOf n (by decide)]
    have hn : n.val < 256 := by omega
    refine ⟨_, by rw [exec_readStand, serve_ok hserves rfl hbody], standReadout_length _ n, ?_⟩
    simp only [State.standReadout, List.append_assoc, List.cons_append]
    simp [num_behind_part, num_field, armBytes_status, toNat_optArm, State.spliceCommand, hn]
    refine ⟨?_, toNat_flagByte_decide _⟩
    cases s.stands[n].running with
    | none => rfl
    | some a => cases a <;> rfl
  · have hbody : readJob [byteOf j.val] (s.unqueued rest) =
        .ok (s.unqueued rest) ((s.unqueued rest).jobReadout j) := by
      simp only [readJob, withJob, byteAt_zero, fin?_byteOf j (by decide)]
    have hout : (s.unqueued rest).jobReadout j = [byteOf j.val, 0] := by
      unfold State.jobReadout
      dsimp only
      rw [State.unqueued_jobs, if_pos hfree, hfree]
      rfl
    rw [exec_readJob, serve_ok hserves rfl hbody, hout]
  · have hbody : readJob [byteOf j.val] (s.unqueued rest) =
        .ok (s.unqueued rest) ((s.unqueued rest).jobReadout j) := by
      simp only [readJob, withJob, byteAt_zero, fin?_byteOf j (by decide)]
    have hj : j.val < 256 := by omega
    have hlive' : ¬ (s.unqueued rest).jobs[j].state = .free := hlive
    refine ⟨_, by rw [exec_readJob, serve_ok hserves rfl hbody], ?_, ?_⟩
    · unfold State.jobReadout
      dsimp only
      rw [if_neg hlive']
      simp [planBytes_length]
      omega
    · unfold State.jobReadout
      dsimp only
      rw [if_neg hlive']
      simp only [List.append_assoc, List.cons_append]
      simp [num_behind_part, num_field, hj]

end Sys2Proof.Machine

/-! PROOF. PUT AWAY, RELOCATE and REMOVE: destinations, sources, the order they create and what refuses them (R52, R55 to R58, R67). -/

namespace Sys2Proof.Machine

/-! ## Slots of the order table -/

theorem freeOrderSlot_eq_some {s : State} {c : OrderSlot} (h : s.orders[c] = none)
    (hlow : ∀ b, b < c → s.orders[b] ≠ none) : s.freeOrderSlot = some c :=
  find?_finRange_eq_some.2 ⟨Option.isNone_iff_eq_none.2 h, fun b hb =>
    Option.isNone_eq_false_iff.2 (Option.isSome_iff_ne_none.2 (hlow b hb))⟩

theorem freeOrderSlot_eq_none {s : State} : s.freeOrderSlot = none ↔ ∀ c : OrderSlot, s.orders[c] ≠ none := by
  rw [State.freeOrderSlot, find?_finRange_eq_none]
  refine forall_congr' fun c => ?_
  rw [Option.isNone_eq_false_iff, Option.isSome_iff_ne_none]

/-- R61: the number of a new order depends on the order table and its counter alone. -/
theorem newNumber_congr {s t : State} (ho : t.orders = s.orders) (hn : t.nextNumber = s.nextNumber) :
    t.newNumber = s.newNumber := by
  have hnumbered (m : Nat) : t.orderNumbered m = s.orderNumbered m := by
    rw [State.orderNumbered, State.orderNumbered, ho]
  have hunused (fuel m : Nat) : t.unusedNumber fuel m = s.unusedNumber fuel m := by
    induction fuel generalizing m with
    | zero => rfl
    | succ fuel ih => rw [State.unusedNumber, State.unusedNumber, hnumbered, ih]
  rw [State.newNumber, State.newNumber, hunused, hn]

theorem newNumber_unqueued (s : State) (rest : List Request) : (s.unqueued rest).newNumber = s.newNumber :=
  newNumber_congr rfl rfl

/-! ## Destinations -/

theorem destination?_eq_none {b : Byte} (h : 32 ≤ b.toNat) (hne : b ≠ 0xFE) : destination? b.toNat = none := by
  have hne' : ¬ b.toNat = 254 := fun h => hne (BitVec.eq_of_toNat_eq h)
  rw [destination?, if_neg hne', fin?_eq_none h]
  rfl

theorem destination?_choose : destination? (0xFE : Byte).toNat = some none := rfl

/-- R181: a byte that is a lane or "part chooses". -/
theorem destination?_isSome {b : Byte} (h : b = 0xFE ∨ b.toNat < 32) : ∃ named, destination? b.toNat = some named := by
  obtain rfl | h := h
  · exact ⟨none, rfl⟩
  · have hne : ¬ b.toNat = 254 := by omega
    exact ⟨some ⟨b.toNat, h⟩, by rw [destination?, if_neg hne, fin?_of_lt h]; rfl⟩

/-- R44: a lane can take the paper: it is unbound, or bound to it. -/
def State.Fits (s : State) (kind : PaperKind) (l : LaneNo) : Prop :=
  s.lanes[l].binding = none ∨ s.lanes[l].binding = some kind

theorem fits_iff {s : State} {kind : PaperKind} {l : LaneNo} :
    s.Fits kind l ↔ ¬ (s.lanes[l].binding ≠ none ∧ s.lanes[l].binding ≠ some kind) := by
  rw [State.Fits]
  tauto

section
variable {s : State} {kind : PaperKind} {source : Option LaneNo} {l : LaneNo}

/-- R52, check 1. -/
theorem namedLaneRefusal_disabled (h : s.working.lanes[l].enabled = false ∨ source = some l) :
    s.namedLaneRefusal l kind source = some .badField := if_pos h

theorem named_lane_usable (he : s.working.lanes[l].enabled = true) (hs : source ≠ some l) :
    ¬ (s.working.lanes[l].enabled = false ∨ source = some l) :=
  not_or.2 ⟨fun hoff => Bool.false_ne_true (hoff.symm.trans he), hs⟩

/-- R52, check 2. -/
theorem namedLaneRefusal_bound (he : s.working.lanes[l].enabled = true) (hs : source ≠ some l)
    (h : ¬ s.Fits kind l) : s.namedLaneRefusal l kind source = some .wrongState := by
  rw [State.namedLaneRefusal, if_neg (named_lane_usable he hs), if_pos (not_not.1 (mt fits_iff.2 h))]

/-- R52, check 3. -/
theorem namedLaneRefusal_full (he : s.working.lanes[l].enabled = true) (hs : source ≠ some l)
    (h : s.Fits kind l) (hfull : s.freePlaces l = 0) : s.namedLaneRefusal l kind source = some .storeFull := by
  rw [State.namedLaneRefusal, if_neg (named_lane_usable he hs), if_neg (fits_iff.1 h), if_pos hfull]

theorem namedLaneRefusal_none (he : s.working.lanes[l].enabled = true) (hs : source ≠ some l)
    (h : s.Fits kind l) (hroom : 0 < s.freePlaces l) : s.namedLaneRefusal l kind source = none := by
  rw [State.namedLaneRefusal, if_neg (named_lane_usable he hs), if_neg (fits_iff.1 h), if_neg hroom.ne']

theorem destinationLane_badField (h : s.working.lanes[l].enabled = false ∨ source = some l) :
    s.destinationLane (some l) kind source = .error .badField := by
  rw [State.destinationLane, namedLaneRefusal_disabled h]

theorem destinationLane_wrongState (he : s.working.lanes[l].enabled = true) (hs : source ≠ some l)
    (h : ¬ s.Fits kind l) : s.destinationLane (some l) kind source = .error .wrongState := by
  rw [State.destinationLane, namedLaneRefusal_bound he hs h]

theorem destinationLane_storeFull (he : s.working.lanes[l].enabled = true) (hs : source ≠ some l)
    (h : s.Fits kind l) (hfull : s.freePlaces l = 0) :
    s.destinationLane (some l) kind source = .error .storeFull := by
  rw [State.destinationLane, namedLaneRefusal_full he hs h hfull]

theorem destinationLane_ok (he : s.working.lanes[l].enabled = true) (hs : source ≠ some l)
    (h : s.Fits kind l) (hroom : 0 < s.freePlaces l) : s.destinationLane (some l) kind source = .ok l := by
  rw [State.destinationLane, namedLaneRefusal_none he hs h hroom]

theorem destinationLane_none (h : s.putAwayLane kind source = none) :
    s.destinationLane none kind source = .error .storeFull := by
  simp only [State.destinationLane, h]

theorem destinationLane_choose (h : s.putAwayLane kind source = some l) :
    s.destinationLane none kind source = .ok l := by
  simp only [State.destinationLane, h]

/-- R51, R52: the lane a destination byte yields. -/
theorem destination_chosen {b : Byte}
    (h : (b = byteOf l.val ∧ source ≠ some l ∧ s.working.lanes[l].enabled = true ∧ s.Fits kind l ∧
        0 < s.freePlaces l) ∨ (b = 0xFE ∧ s.putAwayLane kind source = some l)) :
    ∃ named, destination? b.toNat = some named ∧ s.destinationLane named kind source = .ok l := by
  obtain ⟨rfl, hs, he, hfits, hroom⟩ | ⟨rfl, hchoose⟩ := h
  · exact ⟨some l, destination?_lane l, destinationLane_ok he hs hfits hroom⟩
  · exact ⟨none, rfl, destinationLane_choose hchoose⟩

end

/-! ## PUT AWAY -/

theorem exec_putAway (s : State) : exec .putAway s = .next (s.serve .putAway putAway) := rfl
theorem exec_relocate (s : State) : exec .relocate s = .next (s.serve .relocate relocate) := rfl
theorem exec_remove (s : State) : exec .remove s = .next (s.serve .remove remove) := rfl

/-- R55, R56: where a loose roll is taken from. -/
theorem looseSource_eq {s : State} {r : Roll} {source : Place}
    (h : (r.state = .docked ∧ source = .dock) ∨
      ∃ v : VehicleNo, r.state = .carried ∧ r.location = .vehicle v ∧ s.vehicles[v].state = .idle ∧
        s.vehicles[v].order = none ∧ source = .vehicle v) : s.looseSource r = some source := by
  obtain ⟨hst, rfl⟩ | ⟨v, hst, hloc, hidle, hfree, rfl⟩ := h
  · simp only [State.looseSource, hst]
  · simp only [State.looseSource, hst, hloc, hidle, hfree, and_self, if_true]

/-- A reference and a destination byte, taken apart. -/
theorem putAway_fields {ref : List Byte} (dest : Byte) (hlen : ref.length = 6) :
    (ref ++ [dest]).length = 7 ∧ (ref ++ [dest]).take 6 = ref ∧ byteAt (ref ++ [dest]) 6 = dest.toNat := by
  have hdest := byteAt_append ref [dest] 0
  rw [hlen] at hdest
  exact ⟨by simp [hlen], List.take_left' hlen, hdest.trans (byteAt_zero _ _)⟩

/-- R55, R56: PUT AWAY of an unclaimed loose roll, once its destination is read (`putAway_eq`). -/
def State.putAwayTo (s : State) (named : Option LaneNo) (k : RollSlot) (r : Roll) (source : Place) : Reply :=
  match s.destinationLane named r.kind none with
  | .error e => .refuse e
  | .ok l =>
    match s.freeOrderSlot with
    | none => .refuse .full
    | some slot => .ok (s.createOrder slot .putaway .request k r source (.lane l)).pair
        (beBytes 2 s.newNumber ++ [byteOf slot, byteOf l])

theorem putAway_eq {s : State} {ref : List Byte} {dest : Byte} {k : Nat} {r : Roll} {source : Place}
    {named : Option LaneNo} (hnames : s.Names ref k r) (hsource : s.looseSource r = some source)
    (hdest : destination? dest.toNat = some named) :
    putAway (ref ++ [dest]) s = if r.claim.isSome then .refuse .wrongState else s.putAwayTo named k r source := by
  obtain ⟨-, href, hbyte⟩ := putAway_fields dest (names_length hnames)
  unfold putAway
  rw [hbyte, hdest]
  dsimp only
  rw [href, withRoll_names hnames, hsource]
  rfl

theorem putAwayTo_refused {s : State} {named : Option LaneNo} {k : RollSlot} {r : Roll} {source : Place} {e : Result}
    (h : s.destinationLane named r.kind none = .error e) : s.putAwayTo named k r source = .refuse e := by
  rw [State.putAwayTo, h]

theorem putAwayTo_full {s : State} {named : Option LaneNo} {k : RollSlot} {r : Roll} {source : Place} {l : LaneNo}
    (h : s.destinationLane named r.kind none = .ok l) (hfull : ∀ c : OrderSlot, s.orders[c] ≠ none) :
    s.putAwayTo named k r source = .refuse .full := by
  rw [State.putAwayTo, h, freeOrderSlot_eq_none.2 hfull]

theorem putAwayTo_ok {s : State} {named : Option LaneNo} {k : RollSlot} {r : Roll} {source : Place} {l : LaneNo}
    {c : OrderSlot} (h : s.destinationLane named r.kind none = .ok l) (hc : s.orders[c] = none)
    (hlow : ∀ b, b < c → s.orders[b] ≠ none) : s.putAwayTo named k r source =
      .ok (s.createOrder c .putaway .request k r source (.lane l)).pair
        (beBytes 2 s.newNumber ++ [byteOf c, byteOf l]) := by
  rw [State.putAwayTo, h, freeOrderSlot_eq_some hc hlow]

/-- Settles O30: the destination decides (`destinationLane_ok` and its companions), then the order table. -/
theorem putAwayCreatesOrder : Obligations.PutAwayCreatesOrder := by
  intro s tag dest rest k r source hserves hk hr hloose refused fits chosen
  have hnames : (s.unqueued rest).Names (1 :: beBytes 5 k) k r := names_slot (s := s.unqueued rest) hk hr
  have hsource : (s.unqueued rest).looseSource r = some source := looseSource_eq (s := s.unqueued rest) hloose
  obtain ⟨hlen, -, hbyte⟩ := putAway_fields dest (names_length hnames)
  have heq {named : Option LaneNo} := putAway_eq (named := named) hnames hsource (dest := dest)
  have hrefused {e : Result} (hbody : putAway (1 :: beBytes 5 k ++ [dest]) (s.unqueued rest) = .refuse e) :
      exec .putAway s = .next (refused e) := by rw [exec_putAway, serve_refused hserves hlen hbody]
  refine ⟨fun hbad hne => hrefused ?_, fun hgood hclaim => hrefused ?_, fun hclaim => ⟨fun l hl => ?_,
    fun hchoose hnone => hrefused ?_, fun l hl => ?_⟩⟩
  · simp only [putAway, hbyte, destination?_eq_none hbad hne]
  · obtain ⟨named, hdest⟩ := destination?_isSome hgood
    rw [heq hdest, if_pos (Option.isSome_iff_ne_none.2 hclaim)]
  · subst hl
    have hdest := heq (destination?_lane l)
    rw [if_neg (by simp [hclaim])] at hdest
    refine ⟨fun he => hrefused ?_, fun he hfits => hrefused ?_, fun he hfits hfull => hrefused ?_⟩
    · exact hdest.trans (putAwayTo_refused (destinationLane_badField (s := s.unqueued rest) (.inl he)))
    · exact hdest.trans (putAwayTo_refused (destinationLane_wrongState (s := s.unqueued rest) he
        (Option.some_ne_none l).symm hfits))
    · exact hdest.trans (putAwayTo_refused (destinationLane_storeFull (s := s.unqueued rest) he
        (Option.some_ne_none l).symm hfits hfull))
  · subst hchoose
    have hbody := heq destination?_choose
    rw [if_neg (by simp [hclaim])] at hbody
    exact hbody.trans (putAwayTo_refused (destinationLane_none (s := s.unqueued rest) hnone))
  · have hchosen : ∃ named, destination? dest.toNat = some named ∧
        (s.unqueued rest).destinationLane named r.kind none = .ok l :=
      destination_chosen (s := s.unqueued rest)
        (hl.imp_left fun ⟨hd, he⟩ => ⟨hd, (Option.some_ne_none l).symm, he⟩)
    obtain ⟨named, hdest, hlane⟩ := hchosen
    have hbody := heq hdest
    rw [if_neg (by simp [hclaim])] at hbody
    refine ⟨fun hfull => hrefused ?_, fun c hc hlow => ?_⟩
    · exact hbody.trans (putAwayTo_full (s := s.unqueued rest) hlane hfull)
    · have hok := hbody.trans (putAwayTo_ok (s := s.unqueued rest) hlane hc hlow)
      rw [newNumber_unqueued] at hok
      rw [exec_putAway, serve_ok hserves hlen hok]

/-! ## RELOCATE -/

/-- The fields of a RELOCATE. -/
theorem relocate_fields (l : LaneNo) {ref : List Byte} (dest : Byte) (hlen : ref.length = 6) :
    fin? 32 (byteAt (byteOf l.val :: (ref ++ [dest])) 0) = some l ∧
      ((byteOf l.val :: (ref ++ [dest])).drop 1).take 6 = ref ∧
      byteAt (byteOf l.val :: (ref ++ [dest])) 7 = dest.toNat := by
  obtain ⟨-, href, hbyte⟩ := putAway_fields dest hlen
  exact ⟨by rw [byteAt_zero, fin?_byteOf l (by decide)], href, by rw [byteAt_succ, hbyte]⟩

theorem optRollRef?_none : optRollRef? [0xFF, 0, 0, 0, 0, 0] = some none := by
  have hfirst : byteAt [0xFF, 0, 0, 0, 0, 0] 0 = 255 := byteAt_zero 0xFF _
  have hzero : num [0xFF, 0, 0, 0, 0, 0] 1 5 = 0 := by decide
  rw [optRollRef?, if_pos hfirst, if_pos hzero]

theorem optRollRef?_slot {j : Nat} (hj : j < 1024) : optRollRef? (1 :: beBytes 5 j) = some (some (.bySlot j)) := by
  have href := rollRef?_slot hj []
  rw [List.append_nil] at href
  have hfirst : ¬ byteAt (1 :: beBytes 5 j) 0 = 255 := by rw [byteAt_zero]; decide
  rw [optRollRef?, if_neg hfirst, href]
  rfl

theorem optRollRef?_tag {t : Nat} (h1 : 1 ≤ t) (hmax : t ≤ 9999999999) :
    optRollRef? (0 :: beBytes 5 t) = some (some (.byTag t)) := by
  have href := rollRef?_tag h1 hmax []
  rw [List.append_nil] at href
  have hfirst : ¬ byteAt (0 :: beBytes 5 t) 0 = 255 := by rw [byteAt_zero]; decide
  rw [optRollRef?, if_neg hfirst, href]
  rfl

/-- R19: an optional reference that names a roll. -/
theorem optRollRef?_names {s : State} {ref : List Byte} {j : Nat} {q : Roll} (h : s.Names ref j q) :
    ∃ x, optRollRef? ref = some (some x) ∧ s.resolve x = some (j, q) := by
  obtain ⟨x, href, hres⟩ := names_resolve h
  refine ⟨x, ?_, hres⟩
  have hfirst : ¬ byteAt ref 0 = 255 := by
    obtain ⟨-, ⟨rfl, -⟩ | ⟨rfl, -⟩⟩ := h <;> rw [byteAt_zero] <;> decide
  rw [optRollRef?, if_neg hfirst, href]
  rfl

theorem relocate_eq {s : State} {l : LaneNo} {ref : List Byte} {dest : Byte} {x : Option RollRef}
    {named : Option LaneNo} (hlen : ref.length = 6) (href : optRollRef? ref = some x)
    (hdest : destination? dest.toNat = some named) :
    relocate (byteOf l.val :: (ref ++ [dest])) s =
      if x.map s.resolve = some none then .refuse .notFound else s.relocateFront l x named := by
  obtain ⟨hl, href', hbyte⟩ := relocate_fields l dest hlen
  simp only [relocate, hl, href', hbyte, href, hdest]

/-- R58: RELOCATE of an unclaimed lane front (`relocateFront_eq`). -/
def State.relocateTo (s : State) (l : LaneNo) (named : Option LaneNo) (k : RollSlot) (r : Roll) : Reply :=
  match s.destinationLane named r.kind (some l) with
  | .error e => .refuse e
  | .ok dest =>
    match s.freeOrderSlot with
    | none => .refuse .full
    | some slot =>
      .ok (s.createOrder slot .relocate .request k r (.lane l) (.lane dest)).pair
        (beBytes 2 s.newNumber ++ byteOf slot :: (beBytes 2 k ++ beBytes 5 r.tag ++ [byteOf dest]))

theorem relocateTo_refused {s : State} {l : LaneNo} {named : Option LaneNo} {k : RollSlot} {r : Roll} {e : Result}
    (h : s.destinationLane named r.kind (some l) = .error e) : s.relocateTo l named k r = .refuse e := by
  rw [State.relocateTo, h]

theorem relocateTo_full {s : State} {l : LaneNo} {named : Option LaneNo} {k : RollSlot} {r : Roll} {m : LaneNo}
    (h : s.destinationLane named r.kind (some l) = .ok m) (hfull : ∀ c : OrderSlot, s.orders[c] ≠ none) :
    s.relocateTo l named k r = .refuse .full := by
  rw [State.relocateTo, h, freeOrderSlot_eq_none.2 hfull]

theorem relocateTo_ok {s : State} {l : LaneNo} {named : Option LaneNo} {k : RollSlot} {r : Roll} {m : LaneNo}
    {c : OrderSlot} (h : s.destinationLane named r.kind (some l) = .ok m) (hc : s.orders[c] = none)
    (hlow : ∀ b, b < c → s.orders[b] ≠ none) : s.relocateTo l named k r =
      .ok (s.createOrder c .relocate .request k r (.lane l) (.lane m)).pair
        (beBytes 2 s.newNumber ++ byteOf c :: (beBytes 2 k ++ beBytes 5 r.tag ++ [byteOf m])) := by
  rw [State.relocateTo, h, freeOrderSlot_eq_some hc hlow]

/-- R57: the reference is absent, or names the front. -/
theorem relocateFront_eq {s : State} {l : LaneNo} {x : Option RollRef} {named : Option LaneNo} {k : Nat} {r : Roll}
    (hfront : s.lanes[l].contents.head? = some k) (hr : s.roll? k = some r)
    (hx : x = none ∨ ∃ y, x = some y ∧ s.resolve y = some (k, r)) :
    s.relocateFront l x named = if r.claim.isSome then .refuse .wrongState else s.relocateTo l named k r := by
  obtain ⟨tail, hcont⟩ := List.head?_eq_some_iff.1 hfront
  have href : s.referenceRefusal x k = none := by
    obtain rfl | ⟨y, rfl, hy⟩ := hx
    · rfl
    · simp only [State.referenceRefusal, hy, if_true]
  unfold State.relocateFront
  rw [hcont]
  dsimp only
  rw [href, hr]
  dsimp only
  rw [State.relocateTo]
  cases s.destinationLane named r.kind (some l) with
  | error e => rfl
  | ok dest => cases s.freeOrderSlot <;> simp only [List.append_assoc, List.cons_append]

theorem relocateFront_empty {s : State} {l : LaneNo} {x : Option RollRef} {named : Option LaneNo}
    (h : s.lanes[l].contents = []) : s.relocateFront l x named = .refuse .notFound := by
  simp only [State.relocateFront, h]

theorem relocateFront_other {s : State} {l : LaneNo} {x : RollRef} {named : Option LaneNo} {k j : Nat} {q : Roll}
    (hfront : s.lanes[l].contents.head? = some k) (hx : s.resolve x = some (j, q)) (hne : j ≠ k) :
    s.relocateFront l (some x) named = .refuse .wrongState := by
  obtain ⟨tail, hcont⟩ := List.head?_eq_some_iff.1 hfront
  simp only [State.relocateFront, hcont, State.referenceRefusal, hx, if_neg hne]

/-- R57: the reference of a RELOCATE, absent or to a live roll. -/
theorem optRollRef?_live {s : State} {ref : List Byte}
    (h : ref = [0xFF, 0, 0, 0, 0, 0] ∨ ∃ (j : Nat) (q : Roll), s.Names ref j q) :
    ref.length = 6 ∧ ∃ x, optRollRef? ref = some x ∧ x.map s.resolve ≠ some none := by
  obtain rfl | ⟨j, q, hnames⟩ := h
  · refine ⟨rfl, none, optRollRef?_none, ?_⟩
    rw [Option.map_none]
    exact nofun
  · obtain ⟨x, hx, hres⟩ := optRollRef?_names hnames
    refine ⟨names_length hnames, some x, hx, fun hnone => ?_⟩
    have hnone : s.resolve x = none := Option.some.inj hnone
    rw [hres] at hnone
    contradiction

/-- R58: RELOCATE of the front, once its destination is read. -/
theorem relocate_front {s : State} {l : LaneNo} {ref : List Byte} {dest : Byte} {named : Option LaneNo} {k : Nat}
    {r : Roll} (href : ref = [0xFF, 0, 0, 0, 0, 0] ∨ s.Names ref k r) (hdest : destination? dest.toNat = some named)
    (hfront : s.lanes[l].contents.head? = some k) (hr : s.roll? k = some r) :
    ref.length = 6 ∧ relocate (byteOf l.val :: (ref ++ [dest])) s =
      if r.claim.isSome then .refuse .wrongState else s.relocateTo l named k r := by
  obtain ⟨hlen, x, hx, hlive⟩ := optRollRef?_live (href.imp_right fun h => ⟨k, r, h⟩)
  refine ⟨hlen, ?_⟩
  rw [relocate_eq hlen hx hdest, if_neg hlive]
  refine relocateFront_eq hfront hr ?_
  obtain rfl | hnames := href
  · exact .inl (Option.some.inj (optRollRef?_none.symm.trans hx)).symm
  · obtain ⟨y, hy, hres⟩ := optRollRef?_names hnames
    exact .inr ⟨y, Option.some.inj (hx.symm.trans hy), hres⟩

/-! ## REMOVE -/

theorem remove_eq {s : State} {ref : List Byte} {k : Nat} {r : Roll} (hnames : s.Names ref k r) :
    remove ref s = if r.claim.isSome then .refuse .wrongState else
      (s.removeSource k r).elim (.refuse .wrongState) fun source =>
        s.freeOrderSlot.elim (.refuse .full) fun slot =>
          .ok (s.createOrder slot .remove .request k r source .exitBay).pair
            (beBytes 2 s.newNumber ++ [byteOf slot]) := by
  rw [remove, withRoll_names hnames]
  cases s.removeSource k r with
  | none => rfl
  | some source => cases s.freeOrderSlot <;> rfl

/-- R62, R67: where REMOVE takes a roll from. -/
theorem removeSource_eq {s : State} {k : Nat} {r : Roll} {source : Place}
    (h : (r.state = .docked ∧ source = .dock) ∨
      (∃ l : LaneNo, r.state = .stored ∧ r.location = .lane l ∧ s.lanes[l].contents.head? = some k ∧
        source = .lane l) ∨
      (∃ (n : StandNo) (a : Arm), r.state = .stub ∧ r.location = .arm n a ∧ source = .arm n a) ∨
      (∃ (n : StandNo) (a : Arm), r.state = .standby ∧ r.location = .arm n a ∧
        (s.stands[n].arm a).status = .mismatch ∧ source = .arm n a) ∨
      ∃ v : VehicleNo, r.state = .carried ∧ r.location = .vehicle v ∧ s.vehicles[v].state = .idle ∧
        s.vehicles[v].order = none ∧ source = .vehicle v) : s.removeSource k r = some source := by
  obtain ⟨hst, rfl⟩ | ⟨l, hst, hloc, hfront, rfl⟩ | ⟨n, a, hst, hloc, rfl⟩ | ⟨n, a, hst, hloc, hmis, rfl⟩ |
    ⟨v, hst, hloc, hidle⟩ := h
  · simp only [State.removeSource, hst]
    exact looseSource_eq (.inl ⟨hst, rfl⟩)
  · simp only [State.removeSource, hst, hloc, hfront, if_true]
  · simp only [State.removeSource, hst, hloc]
  · have hne : ¬ (s.stands[n].arm a).status = .ready := by rw [hmis]; exact nofun
    simp only [State.removeSource, hst, hloc, if_neg hne]
  · simp only [State.removeSource, hst]
    exact looseSource_eq (.inr ⟨v, hst, hloc, hidle⟩)

/-- R67: what REMOVE takes from nowhere. -/
theorem removeSource_eq_none {s : State} {k : Nat} {r : Roll}
    (h : r.state = .running ∨
      (∃ (n : StandNo) (a : Arm), r.state = .standby ∧ r.location = .arm n a ∧
        (s.stands[n].arm a).status = .ready) ∨
      (∃ l : LaneNo, r.state = .stored ∧ r.location = .lane l ∧ s.lanes[l].contents.head? ≠ some k) ∨
      (∃ v : VehicleNo, r.state = .carried ∧ r.location = .vehicle v ∧
        (s.vehicles[v].state ≠ .idle ∨ s.vehicles[v].order ≠ none))) : s.removeSource k r = none := by
  obtain hst | ⟨n, a, hst, hloc, hready⟩ | ⟨l, hst, hloc, hfront⟩ | ⟨v, hst, hloc, hbusy⟩ := h
  · simp only [State.removeSource, hst, State.looseSource]
  · simp only [State.removeSource, hst, hloc, hready, if_true]
  · simp only [State.removeSource, hst, hloc, if_neg hfront]
  · have hno : ¬ (s.vehicles[v].state = .idle ∧ s.vehicles[v].order = none) := by tauto
    simp only [State.removeSource, hst, State.looseSource, hloc, if_neg hno]

/-- Settles O31: RELOCATE by its reference and its destination, REMOVE by the roll's place. -/
theorem relocateAndRemoveCreateOrders : Obligations.RelocateAndRemoveCreateOrders := by
  constructor
  · intro s tag dest rest l ref hserves refused
    have hlength (hlen : ref.length = 6) : (byteOf l.val :: (ref ++ [dest])).length = 8 := by simp [hlen]
    have hrefused (hlen : ref.length = 6) {e : Result}
        (hbody : relocate (byteOf l.val :: (ref ++ [dest])) (s.unqueued rest) = .refuse e) :
        exec .relocate s = .next (refused e) := by
      rw [exec_relocate, serve_refused hserves (hlength hlen) hbody]
    refine ⟨fun hbad hne => ?_, fun hgood => ?_⟩
    · by_cases hlen : ref.length = 6
      · obtain ⟨hl, -, hbyte⟩ := relocate_fields l dest hlen
        refine hrefused hlen ?_
        simp only [relocate, hl, hbyte, destination?_eq_none hbad hne]
        cases optRollRef? (((byteOf l.val :: (ref ++ [dest])).drop 1).take 6) <;> rfl
      · have hshort : (byteOf l.val :: (ref ++ [dest])).length ≠ 8 := by simpa using hlen
        rw [exec_relocate, serve_length hserves hshort]
    · obtain ⟨named, hdest⟩ := destination?_isSome hgood
      have hgone {x : RollRef} (hlen : ref.length = 6) (href : optRollRef? ref = some (some x))
          (hres : s.resolve x = none) : exec .relocate s = .next (refused .notFound) := by
        refine hrefused hlen ?_
        rw [relocate_eq hlen href hdest]
        exact if_pos (congrArg some hres)
      refine ⟨?_, ?_, fun href hempty => ?_, fun k r hfront hr => ?_⟩
      · rintro j rfl hj hfree
        refine hgone rfl (optRollRef?_slot hj) ?_
        rw [State.resolve, hfree]
        rfl
      · rintro t rfl h1 hmax hnone
        refine hgone rfl (optRollRef?_tag h1 hmax) ?_
        rw [State.resolve, (findTag_eq_none_iff t s.rolls).2 hnone]
        rfl
      · obtain ⟨hlen, x, hx, hlive⟩ := optRollRef?_live (s := s.unqueued rest) href
        refine hrefused hlen ?_
        rw [relocate_eq hlen hx hdest, if_neg hlive]
        exact relocateFront_empty (s := s.unqueued rest) hempty
      · intro fits chosen
        refine ⟨fun j q hnames hne => ?_, fun href => ?_⟩
        · obtain ⟨hlen, -⟩ := optRollRef?_live (s := s.unqueued rest) (.inr ⟨j, q, hnames⟩)
          obtain ⟨x, hx, hres⟩ := optRollRef?_names (s := s.unqueued rest) hnames
          have hlive : Option.map (s.unqueued rest).resolve (some x) ≠ some none := by
            rw [Option.map_some, hres]
            exact nofun
          refine hrefused hlen ?_
          rw [relocate_eq hlen hx hdest, if_neg hlive]
          exact relocateFront_other (s := s.unqueued rest) hfront hres hne
        · have hbody {named : Option LaneNo} := relocate_front (s := s.unqueued rest) (named := named) href
            (dest := dest) (hfront := hfront) (hr := hr)
          refine ⟨fun hclaim => ?_, fun hclaim => ⟨fun m hm => ?_, fun hchoose hnone => ?_, fun m hm => ?_⟩⟩
          · obtain ⟨hlen, hrel⟩ := hbody hdest
            exact hrefused hlen (hrel.trans (if_pos (Option.isSome_iff_ne_none.2 hclaim)))
          · subst hm
            obtain ⟨hlen, hrel⟩ := hbody (destination?_lane m)
            rw [if_neg (by simp [hclaim])] at hrel
            have hsource (hne : m ≠ l) : some l ≠ some m := fun h => hne (Option.some.inj h).symm
            refine ⟨fun hbad => hrefused hlen (hrel.trans (relocateTo_refused ?_)), fun hne he =>
              ⟨fun hfits => hrefused hlen (hrel.trans (relocateTo_refused ?_)),
                fun hfits hfull => hrefused hlen (hrel.trans (relocateTo_refused ?_))⟩⟩
            · exact destinationLane_badField (s := s.unqueued rest)
                (hbad.elim (fun heq => .inr (congrArg some heq.symm)) .inl)
            · exact destinationLane_wrongState (s := s.unqueued rest) he (hsource hne) hfits
            · exact destinationLane_storeFull (s := s.unqueued rest) he (hsource hne) hfits hfull
          · subst hchoose
            obtain ⟨hlen, hrel⟩ := hbody destination?_choose
            rw [if_neg (by simp [hclaim])] at hrel
            exact hrefused hlen (hrel.trans (relocateTo_refused (destinationLane_none (s := s.unqueued rest) hnone)))
          · have hchosen : ∃ named, destination? dest.toNat = some named ∧
                (s.unqueued rest).destinationLane named r.kind (some l) = .ok m :=
              destination_chosen (s := s.unqueued rest) (hm.imp_left fun ⟨hd, hne, he⟩ =>
                ⟨hd, fun h => hne (Option.some.inj h).symm, he⟩)
            obtain ⟨named, hdest, hlane⟩ := hchosen
            obtain ⟨hlen, hrel⟩ := hbody hdest
            rw [if_neg (by simp [hclaim])] at hrel
            refine ⟨fun hfull => hrefused hlen (hrel.trans (relocateTo_full (s := s.unqueued rest) hlane hfull)),
              fun c hc hlow => ?_⟩
            have hok := hrel.trans (relocateTo_ok (s := s.unqueued rest) hlane hc hlow)
            rw [newNumber_unqueued] at hok
            rw [exec_relocate, serve_ok hserves (hlength hlen) hok]
  · intro s tag rest ref k r source hserves hnames
    have hlen := names_length hnames
    have hbody := remove_eq (s := s.unqueued rest) hnames
    refine ⟨fun hclaim hplace => ?_, fun hbad => ?_⟩
    · have hsource : (s.unqueued rest).removeSource k r = some source := removeSource_eq (s := s.unqueued rest) hplace
      rw [if_neg (by simp [hclaim]), hsource] at hbody
      refine ⟨fun hfull => ?_, fun c hc hlow => ?_⟩
      · rw [freeOrderSlot_eq_none (s := s.unqueued rest).2 hfull] at hbody
        rw [exec_remove, serve_refused hserves hlen hbody]
      · rw [freeOrderSlot_eq_some (s := s.unqueued rest) hc hlow, newNumber_unqueued] at hbody
        rw [exec_remove, serve_ok hserves hlen hbody]
    · rw [exec_remove, serve_refused hserves hlen]
      rw [hbody]
      by_cases hclaim : r.claim = none
      · rw [if_neg (by simp [hclaim]),
          removeSource_eq_none (s := s.unqueued rest) (hbad.resolve_left (not_not.2 hclaim))]
        rfl
      · exact if_pos (Option.isSome_iff_ne_none.2 hclaim)

end Sys2Proof.Machine

/-! PROOF. What an order's end releases, CANCEL ORDER and ABANDON ORDER, pairing, and the feed demand list (R65 to R70, R77, R78, R82 to R84, R99). -/

namespace Sys2Proof.Machine

/-! ## What an ended order releases -/

theorem release_lane {s : State} {l : LaneNo} (h : 1 ≤ s.lanes[l].reservations) :
    s.release (.lane l) = s.modLane l fun x =>
      { x with
        reservations := x.reservations - 1
        binding := if x.contents = [] ∧ x.reservations = 1 then none else x.binding } := by
  have hlast : s.lanes[l].reservations - 1 = 0 ↔ s.lanes[l].reservations = 1 := by omega
  simp only [State.release, State.modLane, Lane.unbindIfEmpty_eq, hlast]

theorem endWait_of_none {s : State} {v : VehicleNo} (h : s.vehicles[v].waiting = none) :
    s.endWait v = { s with vehicles := s.vehicles.set v { s.vehicles[v] with waiting := none } } := by
  simp only [State.endWait, h, State.modVehicle]

theorem endWait_of_tenure {s : State} {v : VehicleNo} {g : AisleNo} (h : s.vehicles[v].waiting = some (.tenure g)) :
    s.endWait v = { s with
      vehicles := s.vehicles.set v { s.vehicles[v] with waiting := none }
      aisles := s.aisles.set g { s.aisles[g] with waiting := s.aisles[g].waiting.filter fun w => w ≠ v } } := by
  simp only [State.endWait, h, State.modVehicle, State.modAisle]

theorem endWait_of_arm {s : State} {v : VehicleNo} {n : StandNo} {a : Arm}
    (h : s.vehicles[v].waiting = some (.armBusy n a)) :
    s.endWait v = { s with vehicles := s.vehicles.set v { s.vehicles[v] with waiting := none } } := by
  simp only [State.endWait, h, State.modVehicle]

theorem endWait_vehicles (s : State) (v : VehicleNo) :
    (s.endWait v).vehicles = s.vehicles.set v { s.vehicles[v] with waiting := none } := by
  rcases hw : s.vehicles[v].waiting with _ | ⟨g⟩ | ⟨n, a⟩
  · rw [endWait_of_none hw]
  · rw [endWait_of_tenure hw]
  · rw [endWait_of_arm hw]

/-- R99: a vehicle that is not FAULTED stands down. -/
theorem standDown_eq {s : State} {v : VehicleNo} (number : Nat) (h : s.vehicles[v].state ≠ .faulted) :
    s.standDown v number = { s.endWait v with
      outbound := s.outbound ++ [⟨v, .standDown number⟩]
      vehicles := s.vehicles.set v { s.vehicles[v] with state := .idle, order := none, waiting := none }
      idle := if s.vehicles[v].roll = none then s.idle ++ [v] else s.idle } := by
  have hwait : (s.instruct v (.standDown number)).endWait v =
      { s.endWait v with outbound := s.outbound ++ [⟨v, .standDown number⟩] } := by
    rcases hw : s.vehicles[v].waiting with _ | ⟨g⟩ | ⟨n, a⟩
    · rw [endWait_of_none hw, endWait_of_none (s := s.instruct v _) hw]
      rfl
    · rw [endWait_of_tenure hw, endWait_of_tenure (s := s.instruct v _) hw]
      rfl
    · rw [endWait_of_arm hw, endWait_of_arm (s := s.instruct v _) hw]
      rfl
  generalize hu : (s.instruct v (.standDown number)).endWait v = u at hwait
  have hvehicles : u.vehicles = s.vehicles.set v { s.vehicles[v] with waiting := none } := by
    rw [hwait]
    exact endWait_vehicles s v
  have hself : u.vehicles[v] = { s.vehicles[v] with waiting := none } := by
    rw [hvehicles, getElem_set_fin, if_pos rfl]
  have hmod : (u.modVehicle v fun x => { x with order := none, state := .idle }) = { u with
      vehicles := s.vehicles.set v { s.vehicles[v] with state := .idle, order := none, waiting := none } } := by
    rw [State.modVehicle, hself, hvehicles, Vector.set_set]
  have hidle : u.idle = s.idle := by rw [hwait, s.endWait_changes v]
  unfold State.standDown
  dsimp only
  rw [hu, hself, if_neg h, hmod]
  dsimp only
  rw [getElem_set_fin, if_pos rfl, State.enterIdle]
  dsimp only
  by_cases hroll : s.vehicles[v].roll = none
  · rw [if_pos hroll, if_pos (Option.isNone_iff_eq_none.2 hroll), hidle, hwait]
  · rw [if_neg hroll, if_neg (fun hnone => hroll (Option.isNone_iff_eq_none.1 hnone)), ← hidle, hwait]

/-- Settles O36: `release_lane`, and `standDown_eq` with the end of each wait. -/
theorem endedOrderReleasesPlaceAndVehicle : Obligations.EndedOrderReleasesPlaceAndVehicle := by
  refine fun s => ⟨fun l => release_lane, fun n a => rfl, rfl, fun v number g hstate hwait => ?_⟩
  rw [standDown_eq number hstate]
  obtain hw | hw := hwait
  · rw [endWait_of_none hw, if_pos hw]
  · have hwaits : ¬ s.vehicles[v].waiting = none := by rw [hw]; exact nofun
    rw [endWait_of_tenure hw, if_neg hwaits]

/-! ## CANCEL ORDER and ABANDON ORDER -/

theorem exec_cancelOrder (s : State) : exec .cancelOrder s = .next (s.serve .cancelOrder cancelOrder) := rfl
theorem exec_abandonOrder (s : State) : exec .abandonOrder s = .next (s.serve .abandonOrder abandonOrder) := rfl

theorem withOrder_zero (s : State) (body : OrderSlot → Order → Reply) : s.withOrder 0 body = .refuse .badField :=
  if_pos rfl

theorem withOrder_unknown {s : State} {number : Nat} (h1 : 1 ≤ number)
    (h : ∀ (b : OrderSlot) (x : Order), s.orders[b] = some x → x.number ≠ number)
    (body : OrderSlot → Order → Reply) : s.withOrder number body = .refuse .notFound := by
  rw [State.withOrder, if_neg (by omega), orderNumbered_eq_none.2 h]

/-- R77, R78: the one order with a number. -/
theorem withOrder_eq {s : State} {number : Nat} {c : OrderSlot} {o : Order} (h1 : 1 ≤ number)
    (ho : s.orders[c] = some o) (hnum : o.number = number)
    (hone : ∀ (b : OrderSlot) (x : Order), s.orders[b] = some x → x.number = number → b = c)
    (body : OrderSlot → Order → Reply) : s.withOrder number body = body c o := by
  have hslot : s.orderNumbered number = some c := by
    cases hfound : s.orderNumbered number with
    | none => exact absurd hnum (orderNumbered_eq_none.1 hfound c o ho)
    | some b =>
      obtain ⟨x, hx, hxnum⟩ := orderNumbered_eq_some hfound
      rw [hone b x hx hxnum]
  rw [State.withOrder, if_neg (by omega), hslot]
  dsimp only
  rw [ho]

theorem endOrder_of_none {s : State} {k : OrderSlot} {o : Order} (h : o.vehicle = none) :
    s.endOrder k o = ((((s.unclaim o.roll).release o.dest).leaveQueue k).setOrder k none).examine.pair := by
  rw [State.endOrder, State.withdraw, State.dismiss, h]

theorem endOrder_of_vehicle {s : State} {k : OrderSlot} {o : Order} {v : VehicleNo} (h : o.vehicle = some v) :
    s.endOrder k o =
      (((((s.unclaim o.roll).release o.dest).leaveQueue k).standDown v o.number).setOrder k none).examine.pair := by
  rw [State.endOrder, State.withdraw, State.dismiss, h]

/-- Settles O35: the order its number names (`withOrder_eq`), and what its end does (`endOrder_of_vehicle`). -/
theorem cancelAndAbandonFreeTheSlot : Obligations.CancelAndAbandonFreeTheSlot := by
  intro s tag rest number hmax
  have hnum : num (beBytes 2 number) 0 2 = number := num_whole (by omega)
  have hcancel (u : State) : cancelOrder (beBytes 2 number) u = u.withOrder number fun k o =>
      if o.state = .waiting ∨ o.state = .assigned ∨ o.state = .loading then
        .ok (u.endOrder k o) (beBytes 2 o.number ++ [byteOf k, o.state.code])
      else .refuse .wrongState := by rw [cancelOrder, hnum]
  have habandon (u : State) : abandonOrder (beBytes 2 number) u = u.withOrder number fun k o =>
      if o.state = .laden ∨ o.state = .unloading then
        .ok (u.endOrder k o) (beBytes 2 o.number ++ byteOf k :: beBytes 2 o.roll ++ beBytes 5 o.rollTag)
      else .refuse .wrongState := by rw [abandonOrder, hnum]
  have hlen : (beBytes 2 number).length = 2 := beBytes_length 2 number
  refine ⟨fun c o ho hnumber h1 hone => ?_, fun hserves => ⟨fun h0 => ?_, fun h1 hnone => ?_⟩,
    fun hserves => ⟨fun h0 => ?_, fun h1 hnone => ?_⟩⟩
  · intro t freed
    have hname := withOrder_eq (s := s.unqueued rest) h1 ho hnumber hone
    refine ⟨fun hserves hstate => ⟨fun hv => ?_, fun v hv => ?_⟩, fun hserves hstate v hv => ?_,
      fun hserves hstate => ?_, fun hserves hladen hunloading => ?_⟩
    · have hbody := (hcancel (s.unqueued rest)).trans ((hname _).trans (if_pos hstate))
      rw [endOrder_of_none hv, hnumber] at hbody
      rw [exec_cancelOrder, serve_ok hserves hlen hbody]
    · have hbody := (hcancel (s.unqueued rest)).trans ((hname _).trans (if_pos hstate))
      rw [endOrder_of_vehicle hv, hnumber] at hbody
      rw [exec_cancelOrder, serve_ok hserves hlen hbody]
    · have hbody := (habandon (s.unqueued rest)).trans ((hname _).trans (if_pos hstate))
      rw [endOrder_of_vehicle hv, hnumber] at hbody
      rw [exec_abandonOrder, serve_ok hserves hlen hbody]
      simp only [List.append_assoc, List.cons_append]
      rfl
    · have hno : ¬ (o.state = .waiting ∨ o.state = .assigned ∨ o.state = .loading) := by
        obtain hs | hs | hs | hs := hstate <;> rw [hs] <;> decide
      have hbody := (hcancel (s.unqueued rest)).trans ((hname _).trans (if_neg hno))
      rw [exec_cancelOrder, serve_refused hserves hlen hbody]
    · have hbody := (habandon (s.unqueued rest)).trans ((hname _).trans (if_neg (not_or.2 ⟨hladen, hunloading⟩)))
      rw [exec_abandonOrder, serve_refused hserves hlen hbody]
  · subst h0
    rw [exec_cancelOrder, serve_refused hserves hlen ((hcancel _).trans (withOrder_zero _ _))]
  · rw [exec_cancelOrder, serve_refused hserves hlen
      ((hcancel _).trans (withOrder_unknown (s := s.unqueued rest) h1 hnone _))]
  · subst h0
    rw [exec_abandonOrder, serve_refused hserves hlen ((habandon _).trans (withOrder_zero _ _))]
  · rw [exec_abandonOrder, serve_refused hserves hlen
      ((habandon _).trans (withOrder_unknown (s := s.unqueued rest) h1 hnone _))]

/-! ## Pairing -/

theorem outboundFree_pos {s : State} : 0 < s.outboundFree ↔ s.outbound.length < 32 :=
  Nat.sub_pos_iff_lt

/-- R70: what a pairing joins. -/
theorem pairOne_eq {s : State} {k : OrderSlot} {tail : List OrderSlot} {o : Order} {v : VehicleNo}
    (hw : s.waiting = k :: tail) (ho : s.orders[k] = some o) (hv : s.pairingVehicle o = some v)
    (hroom : s.outbound.length < 32) : s.pairOne = some (s.join k o v) := by
  unfold State.pairOne
  rw [hw]
  dsimp only
  rw [ho]
  dsimp only
  rw [hv]
  exact if_pos (outboundFree_pos.2 hroom)

theorem pairOne_eq_some {s t : State} (h : s.pairOne = some t) :
    ∃ k tail o v, s.waiting = k :: tail ∧ s.orders[k] = some o ∧ s.pairingVehicle o = some v ∧ t = s.join k o v := by
  unfold State.pairOne at h
  split at h
  · contradiction
  · next k tail hw =>
    split at h
    · contradiction
    · next o ho =>
      split at h
      · contradiction
      · next v hv =>
        split at h
        · exact ⟨k, tail, o, v, hw, ho, hv, (Option.some.inj h).symm⟩
        · contradiction

/-- R70: a pairing that does not take place lacks an order, a vehicle or a place. -/
theorem pairOne_eq_none {s : State} (h : s.pairOne = none) (hlive : ∀ k ∈ s.waiting, s.orders[k] ≠ none) :
    s.waiting = [] ∨ s.idle = [] ∨ 32 ≤ s.outbound.length := by
  unfold State.pairOne at h
  split at h
  · next hw => exact .inl hw
  · next k tail hw =>
    split at h
    · next ho => exact absurd ho (hlive k (by rw [hw]; exact List.mem_cons_self))
    · next o ho =>
      split at h
      · next hv =>
        have hhead : s.idle.head? = none := (Option.or_eq_none_iff.1 hv).2
        exact .inr (.inl (List.head?_eq_none_iff.1 hhead))
      · split at h
        · contradiction
        · next hfull => exact .inr (.inr (not_lt.1 (mt outboundFree_pos.2 hfull)))

/-- R70: what a pairing changes. -/
theorem join_eq (s : State) (k : OrderSlot) (o : Order) (v : VehicleNo) : s.join k o v = { s with
    waiting := s.waiting.filter (· ≠ k)
    idle := s.idle.filter (· ≠ v)
    orders := s.orders.set k (some { o with
      state := .assigned, vehicle := some v, deadline := loadCounter s.working.fleet.orderLimit })
    vehicles := s.vehicles.set v { s.vehicles[v] with state := .outbound, order := some k }
    outbound := s.outbound ++ [⟨v, .go o.number o.rollTag o.source.goSource o.dest⟩] } := by
  simp only [State.join, State.leaveQueue, State.leaveIdle, State.setOrder, State.modVehicle, State.instruct]

theorem join_waiting (s : State) (k : OrderSlot) (o : Order) (v : VehicleNo) :
    (s.join k o v).waiting = s.waiting.filter fun c => c ≠ k := by rw [join_eq]

theorem join_orders (s : State) (k : OrderSlot) (o : Order) (v : VehicleNo) :
    (s.join k o v).orders = s.orders.set k (some { o with
      state := .assigned, vehicle := some v, deadline := loadCounter s.working.fleet.orderLimit }) := by rw [join_eq]

theorem pairUpTo_ends (fuel : Nat) (s : State) (hfuel : s.waiting.length ≤ fuel)
    (hlive : ∀ k ∈ s.waiting, s.orders[k] ≠ none) :
    (pairUpTo fuel s).waiting = [] ∨ (pairUpTo fuel s).idle = [] ∨ 32 ≤ (pairUpTo fuel s).outbound.length := by
  induction fuel generalizing s with
  | zero => exact .inl (List.eq_nil_of_length_eq_zero (Nat.le_zero.1 hfuel))
  | succ fuel ih =>
    unfold pairUpTo
    cases hone : s.pairOne with
    | none => exact pairOne_eq_none hone hlive
    | some t =>
      obtain ⟨k, tail, o, v, hw, -, -, rfl⟩ := pairOne_eq_some hone
      refine ih _ ?_ fun c hc => ?_
      · rw [join_waiting, hw, List.filter_cons_of_neg (by simp)]
        rw [hw] at hfuel
        exact (List.length_filter_le _ _).trans (Nat.le_of_succ_le_succ hfuel)
      · rw [join_waiting, List.mem_filter] at hc
        rw [join_orders, getElem_set_fin]
        split
        · exact nofun
        · exact hlive c hc.1

/-- R70: the vehicle a pairing takes. -/
theorem pairingVehicle_eq {s : State} {o : Order} {v : VehicleNo} (hidle : v ∈ s.idle)
    (h : (∃ l : LaneNo, o.source = .lane l ∧ s.aisles[s.working.lanes[l].aisle].mode = .parked ∧
        s.aisles[s.working.lanes[l].aisle].holder = some v) ∨
      (s.idle.head? = some v ∧ ∀ l : LaneNo, o.source = .lane l →
        s.aisles[s.working.lanes[l].aisle].mode ≠ .parked ∨
        ∀ w ∈ s.idle, s.aisles[s.working.lanes[l].aisle].holder ≠ some w)) : s.pairingVehicle o = some v := by
  obtain ⟨l, hsource, hmode, hholder⟩ | ⟨hhead, hno⟩ := h
  · have hparked : s.parkedAtSource o = some v := by
      simp only [State.parkedAtSource, hsource, hmode, hholder, if_true]
      exact Option.filter_eq_some_iff.2 ⟨rfl, decide_eq_true hidle⟩
    rw [State.pairingVehicle, hparked]
    rfl
  · have hparked : s.parkedAtSource o = none := by
      unfold State.parkedAtSource
      split
      · next l hsource =>
        dsimp only
        split
        · next hmode =>
          refine Option.filter_eq_none_iff.2 fun w hw => ?_
          have hout := (hno l hsource).resolve_left (not_not.2 hmode) w
          exact fun hin => hout (of_decide_eq_true hin) hw
        · rfl
      · rfl
    rw [State.pairingVehicle, hparked]
    exact hhead

theorem Place.goSource_eq {p : Place} (h : ∀ w, p ≠ .vehicle w) : p.goSource = p := by
  cases p with
  | vehicle w => exact absurd rfl (h w)
  | _ => rfl

theorem loadCounter_eq (limit : Nat) : loadCounter limit = if limit = 0 then .none else .running limit := rfl

/-- Settles O34: `pairOne_eq` for the lone order, `pairUpTo_ends` for the end. -/
theorem pairingJoinsOrderToVehicle : Obligations.PairingJoinsOrderToVehicle := by
  refine ⟨fun s k o v hw ho hroom hidle hchoice hsource => ?_, fun s hlive => ?_⟩
  · have hone : s.pairOne = some (s.join k o v) := pairOne_eq hw ho (pairingVehicle_eq hidle hchoice) hroom
    have hpair : s.pair = s.join k o v := by
      rw [State.pair, hw]
      change pairUpTo 1 s = _
      rw [pairUpTo, hone]
      rfl
    have hqueue : s.waiting.filter (fun c => decide (c ≠ k)) = [] := by rw [hw]; simp
    change Host.Outcome.next s.pair = _
    rw [hpair, join_eq, Place.goSource_eq hsource, hqueue]
    simp only [loadCounter_eq]
  · refine ⟨s.pair, rfl, pairUpTo_ends _ s le_rfl hlive, ?_⟩
    rw [s.pair_changes]
    exact ⟨rfl, rfl, rfl, rfl, rfl, rfl, rfl, rfl⟩

end Sys2Proof.Machine

/-! PROOF. The feed demand list: what an examination serves, and FEED (R66, R82 to R84). -/

namespace Sys2Proof.Machine

/-! ## Serving one entry -/

/-- R84: the automatic FEED order of an entry, which leaves the list (`serveDemand_cases`). -/
def State.fed (s : State) (n : StandNo) (c : FeedChoice) (slot : OrderSlot) : State :=
  let t := s.createOrder slot .feed .automatic c.slot c.roll (.lane c.lane) (.arm n s.stands[n].feedArm)
  { t with demand := t.demand.filter (· ≠ n) }

/-- R84: an entry that can be served. -/
structure State.CanFeed (s : State) (n : StandNo) (c : FeedChoice) (slot : OrderSlot) : Prop where
  required : s.requirement n ≠ none
  available : s.feedArmAvailable n = true
  choice : s.feedChoice n = some c
  free : s.freeOrderSlot = some slot

/-- R84: an entry that cannot be served. -/
def State.Unserved (s : State) (n : StandNo) : Prop :=
  s.requirement n = none ∨ s.feedArmAvailable n = false ∨ s.feedChoice n = none ∨ s.freeOrderSlot = none

theorem serveDemand_cases (s : State) (n : StandNo) :
    (s.Unserved n ∧ s.serveDemand n = s) ∨ ∃ c slot, s.CanFeed n c slot ∧ s.serveDemand n = s.fed n c slot := by
  by_cases hready : (s.requirement n).isSome = true ∧ s.feedArmAvailable n = true
  · cases hc : s.feedChoice n with
    | none =>
      refine .inl ⟨.inr (.inr (.inl hc)), ?_⟩
      rw [State.serveDemand, if_pos hready, hc]
    | some c =>
      cases hs : s.freeOrderSlot with
      | none =>
        refine .inl ⟨.inr (.inr (.inr hs)), ?_⟩
        rw [State.serveDemand, if_pos hready, hc, hs]
      | some slot =>
        refine .inr ⟨c, slot, ⟨Option.isSome_iff_ne_none.1 hready.1, hready.2, hc, hs⟩, ?_⟩
        rw [State.serveDemand, if_pos hready, hc, hs]
        rfl
  · refine .inl ⟨?_, if_neg hready⟩
    obtain hreq | harm := not_and_or.1 hready
    · exact .inl (Option.not_isSome_iff_eq_none.1 hreq)
    · exact .inr (.inl (Bool.not_eq_true _ ▸ harm))

/-- What every service of an entry keeps, the examination of a list keeps. -/
theorem foldl_serveDemand_induction {P : State → Prop} (l : List StandNo) {s : State} (h0 : P s)
    (hstep : ∀ t n c slot, P t → t.CanFeed n c slot → P (t.fed n c slot)) : P (l.foldl State.serveDemand s) := by
  induction l generalizing s with
  | nil => exact h0
  | cons n l ih =>
    refine ih ?_
    obtain ⟨-, heq⟩ | ⟨c, slot, hcan, heq⟩ := serveDemand_cases s n
    · rwa [heq]
    · rw [heq]
      exact hstep s n c slot h0 hcan

theorem examine_induction {P : State → Prop} {s : State} (h0 : P s)
    (hstep : ∀ t n c slot, P t → t.CanFeed n c slot → P (t.fed n c slot)) : P s.examine :=
  foldl_serveDemand_induction s.demand h0 hstep

section
variable {s : State} {n m : StandNo} {c : FeedChoice} {slot : OrderSlot}

/-- R61, R64: the order of a served entry. -/
def State.fedOrder (s : State) (n : StandNo) (c : FeedChoice) : Order :=
  newOrder s.newNumber .feed .automatic c.slot c.roll.tag s.working.fleet.orderLimit (.lane c.lane)
    (.arm n s.stands[n].feedArm)

/-- What serving an entry changes. -/
theorem fed_eq (s : State) (n : StandNo) (c : FeedChoice) (slot : OrderSlot) :
    ∃ urgent : OrderSlot → Bool, s.fed n c slot = { s with
      rolls := tableModify s.rolls c.slot fun x => { x with claim := some slot }
      orders := s.orders.set slot (some (s.fedOrder n c))
      nextNumber := nextAfter s.newNumber
      waiting := s.waiting.takeWhile urgent ++ slot :: s.waiting.dropWhile urgent
      demand := s.demand.filter (· ≠ n)
      stands := (s.modArm n s.stands[n].feedArm fun r =>
        { r with reservation := some slot, status := if r.status = .empty then .reserved else r.status }).stands } := by
  have hurgent : OrderKind.feed.cls = .urgent := rfl
  simp only [State.fed, State.createOrder, State.setOrder, State.modRoll, State.reserve, State.modArm,
    State.modStand, State.enterQueue, hurgent, State.fedOrder]
  exact ⟨_, rfl⟩

theorem fed_orders : (s.fed n c slot).orders = s.orders.set slot (some (s.fedOrder n c)) := by
  obtain ⟨_, h⟩ := fed_eq s n c slot
  rw [h]

theorem fed_rolls : (s.fed n c slot).rolls = tableModify s.rolls c.slot fun x => { x with claim := some slot } := by
  obtain ⟨_, h⟩ := fed_eq s n c slot
  rw [h]

theorem fed_demand : (s.fed n c slot).demand = s.demand.filter (· ≠ n) := by
  obtain ⟨_, h⟩ := fed_eq s n c slot
  rw [h]

theorem fed_jobs : (s.fed n c slot).jobs = s.jobs := by
  obtain ⟨_, h⟩ := fed_eq s n c slot
  rw [h]

theorem fed_working : (s.fed n c slot).working = s.working := by
  obtain ⟨_, h⟩ := fed_eq s n c slot
  rw [h]

theorem fed_lanes : (s.fed n c slot).lanes = s.lanes := by
  obtain ⟨_, h⟩ := fed_eq s n c slot
  rw [h]

theorem fed_notices : (s.fed n c slot).notices = s.notices := by
  obtain ⟨_, h⟩ := fed_eq s n c slot
  rw [h]

theorem fed_outbound : (s.fed n c slot).outbound = s.outbound := by
  obtain ⟨_, h⟩ := fed_eq s n c slot
  rw [h]

theorem fed_requirement (m : StandNo) : (s.fed n c slot).requirement m = s.requirement m := by
  rw [State.requirement, State.requirement, State.activeSlot, State.activeSlot, fed_jobs]

theorem fed_waiting {b : OrderSlot} (h : b ∈ (s.fed n c slot).waiting) : b = slot ∨ b ∈ s.waiting := by
  obtain ⟨urgent, heq⟩ := fed_eq s n c slot
  rw [heq] at h
  obtain hb | hb := List.mem_append.1 h
  · exact .inr ((List.takeWhile_sublist urgent).subset hb)
  · exact (List.mem_cons.1 hb).imp id fun hb => (List.dropWhile_sublist urgent).subset hb

theorem fed_stands_other (h : m ≠ n) : (s.fed n c slot).stands[m] = s.stands[m] := by
  have hstands : (s.fed n c slot).stands = (s.modArm n s.stands[n].feedArm fun r =>
      { r with
        reservation := some slot
        status := if r.status = .empty then .reserved else r.status }).stands := by
    obtain ⟨_, heq⟩ := fed_eq s n c slot
    rw [heq]
  rw [hstands, State.modArm, State.modStand, getElem_set_fin, if_neg h]

theorem freeOrderSlot_none (h : s.freeOrderSlot = some slot) : s.orders[slot] = none :=
  Option.isNone_iff_eq_none.1 (find?_finRange_eq_some.1 h).1

theorem fed_order_same : (s.fed n c slot).orders[slot] = some (s.fedOrder n c) := by
  rw [fed_orders, getElem_set_fin, if_pos rfl]

theorem fed_order_other {b : OrderSlot} (h : b ≠ slot) : (s.fed n c slot).orders[b] = s.orders[b] := by
  rw [fed_orders, getElem_set_fin, if_neg h]

/-- An order of the table stays as it is when an entry is served. -/
theorem fed_order_of_some {b : OrderSlot} {o : Order} (h : s.CanFeed n c slot) (ho : s.orders[b] = some o) :
    (s.fed n c slot).orders[b] = some o := by
  have hne : b ≠ slot := by
    rintro rfl
    rw [freeOrderSlot_none h.free] at ho
    contradiction
  rw [fed_order_other hne, ho]

/-- The open FEED order of a stand, as a property (R65). -/
theorem openFeed_ne_none : s.openFeed n ≠ none ↔ ∃ (b : OrderSlot) (o : Order), s.orders[b] = some o ∧
    o.isOpen = true ∧ o.kind = .feed ∧ (o.dest = .arm n .A ∨ o.dest = .arm n .B) := by
  rw [State.openFeed, Ne, find?_finRange_eq_none]
  constructor
  · intro h
    obtain ⟨b, hb⟩ := not_forall.1 h
    cases ho : s.orders[b] with
    | none => rw [ho] at hb; exact absurd rfl hb
    | some o =>
      rw [ho] at hb
      simp only [Bool.not_eq_false, Bool.and_eq_true, decide_eq_true_eq] at hb
      obtain ⟨⟨hopen, hkind⟩, hdest⟩ := hb
      exact ⟨b, o, ho, hopen, hkind, hdest⟩
  · rintro ⟨b, o, ho, hopen, hkind, hdest⟩ h
    have hb := h b
    simp only [ho, hopen, hkind, hdest, decide_true, Bool.and_self, Bool.true_eq_false] at hb

theorem openFeed_fed (h : s.CanFeed n c slot) (hm : s.openFeed m ≠ none) : (s.fed n c slot).openFeed m ≠ none := by
  obtain ⟨b, o, ho, hopen⟩ := openFeed_ne_none.1 hm
  exact openFeed_ne_none.2 ⟨b, o, fed_order_of_some h ho, hopen⟩

theorem openFeed_fed_self : (s.fed n c slot).openFeed n ≠ none := by
  refine openFeed_ne_none.2 ⟨slot, _, fed_order_same, rfl, rfl, ?_⟩
  change Place.arm n s.stands[n].feedArm = _ ∨ Place.arm n s.stands[n].feedArm = _
  cases s.stands[n].feedArm with
  | A => exact .inl rfl
  | B => exact .inr rfl

theorem fed_roll? (k : RollSlot) : (s.fed n c slot).roll? k =
    if k = c.slot then (s.roll? k).map fun x => { x with claim := some slot } else s.roll? k := by
  rw [State.roll?, fed_rolls]
  split
  · next h =>
    subst h
    exact tableGet_tableModify_self _ _ _
  · next h => exact tableGet_tableModify_other _ _ h

theorem eligibleFront_fed {l : LaneNo} {k : RollSlot} {r : Roll}
    (h : (s.fed n c slot).eligibleFront m l = some (k, r)) : s.eligibleFront m l = some (k, r) := by
  rw [eligibleFront_iff, fed_working, fed_lanes, fed_requirement] at h
  rw [eligibleFront_iff]
  obtain ⟨hen, hfront, hr, hst, hhold, hdam, hclaim, hreq⟩ := h
  refine ⟨hen, hfront, ?_, hst, hhold, hdam, hclaim, hreq⟩
  rw [fed_roll?] at hr
  split at hr
  · obtain ⟨x, -, rfl⟩ := Option.map_eq_some_iff.1 hr
    contradiction
  · exact hr

theorem feedChoice_fed (h : s.feedChoice m = none) : (s.fed n c slot).feedChoice m = none := by
  rw [feedChoice_eq_none] at h ⊢
  refine fun l => Option.eq_none_iff_forall_ne_some.2 fun p hp => ?_
  have hold := eligibleFront_fed (k := p.1) (r := p.2) hp
  rw [h l] at hold
  contradiction

/-- R65: a stub whose RETURN order is open, as a property. -/
theorem stubReturning_iff {r : ArmRecord} : s.stubReturning r = true ↔ r.status = .stub ∧
    ∃ (k : RollSlot) (x : Roll) (b : OrderSlot) (o : Order), r.roll = some k ∧ s.roll? k = some x ∧
      x.claim = some b ∧ s.orders[b] = some o ∧ o.isOpen = true ∧ o.kind = .returnStub := by
  rw [State.stubReturning, Bool.and_eq_true, decide_eq_true_eq]
  refine and_congr_right fun _ => ⟨fun h => ?_, ?_⟩
  · split at h
    · contradiction
    · next b hb =>
      obtain ⟨x, hx, hclaim⟩ := Option.bind_eq_some_iff.1 hb
      obtain ⟨k, hk, hroll⟩ := Option.bind_eq_some_iff.1 hx
      split at h
      · contradiction
      · next o ho =>
        rw [Bool.and_eq_true, decide_eq_true_eq] at h
        exact ⟨k, x, b, o, hk, hroll, hclaim, ho, h⟩
  · rintro ⟨k, x, b, o, hk, hx, hclaim, ho, hopen, hkind⟩
    have hbind : (r.roll.bind s.roll?).bind Roll.claim = some b := by
      rw [hk, Option.bind_some, hx, Option.bind_some, hclaim]
    simp only [hbind, ho, hopen, hkind, decide_true, Bool.and_self]

theorem stubReturning_fed {r : ArmRecord} (h : s.stubReturning r = false) :
    (s.fed n c slot).stubReturning r = false := by
  by_contra hne
  obtain ⟨hstub, k, x, b, o, hk, hx, hclaim, ho, hopen, hkind⟩ := stubReturning_iff.1 (Bool.not_eq_false _ ▸ hne)
  have hb : b ≠ slot := by
    rintro rfl
    rw [fed_order_same] at ho
    obtain rfl := Option.some.inj ho
    contradiction
  rw [fed_order_other hb] at ho
  rw [fed_roll?] at hx
  split at hx
  · obtain ⟨y, -, rfl⟩ := Option.map_eq_some_iff.1 hx
    exact hb (Option.some.inj hclaim).symm
  · have hold := stubReturning_iff.2 ⟨hstub, k, x, b, o, hk, hx, hclaim, ho, hopen, hkind⟩
    rw [h] at hold
    contradiction

theorem feedArmAvailable_fed (hcan : s.CanFeed n c slot) (hne : m ≠ n) (h : s.feedArmAvailable m = false) :
    (s.fed n c slot).feedArmAvailable m = false := by
  rw [State.feedArmAvailable, Bool.and_eq_false_iff] at h ⊢
  refine h.imp (fun hopen => ?_) fun hclear => ?_
  · rw [Option.isNone_eq_false_iff, Option.isSome_iff_ne_none] at hopen ⊢
    exact openFeed_fed hcan hopen
  · rw [State.feedArmClear, Bool.or_eq_false_iff] at hclear ⊢
    rw [fed_stands_other hne]
    exact ⟨hclear.1, stubReturning_fed hclear.2⟩

/-- R83, R84: what could not be served still cannot after another entry was served. -/
theorem unserved_fed (hcan : s.CanFeed n c slot) (hne : m ≠ n) (h : s.Unserved m) : (s.fed n c slot).Unserved m := by
  obtain hreq | harm | hchoice | hfree := h
  · exact .inl ((fed_requirement m).trans hreq)
  · exact .inr (.inl (feedArmAvailable_fed hcan hne harm))
  · exact .inr (.inr (.inl (feedChoice_fed hchoice)))
  · rw [hcan.free] at hfree
    contradiction

end

/-! ## The examination -/

theorem foldl_serveDemand_demand (l : List StandNo) (s : State) :
    (l.foldl State.serveDemand s).demand.Sublist s.demand :=
  foldl_serveDemand_induction (P := fun t => t.demand.Sublist s.demand) l (List.Sublist.refl _)
    fun _ _ _ _ h _ => List.filter_sublist.trans h

theorem examine_demand (s : State) : s.examine.demand.Sublist s.demand := foldl_serveDemand_demand s.demand s

/-- An entry an examination has come to, and that stays in the list, cannot be served. -/
theorem foldl_serveDemand_unserved (l : List StandNo) (s : State) (n : StandNo)
    (hn : n ∈ (l.foldl State.serveDemand s).demand) (h : n ∈ l ∨ s.Unserved n) :
    (l.foldl State.serveDemand s).Unserved n := by
  induction l generalizing s with
  | nil => exact h.resolve_left List.not_mem_nil
  | cons m l ih =>
    refine ih (s.serveDemand m) hn ?_
    have hleft : n ∈ (s.serveDemand m).demand := (foldl_serveDemand_demand l (s.serveDemand m)).subset hn
    obtain ⟨hun, heq⟩ | ⟨c, slot, hcan, heq⟩ := serveDemand_cases s m
    · rw [heq]
      obtain hmem | hold := h
      · obtain rfl | hmem := List.mem_cons.1 hmem
        · exact .inr hun
        · exact .inl hmem
      · exact .inr hold
    · rw [heq] at hleft ⊢
      have hne : n ≠ m := by
        rw [fed_demand, List.mem_filter] at hleft
        exact of_decide_eq_true hleft.2
      obtain hmem | hold := h
      · exact .inl ((List.mem_cons.1 hmem).resolve_left hne)
      · exact .inr (unserved_fed hcan hne hold)

/-- R84: a stand that left the list has an open FEED order. -/
theorem examine_openFeed {s : State} {n : StandNo} (hn : n ∈ s.demand) (hleft : n ∉ s.examine.demand) :
    s.examine.openFeed n ≠ none := by
  refine examine_induction (P := fun t => n ∉ t.demand → t.openFeed n ≠ none) (fun hout => absurd hn hout)
    (fun t m c slot ht hcan hout => ?_) hleft
  by_cases hne : n = m
  · subst hne
    exact openFeed_fed_self
  · refine openFeed_fed hcan (ht fun hin => hout ?_)
    rw [fed_demand, List.mem_filter]
    exact ⟨hin, decide_eq_true hne⟩

/-- Settles O33: entry by entry (`foldl_serveDemand_unserved`, `examine_openFeed`). -/
theorem examinationServesAllItCan : Obligations.ExaminationServesAllItCan := by
  refine fun s => ⟨fun n hn => foldl_serveDemand_unserved s.demand s n hn (.inl ((examine_demand s).subset hn)),
    fun n => examine_openFeed, examine_demand s, ?_⟩
  rw [s.examine_changes]
  exact ⟨rfl, rfl, rfl, rfl, rfl⟩

/-! ## FEED -/

theorem exec_feed (s : State) : exec .feed s = .next (s.serve .feed feed) := rfl

theorem feed_any (n : StandNo) (s : State) : feed [byteOf n.val, 0xFF, 0, 0, 0, 0, 0] s = s.feedAny n := by
  have href : optRollRef? ([byteOf n.val, 0xFF, 0, 0, 0, 0, 0].drop 1) = some none := optRollRef?_none
  rw [feed, withStand, byteAt_zero, fin?_byteOf n (by decide)]
  dsimp only
  rw [href]

theorem feed_slot (n : StandNo) {k : Nat} (hk : k < 1024) (s : State) :
    feed (byteOf n.val :: 1 :: beBytes 5 k) s = s.feedNamed n (.bySlot k) := by
  have href : optRollRef? ((byteOf n.val :: 1 :: beBytes 5 k).drop 1) = some (some (.bySlot k)) :=
    optRollRef?_slot hk
  rw [feed, withStand, byteAt_zero, fin?_byteOf n (by decide)]
  dsimp only
  rw [href]

theorem feedBlocked_eq_true {s : State} {n : StandNo} (h : s.stands[n].state = .off ∨ s.requirement n = none ∨
    s.feedArmAvailable n = false) : s.feedBlocked n = true := by
  rw [State.feedBlocked]
  obtain hoff | hreq | harm := h
  · simp only [hoff, decide_true, Bool.true_or]
  · simp only [hreq, Option.isNone_none, Bool.or_true, Bool.true_or]
  · simp only [harm, Bool.not_false, Bool.or_true]

theorem feedBlocked_eq_false {s : State} {n : StandNo} (hoff : s.stands[n].state ≠ .off)
    (hreq : s.requirement n ≠ none) (harm : s.feedArmAvailable n = true) : s.feedBlocked n = false := by
  have hsome : (s.requirement n).isNone = false := Option.isNone_eq_false_iff.2 (Option.isSome_iff_ne_none.2 hreq)
  rw [State.feedBlocked, decide_eq_false hoff, hsome, harm]
  rfl

theorem feedAnswer_some {s : State} {c : OrderSlot} {o : Order} (ho : s.orders[c] = some o) :
    s.feedAnswer (some c) = beBytes 2 o.number ++ byteOf c :: (beBytes 2 o.roll ++ beBytes 5 o.rollTag) := by
  simp only [State.feedAnswer, Option.bind_some, ho, Option.map_some, List.append_assoc, List.cons_append]

/-- R53: the lane whose eligible front is the named roll. -/
theorem frontLane_eq {s : State} {n : StandNo} {l : LaneNo} {k : RollSlot} {r : Roll}
    (h : s.eligibleFront n l = some (k, r)) (hone : ∀ m : LaneNo, s.lanes[m].contents.head? = some k → m = l) :
    s.frontLane n k = some l := by
  refine find?_finRange_eq_some.2 ⟨by simp only [h, decide_true], fun m hm => ?_⟩
  cases hp : s.eligibleFront n m with
  | none => rfl
  | some p =>
    refine decide_eq_false fun hk => ?_
    have hfront := (eligibleFront_iff (k := p.1) (r := p.2).1 hp).2.1
    rw [hk] at hfront
    exact absurd (hone m hfront) (ne_of_lt hm)

/-- R66: FEED of a named front. -/
theorem feedNamed_eq {s : State} {n : StandNo} {l : LaneNo} {k : RollSlot} {r : Roll} {c : OrderSlot}
    {ref : RollRef} (href : s.resolve ref = some (k, r)) (hopen : s.feedBlocked n = false)
    (hlane : s.frontLane n k = some l) (hfree : s.freeOrderSlot = some c) :
    let t := s.createOrder c .feed .request k r (.lane l) (.arm n s.stands[n].feedArm)
    s.feedNamed n ref = .ok (State.pair { t with demand := t.demand.filter (· ≠ n) })
      (beBytes 2 s.newNumber ++ byteOf c :: (beBytes 2 k ++ beBytes 5 r.tag)) := by
  intro t
  have horder : ({ t with demand := t.demand.filter (· ≠ n) } : State).orders[c] =
      some (newOrder s.newNumber .feed .request k r.tag s.working.fleet.orderLimit (.lane l)
        (.arm n s.stands[n].feedArm)) := by
    change (s.orders.set c _)[c] = _
    rw [getElem_set_fin, if_pos rfl]
  rw [State.feedNamed, href]
  dsimp only
  rw [if_neg (by rw [hopen]; exact Bool.false_ne_true), hlane]
  dsimp only
  rw [hfree]
  dsimp only
  rw [feedAnswer_some horder]
  rfl

/-- R66, R82: FEED of no named roll, for a stand that is not in the list. -/
theorem feedAny_eq {s : State} {n : StandNo} (hopen : s.feedBlocked n = false) (hno : s.openFeed n = none)
    (hout : n ∉ s.demand) :
    let t := State.examine { s with demand := s.demand ++ [n] }
    s.feedAny n = .ok (t.postShort n).pair ((t.postShort n).feedAnswer (t.openFeed n)) := by
  intro t
  have hraise : ¬ ((s.openFeed n).isSome = true ∨ n ∈ s.demand) := by
    rw [hno]
    exact not_or.2 ⟨Bool.false_ne_true, hout⟩
  have happend : s.raiseDemand n = t.postShort n := by
    rw [State.raiseDemand, if_neg hraise, State.appendDemand, if_neg hraise]
  have hsame : (t.postShort n).openFeed n = t.openFeed n := by
    have horders : (t.postShort n).orders = t.orders := by rw [t.postShort_changes n]
    rw [State.openFeed, State.openFeed, horders]
  rw [State.feedAny, if_neg (by rw [hopen]; exact Bool.false_ne_true)]
  dsimp only
  rw [if_neg hout, happend, hsame]

/-- Settles O32: `feedNamed_eq`, `feedAny_eq`, and the stand that blocks both. -/
theorem feedCreatesOrderOrRaisesDemand : Obligations.FeedCreatesOrderOrRaisesDemand := by
  refine ⟨?_, ?_, ?_⟩
  · intro s tag rest n l k r c hserves hk hr hoff harm hreq hen hfront hone hst hhold hdam hclaim hc hlow t
    have hfl : (s.unqueued rest).frontLane n k = some l := frontLane_eq (s := s.unqueued rest)
      (eligibleFront_iff.2 ⟨hen, hfront, hr, hst, hhold, hdam, hclaim, hreq⟩) hone
    have hopen : (s.unqueued rest).feedBlocked n = false := feedBlocked_eq_false (s := s.unqueued rest) hoff
      (fun hnone => Option.some_ne_none _ (hreq.symm.trans hnone)) harm
    have hres : (s.unqueued rest).resolve (.bySlot k) = some (k, r) := resolve_slot (s := s.unqueued rest) hr
    have hbody := feedNamed_eq hres hopen hfl (freeOrderSlot_eq_some (s := s.unqueued rest) hc hlow)
    rw [newNumber_unqueued] at hbody
    have hlen : (byteOf n.val :: 1 :: beBytes 5 k).length = 7 := by simp
    rw [exec_feed, serve_ok hserves hlen ((feed_slot n hk _).trans hbody)]
    rfl
  · intro s tag rest n hserves hoff harm hreq hout t
    have hopen : (s.unqueued rest).feedBlocked n = false :=
      feedBlocked_eq_false (s := s.unqueued rest) hoff hreq harm
    have hno : (s.unqueued rest).openFeed n = none := by
      rw [State.feedArmAvailable, Bool.and_eq_true] at harm
      exact Option.isNone_iff_eq_none.1 harm.1
    have hbody : feed [byteOf n.val, 0xFF, 0, 0, 0, 0, 0] (s.unqueued rest) =
        .ok (t.postShort n).pair ((t.postShort n).feedAnswer (t.openFeed n)) :=
      (feed_any n (s.unqueued rest)).trans (feedAny_eq hopen hno hout)
    refine ⟨fun hin hnone => ?_, fun c o hleft hsome ho => ?_⟩
    · have hshort : t.postShort n = t.post (.feedShort n) (.metres (t.runningMetres n)) := if_pos hin
      rw [exec_feed, serve_ok hserves rfl hbody, hnone, hshort]
      rfl
    · have hshort : t.postShort n = t := if_neg hleft
      rw [exec_feed, serve_ok hserves rfl hbody, hsome, hshort, feedAnswer_some ho]
  · intro s tag rest n hserves hblocked
    have hbody : feed [byteOf n.val, 0xFF, 0, 0, 0, 0, 0] (s.unqueued rest) = .refuse .wrongState :=
      (feed_any n _).trans (if_pos (feedBlocked_eq_true (s := s.unqueued rest) hblocked))
    rw [exec_feed, serve_refused hserves rfl hbody]

end Sys2Proof.Machine

/-! PROOF. A hold on the roll of an unpicked FEED order: what the events behind the cancellation leave alone (R37). -/

namespace Sys2Proof.Machine

/-! ## Inductions over the events' tails -/

/-- What every pairing keeps, pairing keeps. -/
theorem pair_induction {P : State → Prop} {s : State} (h0 : P s)
    (hstep : ∀ (t : State) k tail o v, P t → t.waiting = k :: tail → t.orders[k] = some o →
      t.pairingVehicle o = some v → P (t.join k o v)) : P s.pair := by
  have hup (fuel : Nat) (t : State) (ht : P t) : P (pairUpTo fuel t) := by
    induction fuel generalizing t with
    | zero => exact ht
    | succ fuel ih =>
      unfold pairUpTo
      cases hone : t.pairOne with
      | none => exact ht
      | some u =>
        obtain ⟨k, tail, o, v, hw, ho, hv, rfl⟩ := pairOne_eq_some hone
        exact ih _ (hstep t k tail o v ht hw ho hv)
  exact hup _ s h0

/-- What a longer demand list, a served entry and FEED_SHORT keep, the raise of a demand keeps. -/
theorem raiseDemand_induction {P : State → Prop} {s : State} (h0 : P s)
    (hdemand : ∀ (t : State) d, P t → P { t with demand := d })
    (hfed : ∀ t n c slot, P t → t.CanFeed n c slot → P (t.fed n c slot))
    (hshort : ∀ (t : State) n m, P t → P (t.post (.feedShort n) (.metres m))) (n : StandNo) :
    P (s.raiseDemand n) := by
  unfold State.raiseDemand
  split
  · exact h0
  · next hraise =>
    have happend : P (s.appendDemand n).examine := by
      rw [State.appendDemand, if_neg hraise]
      exact examine_induction (hdemand s _ h0) hfed
    unfold State.postShort
    split
    · exact hshort _ _ _ happend
    · exact happend

/-! ## The cancelled order -/

/-- R37: what holds of the cancelled order of slot `c` and its held roll, from the cancellation on. -/
structure State.HoldsCancelled (t : State) (c : OrderSlot) (o : Order) (k : RollSlot) (r : Roll) : Prop where
  order : t.orders[c] = some { o with state := .cancelled, vehicle := none, deadline := .none }
  roll : t.roll? k = some r
  waiting : c ∉ t.waiting
  notice : ∃ e ∈ t.notices, e.key = .orderCancelled c ∧ e.detail = .order o.number
  outbound : ∀ v, o.vehicle = some v → (⟨v, .standDown o.number⟩ : Instruction) ∈ t.outbound

section
variable {t : State} {c : OrderSlot} {o : Order} {k : RollSlot} {r : Roll}

theorem fed_roll_held {n : StandNo} {x : FeedChoice} {slot : OrderSlot} (hr : t.roll? k = some r)
    (hheld : r.hold = true) (hcan : t.CanFeed n x slot) : (t.fed n x slot).roll? k = some r := by
  obtain ⟨-, -, hx, -, hfree, -⟩ := eligibleFront_iff.1 (feedChoice_eligible hcan.choice)
  have hne : k ≠ x.slot := by
    rintro rfl
    rw [Option.some.inj (hr.symm.trans hx), hfree] at hheld
    contradiction
  rw [fed_roll?, if_neg hne]
  exact hr

theorem fed_waiting_of_order {n : StandNo} {x : FeedChoice} {slot : OrderSlot} {y : Order}
    (ho : t.orders[c] = some y) (hout : c ∉ t.waiting) (hcan : t.CanFeed n x slot) : c ∉ (t.fed n x slot).waiting := by
  intro hin
  obtain rfl | hin := fed_waiting hin
  · exact Option.some_ne_none _ (ho.symm.trans (freeOrderSlot_none hcan.free))
  · exact hout hin

theorem holdsCancelled_fed (h : t.HoldsCancelled c o k r) (hheld : r.hold = true) {n : StandNo} {x : FeedChoice}
    {slot : OrderSlot} (hcan : t.CanFeed n x slot) : (t.fed n x slot).HoldsCancelled c o k r where
  order := fed_order_of_some hcan h.order
  roll := fed_roll_held h.roll hheld hcan
  waiting := fed_waiting_of_order h.order h.waiting hcan
  notice := by
    rw [fed_notices]
    exact h.notice
  outbound := by
    rw [fed_outbound]
    exact h.outbound

theorem join_rolls (s : State) (b : OrderSlot) (x : Order) (v : VehicleNo) : (s.join b x v).rolls = s.rolls := by
  rw [join_eq]

theorem join_notices (s : State) (b : OrderSlot) (x : Order) (v : VehicleNo) :
    (s.join b x v).notices = s.notices := by rw [join_eq]

theorem join_outbound (s : State) (b : OrderSlot) (x : Order) (v : VehicleNo) : (s.join b x v).outbound =
    s.outbound ++ [⟨v, .go x.number x.rollTag x.source.goSource x.dest⟩] := by rw [join_eq]

theorem holdsCancelled_join (h : t.HoldsCancelled c o k r) {b : OrderSlot} {tail : List OrderSlot} {x : Order}
    {v : VehicleNo} (hw : t.waiting = b :: tail) : (t.join b x v).HoldsCancelled c o k r where
  order := by
    have hne : c ≠ b := by
      rintro rfl
      exact h.waiting (by rw [hw]; exact List.mem_cons_self)
    rw [join_orders, getElem_set_fin, if_neg hne]
    exact h.order
  roll := by
    rw [State.roll?, join_rolls]
    exact h.roll
  waiting := by
    rw [join_waiting]
    exact fun hin => h.waiting (List.filter_sublist.subset hin)
  notice := by
    rw [join_notices]
    exact h.notice
  outbound := by
    rw [join_outbound]
    exact fun u hu => List.mem_append_left _ (h.outbound u hu)

theorem holdsCancelled_short (h : t.HoldsCancelled c o k r) (n : StandNo) (m : Nat) :
    (t.post (.feedShort n) (.metres m)).HoldsCancelled c o k r where
  order := h.order
  roll := h.roll
  waiting := h.waiting
  notice := by
    obtain ⟨e, he, hkey, hdetail⟩ := h.notice
    have hne : e.key ≠ .feedShort n := by rw [hkey]; exact nofun
    exact ⟨e, mem_postInto_of_mem he hne, hkey, hdetail⟩
  outbound := h.outbound

theorem holdsCancelled_demand (h : t.HoldsCancelled c o k r) (d : List StandNo) :
    ({ t with demand := d } : State).HoldsCancelled c o k r where
  order := h.order
  roll := h.roll
  waiting := h.waiting
  notice := h.notice
  outbound := h.outbound

theorem standDown_outbound (s : State) (v : VehicleNo) (number : Nat) :
    (s.standDown v number).outbound = s.outbound ++ [⟨v, .standDown number⟩] := by
  have hwait : ((s.instruct v (.standDown number)).endWait v).outbound = s.outbound ++ [⟨v, .standDown number⟩] := by
    rw [State.endWait_changes]
    rfl
  unfold State.standDown
  dsimp only
  split
  · exact hwait
  · split
    · exact hwait
    · exact hwait

theorem dismiss_outbound {s : State} {v : VehicleNo} (hv : o.vehicle = some v) :
    (⟨v, .standDown o.number⟩ : Instruction) ∈ (s.dismiss o).outbound := by
  rw [State.dismiss, hv]
  dsimp only
  rw [standDown_outbound]
  exact List.mem_append_right _ (List.mem_singleton_self _)

theorem modRoll_roll_self (s : State) (k : RollSlot) (f : Roll → Roll) :
    (s.modRoll k f).roll? k = (s.roll? k).map f := tableGet_tableModify_self _ _ _

theorem withdraw_rolls (s : State) (c : OrderSlot) (o : Order) :
    (s.withdraw c o).rolls = tableModify s.rolls o.roll fun x => { x with claim := none } := by
  rw [State.withdraw, State.dismiss_changes]
  change ((s.unclaim o.roll).release o.dest).rolls = _
  rw [State.release_changes]
  rfl

theorem withdraw_waiting (s : State) (c : OrderSlot) (o : Order) :
    (s.withdraw c o).waiting = s.waiting.filter (· ≠ c) := by
  rw [State.withdraw, State.dismiss_changes]
  change ((s.unclaim o.roll).release o.dest).waiting.filter (· ≠ c) = _
  rw [State.release_changes]
  rfl

/-- R37: the cancellation itself. -/
theorem holdsCancelled_cancel {s : State} {x : Roll} (ho : s.orders[c] = some o) (hk : o.roll = k)
    (hx : s.roll? k = some x) :
    ((s.withdraw c o).markCancelled c o).HoldsCancelled c o k { x with claim := none } := by
  have horders : (s.withdraw c o).orders = s.orders := by rw [s.withdraw_changes c o]
  refine ⟨?_, ?_, ?_, ?_, ?_⟩
  · change ((s.withdraw c o).orders.set c ((s.withdraw c o).orders[c].map _))[c] = _
    rw [getElem_set_fin, if_pos rfl, horders, ho]
    rfl
  · change tableGet (s.withdraw c o).rolls k = _
    subst hk
    rw [withdraw_rolls, tableGet_tableModify_self]
    exact congrArg (Option.map fun x : Roll => { x with claim := none }) hx
  · change c ∉ (s.withdraw c o).waiting
    rw [withdraw_waiting, List.mem_filter]
    exact fun hin => of_decide_eq_true hin.2 rfl
  · exact mem_postInto_self (s.withdraw c o).notices (.orderCancelled c) (.order o.number)
  · exact fun v hv => dismiss_outbound hv

end

/-- Settles O21: the cancellation (`holdsCancelled_cancel`), and the raise, the examination and the pairing behind it. -/
theorem holdCancelsUnpickedFeed : Obligations.HoldCancelsUnpickedFeed := by
  intro s tag rest k r c o hserves hk hr hclaim ho hroll hkind hstate
  have hunpicked : (s.unqueued rest).unpickedFeed r.claim = some (c, o) := by
    have hcond : o.kind = .feed ∧ (o.state = .waiting ∨ o.state = .assigned ∨ o.state = .loading) := ⟨hkind, hstate⟩
    have ho' : (s.unqueued rest).orders[c] = some o := ho
    rw [State.unpickedFeed, hclaim, Option.bind_some, ho']
    exact if_pos hcond
  obtain ⟨hlen, href, hhold, hdamaged⟩ := amendRoll_fields (h := 1) (d := 0) (names_length (names_slot hk hr))
    (by decide) (by decide)
  let t := (s.unqueued rest).modRoll k fun x => { x with hold := true, damaged := r.damaged }
  have hbody : amendRoll (1 :: beBytes 5 k ++ [byteOf 1, byteOf 0]) (s.unqueued rest) =
      .ok (t.holdCancel c o).pair ({ r with hold := true }.flags :: beBytes 2 o.number) := by
    have hset : action? 1 = some .set := rfl
    have hleave : action? 0 = some .leave := rfl
    simp only [amendRoll, hhold, hdamaged, href, hset, hleave]
    rw [withRoll_names (s := s.unqueued rest) (names_slot hk hr), if_pos trivial, hunpicked]
    have hclear : ¬ ((FlagAction.set = .clear ∨ FlagAction.leave = .clear) ∧
        FlagAction.set.apply r.hold = false ∧ FlagAction.leave.apply r.damaged = false) :=
      fun h => absurd h.1 (by decide)
    dsimp only
    rw [if_neg hclear]
    rfl
  have htroll : t.roll? k = some { r with hold := true } :=
    (modRoll_roll_self _ _ _).trans (congrArg (Option.map _) hr)
  have hcancel : ((t.withdraw c o).markCancelled c o).HoldsCancelled c o k { r with hold := true, claim := none } :=
    holdsCancelled_cancel (s := t) ho hroll htroll
  have hexamined (u : State) (hu : u.HoldsCancelled c o k { r with hold := true, claim := none }) :
      u.examine.HoldsCancelled c o k { r with hold := true, claim := none } :=
    examine_induction hu fun _ _ _ _ h hcan => holdsCancelled_fed h rfl hcan
  have hend : (t.holdCancel c o).HoldsCancelled c o k { r with hold := true, claim := none } := by
    unfold State.holdCancel
    dsimp only
    split
    · exact hexamined _ hcancel
    · exact hexamined _ (raiseDemand_induction hcancel (fun _ d h => holdsCancelled_demand h d)
        (fun _ _ _ _ h hcan => holdsCancelled_fed h rfl hcan) (fun _ n m h => holdsCancelled_short h n m) _)
  have hpaired : (t.holdCancel c o).pair.HoldsCancelled c o k { r with hold := true, claim := none } :=
    pair_induction hend fun _ _ _ _ _ h hw _ _ => holdsCancelled_join h hw
  exact ⟨_, _, by rw [exec_amendRoll]; exact congrArg _ (serve_ok hserves hlen hbody), hpaired.order, hpaired.roll,
    hpaired.waiting, hpaired.notice, hpaired.outbound⟩

end Sys2Proof.Machine

/-! PROOF. DECLARE ROLL: its fields, its checks, and where a declared roll is placed (R30 to R34). -/

namespace Sys2Proof.Machine

/-! ## The fields -/

/-- The field bytes of a DECLARE ROLL (R30): those of a REGISTER ROLL, the lengths, the state, the place and the flags. -/
def declareFields (mill : List Byte) (registered remaining : Nat) (st : RollState) (index arm : Byte) (flags : Nat) :
    List Byte :=
  mill ++ (beBytes 2 registered ++ (beBytes 2 remaining ++ [st.code, index, arm, byteOf flags]))

section
variable {mill : List Byte} {registered remaining flags : Nat} {st : RollState} {index arm : Byte}

theorem declareFields_length (h : mill.length = 13) :
    (declareFields mill registered remaining st index arm flags).length = 21 := by simp [declareFields, h]

theorem declareFields_mill {i len : Nat} (h : mill.length = 13) (hi : i + len ≤ 13) :
    num (declareFields mill registered remaining st index arm flags) i len = num mill i len :=
  num_append_left (by omega)

theorem declareFields_behind (h : mill.length = 13) (i len : Nat) :
    num (declareFields mill registered remaining st index arm flags) (13 + i) len =
      num (beBytes 2 registered ++ (beBytes 2 remaining ++ [st.code, index, arm, byteOf flags])) i len := by
  rw [← h]
  exact num_skip _ _ _ _

theorem declareFields_registered (h : mill.length = 13) (hr : registered < 256 ^ 2) :
    num (declareFields mill registered remaining st index arm flags) 13 2 = registered :=
  (declareFields_behind h 0 2).trans (num_head _ hr)

theorem declareFields_remaining (h : mill.length = 13) (hr : remaining < 256 ^ 2) :
    num (declareFields mill registered remaining st index arm flags) 15 2 = remaining := by
  rw [declareFields_behind h 2 2, num_behind 2 registered _ 0, num_head _ hr]

theorem declareFields_place (h : mill.length = 13) (i : Nat) :
    byteAt (declareFields mill registered remaining st index arm flags) (17 + i) =
      byteAt [st.code, index, arm, byteOf flags] i := by
  have hskip := declareFields_behind (registered := registered) (remaining := remaining) (st := st) (index := index)
    (arm := arm) (flags := flags) h (4 + i) 1
  rw [← Nat.add_assoc] at hskip
  rw [byteAt, hskip, Nat.add_comm 4 i, show i + 4 = 2 + (2 + i) by omega, num_behind 2 registered _ (2 + i),
    num_behind 2 remaining _ i]
  rfl

end

theorem rollState?_code (st : RollState) : rollState? st.code.toNat = some st := by cases st <;> rfl

/-! ## The record and its checks -/

/-- R32 to R34: the record a DECLARE ROLL creates (`declareRoll_eq`). -/
def declaredRoll (t w d D W registered remaining sequence flags : Nat) (g : GradeCode) (st : RollState)
    (place : Location) : Roll where
  tag := t
  grade := g
  width := w
  core := d
  diameter := D
  weight := W
  registered := registered
  remaining := remaining
  overrun := 0
  sequence := sequence
  state := st
  location := place
  claim := none
  hold := flags.testBit 0
  damaged := flags.testBit 1
  discrepancy := flags.testBit 2
  partRoll := flags.testBit 3 || decide (st = .stub)

/-- R31 to R34: what a DECLARE ROLL of a record makes of the checks of its location (`declareRoll_eq`). -/
def State.Declares (s : State) (f out : List Byte) (k : RollSlot) (r : Roll) : Prop :=
  declareRoll f s = if r.state = .docked ∧ 16 ≤ s.dock.length then .refuse .full
    else (s.declareRefusal r.state r.kind r.location).elim (.ok ((s.createRoll k r).placeDeclared k r) out) .refuse

/-- R30, R31: a DECLARE ROLL whose figures, tag and slot are good. -/
theorem declareRoll_eq {s : State} {t w d D W registered remaining flags : Nat} {k : RollSlot} {g : GradeCode}
    {st : RollState} {index arm : Byte} {place : Location} (hfig : figuresValid t w d D W = true)
    (hg : s.working.grades[g].defined = true) (hreg : 1 ≤ registered) (hreg' : registered ≤ 65535)
    (hrem : remaining ≤ registered) (hflags : flags < 16) (htag : findTag t s.rolls = none)
    (hslot : s.freeRollSlot = some k) (hplace : location? st index.toNat arm.toNat = some place)
    (hfit : s.locationFitted place = true) :
    s.Declares (declareFields (registerFields t g.val w d D W) registered remaining st index arm flags)
      (beBytes 2 k ++ beBytes 4 s.sequence) k
      (declaredRoll t w d D W registered remaining s.sequence flags g st place) := by
  obtain ⟨ht, hw, hd, hD, -, hW⟩ := (figuresValid_iff t w d D W).1 hfig
  have hmill := registerFields_length t g.val w d D W
  have hgood : ¬ (figuresValid t w d D W = false ∨ s.working.grades[g].defined = false ∨ registered = 0 ∨
      registered < remaining ∨ 15 < flags ∨ s.locationFitted place = false) := by
    rw [hfig, hg, hfit]
    simp only [Bool.true_eq_false, false_or, or_false]
    omega
  generalize hf : declareFields (registerFields t g.val w d D W) registered remaining st index arm flags = f
  have hf0 : num f 0 5 = t := by
    rw [← hf, declareFields_mill hmill (by decide), registerFields_tag _ _ _ _ _ _ (by omega)]
  have hf5 : byteAt f 5 = g.val := by
    rw [← hf]
    exact (declareFields_mill hmill (by decide)).trans (registerFields_grade _ _ _ _ _ _ (by omega))
  have hf6 : num f 6 2 = w := by
    rw [← hf, declareFields_mill hmill (by decide), registerFields_width _ _ _ _ _ _ (by omega)]
  have hf8 : byteAt f 8 = d := by
    rw [← hf]
    exact (declareFields_mill hmill (by decide)).trans (registerFields_core _ _ _ _ _ _ (by omega))
  have hf9 : num f 9 2 = D := by
    rw [← hf, declareFields_mill hmill (by decide), registerFields_diameter _ _ _ _ _ _ (by omega)]
  have hf11 : num f 11 2 = W := by
    rw [← hf, declareFields_mill hmill (by decide), registerFields_weight _ _ _ _ _ _ (by omega)]
  have hf13 : num f 13 2 = registered := by rw [← hf, declareFields_registered hmill (by omega)]
  have hf15 : num f 15 2 = remaining := by rw [← hf, declareFields_remaining hmill (by omega)]
  have hf17 : byteAt f 17 = st.code.toNat := by
    rw [← hf, declareFields_place hmill 0, byteAt_zero]
  have hf18 : byteAt f 18 = index.toNat := by
    rw [← hf, declareFields_place hmill 1, byteAt_succ, byteAt_zero]
  have hf19 : byteAt f 19 = arm.toNat := by
    rw [← hf, declareFields_place hmill 2, byteAt_succ, byteAt_succ, byteAt_zero]
  have hf20 : byteAt f 20 = flags := by
    rw [← hf, declareFields_place hmill 3, byteAt_succ, byteAt_succ, byteAt_succ, byteAt_zero,
      byteOf_toNat_of_lt (by omega)]
  have hnew : ¬ (findTag t s.rolls).isSome = true := by
    rw [htag]
    exact Bool.false_ne_true
  unfold State.Declares declareRoll
  simp only [hf0, hf5, hf6, hf8, hf9, hf11, hf13, hf15, hf17, hf18, hf19, hf20, fin?_val, rollState?_code, hplace,
    hslot, if_neg hgood, if_neg hnew]
  by_cases hfull : st = .docked ∧ 16 ≤ s.dock.length
  · exact (if_pos hfull).trans (if_pos hfull).symm
  · refine (if_neg hfull).trans (Eq.trans ?_ (if_neg hfull).symm)
    change _ = (s.declareRefusal st ⟨g, w⟩ place).elim _ _
    cases s.declareRefusal st ⟨g, w⟩ place <;> rfl

/-! ## The checks of the places -/

section
variable {s : State} {kind : PaperKind} {st : RollState}

/-- The lane check of R31 is the one on a named lane (R52). -/
theorem declareRefusal_lane {l : LaneNo} :
    s.declareRefusal st kind (.lane l) = s.namedLaneRefusal l kind none := by
  have hnone : ¬ (none = some l) := nofun
  unfold State.declareRefusal State.namedLaneRefusal
  dsimp only
  refine if_congr ?_ rfl rfl
  rw [or_iff_left hnone]

theorem declareRefusal_vehicle {v : VehicleNo} : s.declareRefusal st kind (.vehicle v) =
    if (s.vehicles[v].state ≠ .offline ∧ s.vehicles[v].state ≠ .idle) ∨ s.vehicles[v].roll ≠ none
    then some .wrongState else none := by
  unfold State.declareRefusal
  dsimp only
  refine if_congr ?_ rfl rfl
  rw [Option.isSome_iff_ne_none]

theorem declareRefusal_running {n : StandNo} {a : Arm} : s.declareRefusal .running kind (.arm n a) =
    if s.stands[n].state = .off ∨ (s.stands[n].arm a).status ≠ .empty ∨ s.stands[n].running ≠ none
    then some .wrongState else none := by
  unfold State.declareRefusal
  dsimp only
  by_cases hoff : s.stands[n].state = .off ∨ (s.stands[n].arm a).status ≠ .empty
  · rw [if_pos hoff, if_pos (hoff.imp_right .inl)]
  · rw [if_neg hoff, if_pos rfl]
    refine if_congr ?_ rfl rfl
    rw [Option.isSome_iff_ne_none]
    tauto

theorem declareRefusal_arm {n : StandNo} {a : Arm} (h : st ≠ .running) : s.declareRefusal st kind (.arm n a) =
    if s.stands[n].state = .off ∨ (s.stands[n].arm a).status ≠ .empty ∨ s.stands[n].running = some a ∨
      (s.stands[n].running = none ∧ (s.stands[n].arm a.other).status ≠ .empty)
    then some .wrongState else none := by
  unfold State.declareRefusal
  dsimp only
  by_cases hoff : s.stands[n].state = .off ∨ (s.stands[n].arm a).status ≠ .empty
  · rw [if_pos hoff, if_pos (hoff.imp_right .inl)]
  · rw [if_neg hoff, if_neg h]
    refine if_congr ?_ rfl rfl
    tauto

end

/-! ## Where the roll is placed -/

section
variable {s : State} {k : RollSlot} {r : Roll}

theorem placeDeclared_dock (h : r.location = .dock) :
    s.placeDeclared k r = { s with dock := s.dock ++ [k] } := by rw [State.placeDeclared, h]

/-- R32: the lane record of a declared STORED roll, an unbound lane being bound for it. -/
theorem placeDeclared_lane {l : LaneNo} (h : r.location = .lane l)
    (hfits : s.lanes[l].binding = none ∨ s.lanes[l].binding = some r.kind) :
    let t := s.modLane l fun x => { x with contents := x.contents ++ [k], binding := some r.kind }
    s.placeDeclared k r = if s.lanes[l].contents = [] then t.examine.pair else t := by
  intro t
  have hbound : s.lanes[l].binding.or (some r.kind) = some r.kind := by
    obtain hb | hb := hfits <;> rw [hb] <;> rfl
  have hlane : (s.modLane l fun x =>
      { x with contents := x.contents ++ [k], binding := x.binding.or (some r.kind) }) = t := by
    simp only [t, State.modLane, hbound]
  rw [State.placeDeclared, h]
  dsimp only
  rw [hlane]
  exact if_congr List.isEmpty_iff rfl rfl

theorem placeDeclared_vehicle {v : VehicleNo} (h : r.location = .vehicle v) : s.placeDeclared k r = { s with
    vehicles := s.vehicles.set v { s.vehicles[v] with roll := some k }
    idle := s.idle.filter fun u => u ≠ v } := by
  rw [State.placeDeclared, h]
  simp only [State.modVehicle, State.leaveIdle]

variable {n : StandNo} {a : Arm}

theorem placeDeclared_running (h : r.location = .arm n a) (hst : r.state = .running) : s.placeDeclared k r =
    s.modStand n fun x => { x.setArm a ⟨.running, some k, none⟩ with
      state := if r.remaining = 0 then .webOut
        else if x.spliceMark ≠ 0 ∧ r.remaining ≤ x.spliceMark then .spliceDue else .loaded
      running := some a
      fraction := 0
      callUpRaised := decide (x.callUpMark ≠ 0 ∧ r.remaining ≤ x.callUpMark) } := by
  rw [State.placeDeclared, h, hst]
  rfl

theorem placeDeclared_stub (h : r.location = .arm n a) (hst : r.state = .stub) : s.placeDeclared k r =
    s.modStand n fun x => x.setArm a ⟨.stub, some k, none⟩ := by
  rw [State.placeDeclared, h, hst]
  rfl

theorem placeDeclared_standby (h : r.location = .arm n a) (hst : r.state = .standby) : s.placeDeclared k r =
    s.modStand n fun x => x.setArm a
      ⟨if s.requirement n = some r.kind then .ready else .mismatch, some k, none⟩ := by
  have hstatus : s.standbyStatus n r = if s.requirement n = some r.kind then .ready else .mismatch :=
    if_congr decide_eq_true_iff rfl rfl
  rw [State.placeDeclared, h, hst]
  simp only [hstatus, State.modArm]

end

theorem declaredRoll_of_ne_stub {t w d D W registered remaining sequence flags : Nat} {g : GradeCode}
    {st : RollState} {place : Location} (h : st ≠ .stub) :
    declaredRoll t w d D W registered remaining sequence flags g st place =
      { declaredRoll t w d D W registered remaining sequence flags g st place with partRoll := flags.testBit 3 } := by
  rw [declaredRoll, decide_eq_false h, Bool.or_false]

theorem location?_lane (l : LaneNo) : location? .stored (byteOf l.val).toNat 255 = some (.lane l) := by
  rw [location?, if_pos rfl, fin?_byteOf l (by decide)]
  rfl

theorem location?_vehicle (v : VehicleNo) : location? .carried (byteOf v.val).toNat 255 = some (.vehicle v) := by
  rw [location?, if_pos rfl, fin?_byteOf v (by decide)]
  rfl

theorem location?_arm {st : RollState} (n : StandNo) (a : Arm) (h : st = .running ∨ st = .standby ∨ st = .stub) :
    location? st (byteOf n.val).toNat (Arm.code a).toNat = some (.arm n a) := by
  have hform : location? st (byteOf n.val).toNat (Arm.code a).toNat =
      (fin? 8 (byteOf n.val).toNat).bind fun n => (arm? (Arm.code a).toNat).map (.arm n) := by
    obtain rfl | rfl | rfl := h <;> rfl
  rw [hform, fin?_byteOf n (by decide), Option.bind_some, arm?_code]
  rfl

/-! ## DECLARE ROLL by the location of its record -/

section
variable {s : State} {f out : List Byte} {k : RollSlot} {r : Roll}

theorem declares_placed (h : s.Declares f out k r) (hroom : ¬ (r.state = .docked ∧ 16 ≤ s.dock.length))
    (hno : s.declareRefusal r.state r.kind r.location = none) :
    declareRoll f s = .ok ((s.createRoll k r).placeDeclared k r) out :=
  h.trans ((if_neg hroom).trans (by rw [hno]; rfl))

theorem declares_refused (h : s.Declares f out k r) (hroom : ¬ (r.state = .docked ∧ 16 ≤ s.dock.length)) {e : Result}
    (hno : s.declareRefusal r.state r.kind r.location = some e) : declareRoll f s = .refuse e :=
  h.trans ((if_neg hroom).trans (by rw [hno]; rfl))

theorem declares_dock (h : s.Declares f out k r) (hst : r.state = .docked) (hp : r.location = .dock) :
    (s.dock.length < 16 → declareRoll f s = .ok { s.createRoll k r with dock := s.dock ++ [k] } out) ∧
      (16 ≤ s.dock.length → declareRoll f s = .refuse .full) := by
  refine ⟨fun hroom => ?_, fun hfull => h.trans (if_pos ⟨hst, hfull⟩)⟩
  rw [declares_placed h (fun hd => not_le.2 hroom hd.2) (by rw [hp]; rfl), placeDeclared_dock hp]
  rfl

theorem not_full_of_state {st : RollState} (hst : r.state = st) (hne : st ≠ .docked) :
    ¬ (r.state = .docked ∧ 16 ≤ s.dock.length) := fun hd => hne (hst.symm.trans hd.1)

theorem declares_lane (h : s.Declares f out k r) {l : LaneNo} (hst : r.state = .stored) (hp : r.location = .lane l) :
    (s.working.lanes[l].enabled = false → declareRoll f s = .refuse .badField) ∧
      (s.working.lanes[l].enabled = true →
        (¬ s.Fits r.kind l → declareRoll f s = .refuse .wrongState) ∧
        (s.Fits r.kind l →
          (s.freePlaces l = 0 → declareRoll f s = .refuse .storeFull) ∧
          (0 < s.freePlaces l →
            let stored := (s.createRoll k r).modLane l fun x =>
              { x with contents := x.contents ++ [k], binding := some r.kind }
            declareRoll f s = .ok (if s.lanes[l].contents = [] then stored.examine.pair else stored) out))) := by
  have hroom := not_full_of_state (s := s) hst nofun
  have hcheck : s.declareRefusal r.state r.kind r.location = s.namedLaneRefusal l r.kind none := by
    rw [hp, declareRefusal_lane]
  have hsource : none ≠ some l := (Option.some_ne_none l).symm
  refine ⟨fun he => declares_refused h hroom (hcheck.trans (namedLaneRefusal_disabled (.inl he))),
    fun he => ⟨fun hfits => declares_refused h hroom (hcheck.trans (namedLaneRefusal_bound he hsource hfits)),
      fun hfits => ⟨fun hfull => declares_refused h hroom (hcheck.trans (namedLaneRefusal_full he hsource hfits hfull)),
        fun hfree => ?_⟩⟩⟩
  intro stored
  rw [declares_placed h hroom (hcheck.trans (namedLaneRefusal_none he hsource hfits hfree)),
    placeDeclared_lane (s := s.createRoll k r) hp hfits]
  rfl

theorem declares_vehicle (h : s.Declares f out k r) {v : VehicleNo} (hst : r.state = .carried)
    (hp : r.location = .vehicle v) :
    (s.vehicles[v].state = .offline ∨ s.vehicles[v].state = .idle → s.vehicles[v].roll = none →
      declareRoll f s = .ok { s.createRoll k r with
        vehicles := s.vehicles.set v { s.vehicles[v] with roll := some k }
        idle := s.idle.filter fun u => u ≠ v } out) ∧
      ((s.vehicles[v].state ≠ .offline ∧ s.vehicles[v].state ≠ .idle) ∨ s.vehicles[v].roll ≠ none →
        declareRoll f s = .refuse .wrongState) := by
  have hroom := not_full_of_state (s := s) hst nofun
  have hcheck := declareRefusal_vehicle (s := s) (kind := r.kind) (st := r.state) (v := v)
  rw [← hp] at hcheck
  refine ⟨fun hstate hroll => ?_, fun hbad => declares_refused h hroom (hcheck.trans (if_pos hbad))⟩
  have hgood : ¬ ((s.vehicles[v].state ≠ .offline ∧ s.vehicles[v].state ≠ .idle) ∨ s.vehicles[v].roll ≠ none) := by
    tauto
  rw [declares_placed h hroom (hcheck.trans (if_neg hgood)), placeDeclared_vehicle hp]
  rfl

variable {n : StandNo} {a : Arm}

theorem declares_running (h : s.Declares f out k r) (hst : r.state = .running) (hp : r.location = .arm n a) :
    (s.stands[n].state ≠ .off → (s.stands[n].arm a).status = .empty → s.stands[n].running = none →
      declareRoll f s = .ok ((s.createRoll k r).modStand n fun x => { x.setArm a ⟨.running, some k, none⟩ with
        state := if r.remaining = 0 then .webOut
          else if x.spliceMark ≠ 0 ∧ r.remaining ≤ x.spliceMark then .spliceDue else .loaded
        running := some a
        fraction := 0
        callUpRaised := decide (x.callUpMark ≠ 0 ∧ r.remaining ≤ x.callUpMark) }) out) ∧
      (s.stands[n].state = .off ∨ (s.stands[n].arm a).status ≠ .empty ∨ s.stands[n].running ≠ none →
        declareRoll f s = .refuse .wrongState) := by
  have hroom := not_full_of_state (s := s) hst nofun
  have hcheck := declareRefusal_running (s := s) (kind := r.kind) (n := n) (a := a)
  rw [← hp, ← hst] at hcheck
  refine ⟨fun hoff hempty hrun => ?_, fun hbad => declares_refused h hroom (hcheck.trans (if_pos hbad))⟩
  have hgood : ¬ (s.stands[n].state = .off ∨ (s.stands[n].arm a).status ≠ .empty ∨ s.stands[n].running ≠ none) := by
    tauto
  rw [declares_placed h hroom (hcheck.trans (if_neg hgood)), placeDeclared_running hp hst]

/-- R31, R33: a STANDBY or a STUB on an arm. -/
theorem declares_arm (h : s.Declares f out k r) (hst : r.state = .standby ∨ r.state = .stub)
    (hp : r.location = .arm n a) :
    (s.stands[n].state ≠ .off → (s.stands[n].arm a).status = .empty → s.stands[n].running ≠ some a →
      s.stands[n].running ≠ none ∨ (s.stands[n].arm a.other).status = .empty →
      declareRoll f s = .ok ((s.createRoll k r).placeDeclared k r) out) ∧
      (s.stands[n].state = .off ∨ (s.stands[n].arm a).status ≠ .empty ∨ s.stands[n].running = some a ∨
          (s.stands[n].running = none ∧ (s.stands[n].arm a.other).status ≠ .empty) →
        declareRoll f s = .refuse .wrongState) := by
  have hroom : ¬ (r.state = .docked ∧ 16 ≤ s.dock.length) := by
    obtain hst | hst := hst <;> exact not_full_of_state hst nofun
  have hne : r.state ≠ .running := by
    obtain hst | hst := hst <;> rw [hst] <;> exact nofun
  have hcheck := declareRefusal_arm (s := s) (kind := r.kind) (n := n) (a := a) hne
  rw [← hp] at hcheck
  refine ⟨fun hoff hempty hrun hother => ?_, fun hbad => declares_refused h hroom (hcheck.trans (if_pos hbad))⟩
  have hgood : ¬ (s.stands[n].state = .off ∨ (s.stands[n].arm a).status ≠ .empty ∨ s.stands[n].running = some a ∨
      (s.stands[n].running = none ∧ (s.stands[n].arm a.other).status ≠ .empty)) := by
    tauto
  exact declares_placed h hroom (hcheck.trans (if_neg hgood))

end

/-- Settles O19: the fields read back (`declareRoll_eq`), then the checks and the placement of each location. -/
theorem declareRollRebuildsRecord : Obligations.DeclareRollRebuildsRecord := by
  intro s tag rest t w d D W registered remaining k flags g st place index arm hserves ht ht' hw hw' hd hd' hD hD'
    hdD hW hW' hg hreg hreg' hrem hflags htag hwf hk hfree hlow r created out refused
  have hfig : figuresValid t w d D W = true :=
    (figuresValid_iff t w d D W).2 ⟨⟨ht, ht'⟩, ⟨hw, hw'⟩, ⟨hd, hd'⟩, ⟨hD, hD'⟩, hdD, hW, hW'⟩
  have hnew : findTag t s.rolls = none := (findTag_eq_none_iff t s.rolls).2 htag
  have hslot : (s.unqueued rest).freeRollSlot = some k := freeRollSlot_eq_some hwf hk hfree hlow
  have hfields : beBytes 5 t ++ byteOf g.val :: (beBytes 2 w ++ byteOf d :: (beBytes 2 D ++ (beBytes 2 W ++
        (beBytes 2 registered ++ (beBytes 2 remaining ++ [st.code, index, arm, byteOf flags]))))) =
      declareFields (registerFields t g.val w d D W) registered remaining st index arm flags := by
    simp only [declareFields, registerFields, List.append_assoc, List.cons_append]
  rw [hfields] at hserves
  have hlen := declareFields_length (registered := registered) (remaining := remaining) (st := st) (index := index)
    (arm := arm) (flags := flags) (registerFields_length t g.val w d D W)
  have hdeclares (hplace : location? st index.toNat arm.toNat = some place)
      (hfit : (s.unqueued rest).locationFitted place = true) :=
    declareRoll_eq (s := s.unqueued rest) hfig hg hreg hreg' hrem hflags hnew hslot hplace hfit
  generalize declareFields (registerFields t g.val w d D W) registered remaining st index arm flags = f
    at hserves hlen hdeclares
  have hrecord (hstub : st ≠ .stub) : declaredRoll t w d D W registered remaining (s.unqueued rest).sequence flags g
      st place = r := declaredRoll_of_ne_stub hstub
  have hrefused {e : Result} (h : declareRoll f (s.unqueued rest) = .refuse e) :
      exec .declareRoll s = .next (refused e) := by rw [exec_declareRoll, serve_refused hserves hlen h]
  have hok {u : State} (h : declareRoll f (s.unqueued rest) = .ok u out) :
      exec .declareRoll s = .next (u.okAnswer .declareRoll tag out) := by
    rw [exec_declareRoll, serve_ok hserves hlen h]
  refine ⟨fun hst hp hi ha => ?_, fun l hst hp hi ha => ?_, fun v hst hp hi ha hfit => ?_, fun n a hp hi ha => ?_⟩
  · have hd := hdeclares (by rw [hst, hp, hi, ha]; rfl) (by rw [hp]; rfl)
    rw [hrecord (by rw [hst]; exact nofun)] at hd
    exact (declares_dock hd hst hp).imp (fun h hroom => hok (h hroom)) fun h hfull => hrefused (h hfull)
  · have hd := hdeclares (by rw [hst, hp, hi, ha]; exact location?_lane l) (by rw [hp]; rfl)
    rw [hrecord (by rw [hst]; exact nofun)] at hd
    obtain ⟨hoff, hon⟩ := declares_lane hd hst hp
    refine ⟨fun he => hrefused (hoff he), fun he => ⟨fun hb hk => hrefused ((hon he).1 (fun h => h.elim hb hk)),
      fun hfits => ⟨fun hfull => hrefused (((hon he).2 hfits).1 (Nat.sub_eq_zero_of_le hfull)), fun hroom => ?_⟩⟩⟩
    have hplaced := ((hon he).2 hfits).2 (Nat.sub_pos_of_lt hroom)
    refine ⟨fun hcont => hok (hplaced.trans ?_), fun hcont => hok (hplaced.trans ?_)⟩
    · exact congrArg (Reply.ok · out) (if_neg hcont)
    · exact congrArg (Reply.ok · out) (if_pos hcont)
  · have hd := hdeclares (by rw [hst, hp, hi, ha]; exact location?_vehicle v) (by rw [hp]; exact decide_eq_true hfit)
    rw [hrecord (by rw [hst]; exact nofun)] at hd
    exact (declares_vehicle hd hst hp).imp (fun h hidle hroll => hok (h hidle hroll)) fun h hbad => hrefused (h hbad)
  · have hd (hst : st = .running ∨ st = .standby ∨ st = .stub) :=
      hdeclares (by rw [hi, ha, hp]; exact location?_arm n a hst) (by rw [hp]; rfl)
    refine ⟨fun hst => ?_, fun hst => ⟨fun hoff hempty hrun hother => ⟨fun hst => ?_, fun hst => ?_⟩, fun hbad => ?_⟩⟩
    · have hd := hd (.inl hst)
      rw [hrecord (by rw [hst]; exact nofun)] at hd
      exact (declares_running hd hst hp).imp (fun h hoff hempty hrun => hok (h hoff hempty hrun))
        fun h hbad => hrefused (h hbad)
    · have hd := hd (.inr (.inl hst))
      rw [hrecord (by rw [hst]; exact nofun)] at hd
      have hplaced := (declares_arm hd (.inl hst) hp).1 hoff hempty hrun hother
      rw [placeDeclared_standby hp hst] at hplaced
      exact hok hplaced
    · have hd := hd (.inr (.inr hst))
      have hplaced := (declares_arm hd (.inr hst) hp).1 hoff hempty hrun hother
      have hpart : (flags.testBit 3 || decide (st = .stub)) = true := by rw [decide_eq_true hst, Bool.or_true]
      rw [placeDeclared_stub hp hst, declaredRoll, hpart] at hplaced
      exact hok hplaced
    · exact hrefused ((declares_arm (hd (.inr hst)) hst hp).2 hbad)

end Sys2Proof.Machine

/-! PROOF. The hall second: what a tick makes of each counter, and the seconds an expiry command stands for (R75, R76, R117, R118). -/

namespace Sys2Proof.Machine

/-! ## One step over a list of slots -/

section
variable {ι : Type} {f : State → ι → State} {l : List ι} {s : State}

/-- What every step keeps, the steps over a list keep. -/
theorem foldl_kept {P : State → Prop} (h0 : P s) (hstep : ∀ t j, P t → P (f t j)) : P (l.foldl f s) := by
  induction l generalizing s with
  | nil => exact h0
  | cons j l ih => exact ih (hstep s j h0)

/-- The step at one place of a list without repetition, which the steps at the other places leave alone. -/
theorem foldl_at {k : ι} {P Q : State → Prop} (hl : l.Nodup) (hk : k ∈ l) (h0 : P s)
    (hP : ∀ t j, j ≠ k → P t → P (f t j)) (hstep : ∀ t, P t → Q (f t k))
    (hQ : ∀ t j, j ≠ k → Q t → Q (f t j)) : Q (l.foldl f s) := by
  induction l generalizing s with
  | nil => exact absurd hk List.not_mem_nil
  | cons j l ih =>
    obtain ⟨hj, hl⟩ := List.nodup_cons.1 hl
    by_cases hjk : j = k
    · subst hjk
      have hrest (m : List ι) (t : State) (hm : j ∉ m) (ht : Q t) : Q (m.foldl f t) := by
        induction m generalizing t with
        | nil => exact ht
        | cons i m ihm =>
          rw [List.mem_cons, not_or] at hm
          exact ihm _ hm.2 (hQ t i (Ne.symm hm.1) ht)
      exact hrest l _ hj (hstep s h0)
    · exact ih hl ((List.mem_cons.1 hk).resolve_left (Ne.symm hjk)) (hP s j hjk h0)

end

/-! ## One slot -/

/-- R76: an order whose deadline expired, and its notice. -/
structure State.Stalled (t : State) (k : OrderSlot) (o : Order) : Prop where
  order : t.orders[k] = some { o with deadline := .expired, stalled := true }
  notice : ∃ e ∈ t.notices, e.key = .orderStalled k ∧ e.detail = .order o.number

/-- R118: an aisle whose tenure expired, and its notice. -/
structure State.Blocked (t : State) (g : AisleNo) (a : Aisle) : Prop where
  aisle : t.aisles[g] = { a with counter := .expired }
  notice : ∀ v, a.holder = some v → ∃ e ∈ t.notices, e.key = .aisleBlocked g ∧ e.detail = .vehicle v

section
variable {s : State} {k j : OrderSlot} {o : Order} {left : Nat}

theorem tickDeadline_of_none (h : s.orders[k] = none) : s.tickDeadline k = s := by
  rw [State.tickDeadline, h]

theorem tickDeadline_of_idle (ho : s.orders[k] = some o) (h : ∀ left, o.deadline ≠ .running left) :
    s.tickDeadline k = s := by
  rw [State.tickDeadline, ho]
  dsimp only
  split
  · next left hleft => exact absurd hleft (h left)
  · rfl

theorem tickDeadline_of_running (ho : s.orders[k] = some o) (h : o.deadline = .running left) : s.tickDeadline k =
    if left ≤ 1 then s.expireDeadline k o
    else s.setOrder k (some { o with deadline := .running (left - 1) }) := by
  rw [State.tickDeadline, ho]
  dsimp only
  rw [h]

theorem expireDeadline_stalled : (s.expireDeadline k o).Stalled k o where
  order := by
    change (s.orders.set k _)[k] = _
    rw [getElem_set_fin, if_pos rfl]
  notice := mem_postInto_self s.notices (.orderStalled k) (.order o.number)

theorem tickDeadline_other (h : k ≠ j) : (s.tickDeadline j).orders[k] = s.orders[k] := by
  cases ho : s.orders[j] with
  | none => rw [tickDeadline_of_none ho]
  | some o =>
    by_cases hrun : ∃ left, o.deadline = .running left
    · obtain ⟨left, hleft⟩ := hrun
      rw [tickDeadline_of_running ho hleft]
      split
      · change (s.orders.set j _)[k] = _
        rw [getElem_set_fin, if_neg h]
      · change (s.orders.set j _)[k] = _
        rw [getElem_set_fin, if_neg h]
    · rw [tickDeadline_of_idle ho (not_exists.1 hrun)]

/-- A notice of another key stays through the step of a deadline. -/
theorem tickDeadline_notice {e : Notice} (he : e ∈ s.notices) (hkey : e.key ≠ .orderStalled j) :
    e ∈ (s.tickDeadline j).notices := by
  cases ho : s.orders[j] with
  | none => rwa [tickDeadline_of_none ho]
  | some o =>
    by_cases hrun : ∃ left, o.deadline = .running left
    · obtain ⟨left, hleft⟩ := hrun
      rw [tickDeadline_of_running ho hleft]
      split
      · exact mem_postInto_of_mem he hkey
      · exact he
    · rwa [tickDeadline_of_idle ho (not_exists.1 hrun)]

variable {g h : AisleNo}

theorem tickTenure_of_idle (hidle : ∀ left, s.aisles[g].counter ≠ .running left) : s.tickTenure g = s := by
  rw [State.tickTenure]
  split
  · next left hleft => exact absurd hleft (hidle left)
  · rfl

theorem tickTenure_of_running (hrun : s.aisles[g].counter = .running left) : s.tickTenure g =
    if left ≤ 1 then s.expireTenure g else s.modAisle g fun a => { a with counter := .running (left - 1) } := by
  rw [State.tickTenure, hrun]

theorem postBlocked_aisle (h : AisleNo) : (s.postBlocked g).aisles[h] = s.aisles[h] := by
  unfold State.postBlocked
  split <;> rfl

theorem postBlocked_notice {e : Notice} (he : e ∈ s.notices) (hkey : e.key ≠ .aisleBlocked g) :
    e ∈ (s.postBlocked g).notices := by
  unfold State.postBlocked
  split
  · exact he
  · exact mem_postInto_of_mem he hkey

theorem modAisle_self (f : Aisle → Aisle) : (s.modAisle g f).aisles[g] = f s.aisles[g] := by
  rw [State.modAisle, getElem_set_fin, if_pos rfl]

theorem modAisle_other (f : Aisle → Aisle) (hne : h ≠ g) : (s.modAisle g f).aisles[h] = s.aisles[h] := by
  rw [State.modAisle, getElem_set_fin, if_neg hne]

theorem expireTenure_blocked : (s.expireTenure g).Blocked g s.aisles[g] where
  aisle := by rw [State.expireTenure, postBlocked_aisle, modAisle_self]
  notice := fun v hv => by
    have hholder : (s.modAisle g fun a => { a with counter := .expired }).aisles[g].holder = some v := by
      rw [modAisle_self]
      exact hv
    rw [State.expireTenure, State.postBlocked, hholder]
    exact mem_postInto_self s.notices (.aisleBlocked g) (.vehicle v)

theorem tickTenure_other (hne : h ≠ g) : (s.tickTenure g).aisles[h] = s.aisles[h] := by
  by_cases hrun : ∃ left, s.aisles[g].counter = .running left
  · obtain ⟨left, hleft⟩ := hrun
    rw [tickTenure_of_running hleft]
    split
    · exact (postBlocked_aisle h).trans (modAisle_other _ hne)
    · exact modAisle_other _ hne
  · rw [tickTenure_of_idle (not_exists.1 hrun)]

theorem tickTenure_notice {e : Notice} (he : e ∈ s.notices) (hkey : e.key ≠ .aisleBlocked g) :
    e ∈ (s.tickTenure g).notices := by
  by_cases hrun : ∃ left, s.aisles[g].counter = .running left
  · obtain ⟨left, hleft⟩ := hrun
    rw [tickTenure_of_running hleft]
    split
    · exact postBlocked_notice (s := s.modAisle g _) he hkey
    · exact he
  · rwa [tickTenure_of_idle (not_exists.1 hrun)]

theorem tickTenure_orders : (s.tickTenure g).orders = s.orders := by rw [State.tickTenure_changes]

theorem tickDeadline_aisles : (s.tickDeadline k).aisles = s.aisles := by rw [State.tickDeadline_changes]

end

/-! ## A tick -/

section
variable {s : State} {k : OrderSlot} {g : AisleNo}

/-- What becomes of a slot in the tick's pass over the deadlines, and stays so in its pass over the tenures. -/
theorem tick_slot {P Q : State → Prop} (h0 : P s) (hP : ∀ t j, j ≠ k → P t → P (t.tickDeadline j))
    (hstep : ∀ t, P t → Q (t.tickDeadline k)) (hQ : ∀ t j, j ≠ k → Q t → Q (t.tickDeadline j))
    (htenure : ∀ t g, Q t → Q (t.tickTenure g)) : Q s.tick :=
  foldl_kept (foldl_at (List.nodup_finRange 32) (List.mem_finRange k) h0 hP hstep hQ) htenure

/-- What becomes of an order in a tick, when only its own slot matters. -/
theorem tick_order {x y : Option Order} (h0 : s.orders[k] = x)
    (hstep : ∀ t : State, t.orders[k] = x → (t.tickDeadline k).orders[k] = y) : s.tick.orders[k] = y := by
  refine tick_slot (P := fun t => t.orders[k] = x) (Q := fun t => t.orders[k] = y) h0 ?_ hstep ?_ ?_
  · exact fun t j hj ht => (tickDeadline_other hj.symm).trans ht
  · exact fun t j hj ht => (tickDeadline_other hj.symm).trans ht
  · exact fun t g ht => (congrArg (fun v : Vector (Option Order) 32 => v[k]) tickTenure_orders).trans ht

theorem tick_order_none (h : s.orders[k] = none) : s.tick.orders[k] = none :=
  tick_order h fun t ht => by rw [tickDeadline_of_none ht, ht]

theorem tick_order_idle {o : Order} (h : s.orders[k] = some o) (hidle : ∀ left, o.deadline ≠ .running left) :
    s.tick.orders[k] = some o :=
  tick_order h fun t ht => by rw [tickDeadline_of_idle ht hidle, ht]

theorem tick_order_running {o : Order} {left : Nat} (h : s.orders[k] = some o) (hrun : o.deadline = .running left)
    (hleft : 2 ≤ left) : s.tick.orders[k] = some { o with deadline := .running (left - 1) } := by
  refine tick_order h fun t ht => ?_
  rw [tickDeadline_of_running ht hrun, if_neg (by omega)]
  change (t.orders.set k _)[k] = _
  rw [getElem_set_fin, if_pos rfl]

/-- R76: the tick at which a deadline reaches 0. -/
theorem tick_order_expires {o : Order} {left : Nat} (h : s.orders[k] = some o) (hrun : o.deadline = .running left)
    (hleft : left ≤ 1) : s.tick.Stalled k o := by
  refine tick_slot (k := k) (P := fun t => t.orders[k] = some o) (Q := fun t => t.Stalled k o) h ?_ ?_ ?_ ?_
  · exact fun t j hj ht => (tickDeadline_other hj.symm).trans ht
  · intro t ht
    rw [tickDeadline_of_running ht hrun, if_pos hleft]
    exact expireDeadline_stalled
  · intro t j hj ht
    obtain ⟨e, he, hkey, hdetail⟩ := ht.notice
    refine ⟨(tickDeadline_other hj.symm).trans ht.order, e, tickDeadline_notice he ?_, hkey, hdetail⟩
    rw [hkey]
    exact fun heq => hj (NoticeKey.orderStalled.inj heq).symm
  · intro t g ht
    obtain ⟨e, he, hkey, hdetail⟩ := ht.notice
    refine ⟨?_, e, tickTenure_notice he (by rw [hkey]; exact nofun), hkey, hdetail⟩
    rw [tickTenure_orders]
    exact ht.order

/-- What becomes of an aisle in the tick's pass over the tenures. -/
theorem tick_aisle {Q : State → Prop} (hP : ∀ t : State, t.aisles[g] = s.aisles[g] → Q (t.tickTenure g))
    (hQ : ∀ t h, h ≠ g → Q t → Q (t.tickTenure h)) : Q s.tick := by
  have hsame : ((List.finRange 32).foldl State.tickDeadline s).aisles[g] = s.aisles[g] :=
    foldl_kept (P := fun t => t.aisles[g] = s.aisles[g]) rfl fun t j ht =>
      (congrArg (fun v : Vector Aisle 8 => v[g]) tickDeadline_aisles).trans ht
  exact foldl_at (P := fun t => t.aisles[g] = s.aisles[g]) (List.nodup_finRange 8) (List.mem_finRange g) hsame
    (fun t h hh ht => (tickTenure_other hh.symm).trans ht) hP hQ

theorem tick_aisle_idle (hidle : ∀ left, s.aisles[g].counter ≠ .running left) : s.tick.aisles[g] = s.aisles[g] :=
  tick_aisle (Q := fun t => t.aisles[g] = s.aisles[g])
    (fun t ht => by rw [tickTenure_of_idle (by rw [ht]; exact hidle), ht])
    fun t h hh ht => (tickTenure_other hh.symm).trans ht

theorem tick_aisle_running {left : Nat} (hrun : s.aisles[g].counter = .running left) (hleft : 2 ≤ left) :
    s.tick.aisles[g] = { s.aisles[g] with counter := .running (left - 1) } := by
  refine tick_aisle (Q := fun t => t.aisles[g] = { s.aisles[g] with counter := .running (left - 1) })
    (fun t ht => ?_) fun t h hh ht => (tickTenure_other hh.symm).trans ht
  rw [tickTenure_of_running (by rw [ht]; exact hrun), if_neg (by omega), modAisle_self, ht]

/-- R118: the tick at which a tenure counter reaches 0. -/
theorem tick_aisle_expires {left : Nat} (hrun : s.aisles[g].counter = .running left) (hleft : left ≤ 1) :
    s.tick.Blocked g s.aisles[g] := by
  refine tick_aisle (g := g) (Q := fun t => t.Blocked g s.aisles[g]) (fun t ht => ?_) fun t h hh ht => ?_
  · rw [tickTenure_of_running (by rw [ht]; exact hrun), if_pos hleft, ← ht]
    exact expireTenure_blocked
  · refine ⟨(tickTenure_other hh.symm).trans ht.aisle, fun v hv => ?_⟩
    obtain ⟨e, he, hkey, hdetail⟩ := ht.notice v hv
    refine ⟨e, tickTenure_notice he ?_, hkey, hdetail⟩
    rw [hkey]
    exact fun heq => hh (NoticeKey.aisleBlocked.inj heq).symm

/-- A tick at which no counter reaches 0 posts nothing. -/
theorem tick_notices (horders : ∀ (k : OrderSlot) (o : Order) (left : Nat), s.orders[k] = some o →
      o.deadline = .running left → 2 ≤ left)
    (haisles : ∀ (g : AisleNo) (left : Nat), s.aisles[g].counter = .running left → 2 ≤ left) :
    s.tick.notices = s.notices := by
  have hdeadlines (l : List OrderSlot) (t : State) (hl : l.Nodup) (ht : ∀ k ∈ l, t.orders[k] = s.orders[k]) :
      (l.foldl State.tickDeadline t).notices = t.notices := by
    induction l generalizing t with
    | nil => rfl
    | cons k l ih =>
      obtain ⟨hk, hl⟩ := List.nodup_cons.1 hl
      have hstep : (t.tickDeadline k).notices = t.notices := by
        cases ho : t.orders[k] with
        | none => rw [tickDeadline_of_none ho]
        | some o =>
          by_cases hrun : ∃ left, o.deadline = .running left
          · obtain ⟨left, hleft⟩ := hrun
            have hbig := horders k o left ((ht k List.mem_cons_self).symm.trans ho) hleft
            rw [tickDeadline_of_running ho hleft, if_neg (by omega)]
            rfl
          · rw [tickDeadline_of_idle ho (not_exists.1 hrun)]
      refine (ih _ hl fun j hj => ?_).trans hstep
      have hne : j ≠ k := fun h => hk (h ▸ hj)
      rw [tickDeadline_other hne, ht j (List.mem_cons_of_mem k hj)]
  have htenures (l : List AisleNo) (t : State) (hl : l.Nodup) (ht : ∀ g ∈ l, t.aisles[g] = s.aisles[g]) :
      (l.foldl State.tickTenure t).notices = t.notices := by
    induction l generalizing t with
    | nil => rfl
    | cons g l ih =>
      obtain ⟨hg, hl⟩ := List.nodup_cons.1 hl
      have hstep : (t.tickTenure g).notices = t.notices := by
        by_cases hrun : ∃ left, t.aisles[g].counter = .running left
        · obtain ⟨left, hleft⟩ := hrun
          have hbig := haisles g left (by rw [← ht g List.mem_cons_self]; exact hleft)
          rw [tickTenure_of_running hleft, if_neg (by omega)]
          rfl
        · rw [tickTenure_of_idle (not_exists.1 hrun)]
      refine (ih _ hl fun h hh => ?_).trans hstep
      have hne : h ≠ g := fun heq => hg (heq ▸ hh)
      rw [tickTenure_other hne, ht h (List.mem_cons_of_mem g hh)]
  have haisles' : ((List.finRange 32).foldl State.tickDeadline s).aisles = s.aisles :=
    foldl_kept (P := fun t => t.aisles = s.aisles) rfl fun t j ht => tickDeadline_aisles.trans ht
  have hsecond := htenures (List.finRange 8) ((List.finRange 32).foldl State.tickDeadline s)
    (List.nodup_finRange 8) fun g _ => by rw [haisles']
  exact hsecond.trans (hdeadlines (List.finRange 32) s (List.nodup_finRange 32) fun k _ => rfl)

end

/-! ## The generator -/

theorem refclk_below {s : State} (h : s.hallAccumulator + s.hallIncrement < 4294967296) :
    s.refclk = { s with hallAccumulator := s.hallAccumulator + s.hallIncrement } := if_pos h

theorem refclk_carries {s : State} (h : 4294967296 ≤ s.hallAccumulator + s.hallIncrement) : s.refclk =
    State.tick { s with hallAccumulator := s.hallAccumulator + s.hallIncrement - 4294967296 } := if_neg (not_lt.2 h)

/-- Settles O45: slot by slot and aisle by aisle (`tick_order_expires`, `tick_aisle_expires` and their companions). -/
theorem refclkEdgeTicksCounters : Obligations.RefclkEdgeTicksCounters := by
  refine fun s => ⟨fun hbelow => congrArg Host.Outcome.next (refclk_below hbelow), fun hcarry => ?_⟩
  refine ⟨_, congrArg Host.Outcome.next (refclk_carries hcarry), ?_⟩
  generalize hu : ({ s with hallAccumulator := s.hallAccumulator + s.hallIncrement - 4294967296 } : State) = u
  have horders : u.orders = s.orders := by rw [← hu]
  have haisles : u.aisles = s.aisles := by rw [← hu]
  have hnotices : u.notices = s.notices := by rw [← hu]
  refine ⟨?_, ?_, ?_⟩
  · rw [u.tick_changes, ← hu]
  · rw [u.tick_changes, ← hu]
  rw [← horders, ← haisles, ← hnotices]
  refine ⟨fun k => tick_order_none, fun k o ho => ⟨tick_order_idle ho, fun left hleft => ⟨tick_order_running ho hleft,
    fun hlast => ⟨(tick_order_expires ho hleft hlast).order, (tick_order_expires ho hleft hlast).notice⟩⟩⟩,
    fun g => ⟨tick_aisle_idle, fun left hleft => ⟨tick_aisle_running hleft,
      fun hlast => ⟨(tick_aisle_expires hleft hlast).aisle, (tick_aisle_expires hleft hlast).notice⟩⟩⟩, tick_notices⟩

/-! ## Hall seconds -/

theorem refclk_iterate {s : State} {m : Nat} (h : s.hallAccumulator + m * s.hallIncrement < 4294967296) :
    State.refclk^[m] s = { s with hallAccumulator := s.hallAccumulator + m * s.hallIncrement } := by
  induction m with
  | zero => simp
  | succ m ih =>
    have hlast : s.hallAccumulator + m * s.hallIncrement + s.hallIncrement < 4294967296 := by
      rw [Nat.succ_mul] at h
      omega
    rw [Function.iterate_succ_apply', ih (by omega), refclk_below hlast]
    simp only [Nat.succ_mul, Nat.add_assoc]

theorem hallSecond_eq {s : State} (h : 1 ≤ s.hallIncrement) : s.hallSecond = State.tick { s with
    hallAccumulator := s.hallAccumulator + s.edgesToCarry * s.hallIncrement - 4294967296 } :=
  if_neg (by omega)

theorem hallSecond_ticks {s : State} (h : 1 ≤ s.hallIncrement) :
    ∃ acc, s.hallSecond = State.tick { s with hallAccumulator := acc } := ⟨_, hallSecond_eq h⟩

/-- R75: the edges up to the next carry. -/
theorem edgesToCarry_spec {s : State} (hpos : 1 ≤ s.hallIncrement) (hacc : s.hallAccumulator < 4294967296) :
    ∃ m, s.edgesToCarry = m + 1 ∧ s.hallAccumulator + m * s.hallIncrement < 4294967296 ∧
      4294967296 ≤ s.hallAccumulator + (m + 1) * s.hallIncrement := by
  have hdiv := Nat.div_add_mod (4294967296 - s.hallAccumulator + (s.hallIncrement - 1)) s.hallIncrement
  have hmod := Nat.mod_lt (4294967296 - s.hallAccumulator + (s.hallIncrement - 1)) hpos
  change s.hallIncrement * s.edgesToCarry + _ = _ at hdiv
  cases hedges : s.edgesToCarry with
  | zero =>
    rw [hedges, Nat.mul_zero] at hdiv
    omega
  | succ m =>
    rw [hedges, Nat.mul_succ, Nat.mul_comm] at hdiv
    refine ⟨m, rfl, ?_, ?_⟩
    · omega
    · rw [Nat.succ_mul]
      omega

theorem hallSeconds_succ (m : Nat) (s : State) : hallSeconds (m + 1) s = hallSeconds m s.hallSecond := rfl

theorem hallSecond_increment (s : State) : s.hallSecond.hallIncrement = s.hallIncrement := by
  rw [s.hallSecond_changes]

/-- R76: the hall seconds a deadline has left bring it to its expiry. -/
theorem hallSeconds_deadline {s : State} {k : OrderSlot} {o : Order} {left : Nat} (hpos : 1 ≤ s.hallIncrement)
    (ho : s.orders[k] = some o) (hrun : o.deadline = .running left) : (hallSeconds (max 1 left) s).Stalled k o := by
  obtain ⟨acc, htick⟩ := hallSecond_ticks hpos
  by_cases hlast : left ≤ 1
  · rw [max_eq_left hlast, hallSeconds_succ, htick]
    exact tick_order_expires (s := { s with hallAccumulator := acc }) ho hrun hlast
  · obtain ⟨n, rfl⟩ : ∃ n, left = n + 2 := ⟨left - 2, by omega⟩
    have hsecond : s.hallSecond.orders[k] = some { o with deadline := .running (n + 1) } := by
      rw [htick]
      exact tick_order_running (s := { s with hallAccumulator := acc }) ho hrun (by omega)
    have hrest := hallSeconds_deadline (left := n + 1) (by rwa [hallSecond_increment]) hsecond rfl
    rw [max_eq_right (by omega)] at hrest ⊢
    exact ⟨hrest.order, hrest.notice⟩
termination_by left

/-- R118: the hall seconds a tenure counter has left bring it to its expiry. -/
theorem hallSeconds_tenure {s : State} {g : AisleNo} {left : Nat} {v : VehicleNo} (hpos : 1 ≤ s.hallIncrement)
    (hrun : s.aisles[g].counter = .running left) (hv : s.aisles[g].holder = some v) :
    (hallSeconds (max 1 left) s).aisles[g] = { s.aisles[g] with counter := .expired } ∧
      ∃ e ∈ (hallSeconds (max 1 left) s).notices, e.key = .aisleBlocked g ∧ e.detail = .vehicle v := by
  obtain ⟨acc, htick⟩ := hallSecond_ticks hpos
  by_cases hlast : left ≤ 1
  · rw [max_eq_left hlast, hallSeconds_succ, htick]
    have hblocked := tick_aisle_expires (s := { s with hallAccumulator := acc }) hrun hlast
    exact ⟨hblocked.aisle, hblocked.notice v hv⟩
  · obtain ⟨n, rfl⟩ : ∃ n, left = n + 2 := ⟨left - 2, by omega⟩
    have hsecond : s.hallSecond.aisles[g] = { s.aisles[g] with counter := .running (n + 1) } := by
      rw [htick]
      exact tick_aisle_running (s := { s with hallAccumulator := acc }) hrun (by omega)
    have hrest := hallSeconds_tenure (left := n + 1) (v := v) (by rwa [hallSecond_increment]) (by rw [hsecond])
      (by rw [hsecond]; exact hv)
    rw [max_eq_right (by omega), hsecond] at hrest
    rw [max_eq_right (by omega)]
    exact hrest
termination_by left

theorem hallSeconds_rest (m : Nat) (s : State) : { hallSeconds m s with
    hallAccumulator := s.hallAccumulator, orders := s.orders, aisles := s.aisles, notices := s.notices } = s := by
  rw [hallSeconds_changes]

theorem Counter.left_of_idle {x : Counter} (h : ∀ left, x ≠ .running left) : x.left = 0 := by
  cases x with
  | none => rfl
  | expired => rfl
  | running left => exact absurd rfl (h left)

/-- Settles O46: a hall second is the edges up to a carry (`refclk_iterate`), an expiry the seconds a counter has left. -/
theorem expiriesAreHallSeconds : Obligations.ExpiriesAreHallSeconds := by
  refine ⟨fun s hpos hacc => ?_, fun s k o left hpos ho hrun => ?_, fun s k hidle => ?_,
    fun s g v left hpos hrun hv => ?_, fun s g hidle => ?_⟩
  · obtain ⟨m, hedges, hbelow, hcarry⟩ := edgesToCarry_spec hpos hacc
    refine ⟨m, hbelow, hcarry, congrArg Host.Outcome.next ?_, rfl⟩
    have hsum : s.hallAccumulator + m * s.hallIncrement + s.hallIncrement =
        s.hallAccumulator + (m + 1) * s.hallIncrement := by rw [Nat.succ_mul, Nat.add_assoc]
    rw [hallSecond_eq hpos, hedges, Function.iterate_succ_apply', refclk_iterate hbelow,
      refclk_carries (by rw [← hsum] at hcarry; exact hcarry)]
    simp only [hsum]
  · have hstalled := hallSeconds_deadline hpos ho hrun
    have hleft : s.deadlineLeft k = max 1 left := by
      rw [State.deadlineLeft, ho]
      dsimp only
      rw [hrun, Counter.left]
    refine ⟨_, congrArg (fun m => Host.Outcome.next (hallSeconds m s)) hleft, hstalled.order, hstalled.notice,
      hallSeconds_rest _ s⟩
  · have hleft : s.deadlineLeft k = 0 := by
      rw [State.deadlineLeft]
      split
      · rfl
      · next o ho => exact Counter.left_of_idle (hidle o ho)
    exact congrArg (fun m => Host.Outcome.next (hallSeconds m s)) hleft
  · have hblocked := hallSeconds_tenure hpos hrun hv
    have hleft : s.aisles[g].counter.left = max 1 left := by rw [hrun, Counter.left]
    exact ⟨_, congrArg (fun m => Host.Outcome.next (hallSeconds m s)) hleft, hblocked.1, hblocked.2,
      hallSeconds_rest _ s⟩
  · exact congrArg (fun m => Host.Outcome.next (hallSeconds m s)) (Counter.left_of_idle hidle)

end Sys2Proof.Machine

/-! PROOF. The reports: what a frame carries, what is refused whole, and ONLINE (R90 to R93, R105, R120, R184, R185). -/

namespace Sys2Proof.Machine

/-! ## Records of one vehicle and one aisle -/

theorem modVehicle_self (s : State) (v : VehicleNo) (f : Vehicle → Vehicle) :
    (s.modVehicle v f).vehicles[v] = f s.vehicles[v] := by rw [State.modVehicle, getElem_set_fin, if_pos rfl]

/-! ## Taking the head frame -/

theorem take_waits {α : Type} {s : State} {want : FleetFrame → Option α} {body : α → VehicleNo → State → State}
    (h : s.received = [] ∨ s.outboundFree < 4) : s.take want body = s := by
  obtain heq | ⟨f, rest, x, hr, -, hroom, -⟩ := take_cases s want body
  · exact heq
  · obtain hnil | hfull := h
    · rw [hnil] at hr
      contradiction
    · omega

section
variable {s : State} {v : VehicleNo} {kind : Byte} {fields : List Byte} {rest : List FleetFrame}

theorem refuse_pair (e : Reason) : ((s.untaken rest).refuse v kind e).pair = s.reportRefused v kind rest e := rfl

theorem exec_unknownReport (h : s.Takes v kind fields rest) (hr : report? ⟨v, kind, fields⟩ = none) :
    exec .unknownReport s = .next (s.reportRefused v kind rest .badField) :=
  congrArg Host.Outcome.next (take_some h (by rw [hr]))

theorem exec_online {t : Option Nat} {g : Option AisleNo} (h : s.Takes v kind fields rest)
    (hr : report? ⟨v, kind, fields⟩ = some (.online t g)) :
    exec .online s = .next ((s.untaken rest).reportOnline t g v).pair :=
  congrArg Host.Outcome.next (take_some (x := (t, g)) h (by rw [hr]))

theorem exec_atPlace {p : Place} (h : s.Takes v kind fields rest)
    (hr : report? ⟨v, kind, fields⟩ = some (.atPlace p)) :
    exec .atPlace s = .next ((s.untaken rest).reportAtPlace p v).pair :=
  congrArg Host.Outcome.next (take_some (x := p) h (by rw [hr]))

theorem exec_picked {t : Nat} (h : s.Takes v kind fields rest) (hr : report? ⟨v, kind, fields⟩ = some (.picked t)) :
    exec .picked s = .next ((s.untaken rest).reportPicked t v).pair :=
  congrArg Host.Outcome.next (take_some (x := t) h (by rw [hr]))

theorem exec_dropped (h : s.Takes v 4 [] rest) : exec .dropped s = .next ((s.untaken rest).reportDropped v).pair :=
  congrArg Host.Outcome.next (take_some (x := ()) h rfl)

theorem exec_clear (h : s.Takes v 5 [] rest) : exec .clear s = .next ((s.untaken rest).reportClear v).pair :=
  congrArg Host.Outcome.next (take_some (x := ()) h rfl)

theorem exec_park (h : s.Takes v 6 [] rest) : exec .park s = .next ((s.untaken rest).reportPark v).pair :=
  congrArg Host.Outcome.next (take_some (x := ()) h rfl)

theorem exec_fault {code : Nat} (h : s.Takes v kind fields rest)
    (hr : report? ⟨v, kind, fields⟩ = some (.fault code)) :
    exec .fault s = .next ((s.untaken rest).reportFault code v).pair :=
  congrArg Host.Outcome.next (take_some (x := code) h (by rw [hr]))

theorem exec_offline (h : s.Takes v 8 [] rest) : exec .offline s = .next ((s.untaken rest).reportOffline v).pair :=
  congrArg Host.Outcome.next (take_some (x := ()) h rfl)

end

/-! ## The report of a frame -/

section
variable {v : VehicleNo} {fields : List Byte}

theorem report?_online_eq : report? ⟨v, 1, fields⟩ = if fields.length = 7 then online? fields else none := rfl

theorem report?_atPlace_eq : report? ⟨v, 2, fields⟩ =
    if fields.length = 2 then (place? (byteAt fields 0) (byteAt fields 1)).map .atPlace else none := rfl

theorem report?_picked_eq : report? ⟨v, 3, fields⟩ =
    if fields.length = 5 ∧ within 1 Config.maxTag (num fields 0 5) then some (.picked (num fields 0 5)) else none := rfl

theorem report?_fault_eq : report? ⟨v, 7, fields⟩ =
    if fields.length = 1 ∧ within 1 255 (byteAt fields 0) then some (.fault (byteAt fields 0)) else none := rfl

theorem report?_unknown {kind : Byte} (h : kind = 0 ∨ 8 < kind.toNat) : report? ⟨v, kind, fields⟩ = none := by
  obtain rfl | h := h
  · rfl
  · unfold report?
    dsimp only
    iterate 8 rw [if_neg (by omega)]

theorem report?_long {kind : Byte} (h : kind = 4 ∨ kind = 5 ∨ kind = 6 ∨ kind = 8) (hlong : fields ≠ []) :
    report? ⟨v, kind, fields⟩ = none := by
  have hlen : ¬ fields.length = 0 := mt List.eq_nil_of_length_eq_zero hlong
  obtain rfl | rfl | rfl | rfl := h <;> exact if_neg hlen

theorem place?_bytes {p : Place} (h : ∀ w, p ≠ .vehicle w) :
    place? (byteAt p.bytes 0) (byteAt p.bytes 1) = some p := by
  cases p with
  | dock => rfl
  | exitBay => rfl
  | vehicle w => exact absurd rfl (h w)
  | lane l =>
    change (fin? 32 (byteAt [byteOf l] 0)).map Place.lane = _
    rw [byteAt_zero, fin?_byteOf l (by decide)]
    rfl
  | arm n a =>
    cases a with
    | A =>
      change (fin? 8 (byteAt [byteOf n] 0)).map (fun n => Place.arm n .A) = _
      rw [byteAt_zero, fin?_byteOf n (by decide)]
      rfl
    | B =>
      change (fin? 8 (byteAt [byteOf n] 0)).map (fun n => Place.arm n .B) = _
      rw [byteAt_zero, fin?_byteOf n (by decide)]
      rfl

theorem report?_atPlace {p : Place} (h : ∀ w, p ≠ .vehicle w) : report? ⟨v, 2, p.bytes⟩ = some (.atPlace p) := by
  rw [report?_atPlace_eq, if_pos p.bytes_length, place?_bytes h]
  rfl

theorem report?_picked (hlen : fields.length = 5) (h1 : 1 ≤ num fields 0 5) (hmax : num fields 0 5 ≤ 9999999999) :
    report? ⟨v, 3, fields⟩ = some (.picked (num fields 0 5)) :=
  report?_picked_eq.trans (if_pos ⟨hlen, decide_eq_true ⟨h1, hmax⟩⟩)

theorem report?_fault (hlen : fields.length = 1) (h1 : 1 ≤ num fields 0 1) :
    report? ⟨v, 7, fields⟩ = some (.fault (num fields 0 1)) := by
  obtain ⟨b, rfl⟩ := List.length_eq_one_iff.1 hlen
  have hmax : byteAt [b] 0 ≤ 255 := by
    rw [byteAt_zero]
    omega
  exact report?_fault_eq.trans (if_pos ⟨rfl, decide_eq_true ⟨h1, hmax⟩⟩)

theorem place?_eq_none {code second : Nat} (h : 4 < code ∨ (code = 1 ∧ 31 < second) ∨
    ((code = 2 ∨ code = 3) ∧ 7 < second)) : place? code second = none := by
  obtain h | ⟨rfl, h⟩ | ⟨rfl | rfl, h⟩ := h
  · unfold place?
    iterate 5 rw [if_neg (by omega)]
  · exact congrArg (Option.map Place.lane) (fin?_eq_none h)
  · exact congrArg (Option.map fun n => Place.arm n .A) (fin?_eq_none h)
  · exact congrArg (Option.map fun n => Place.arm n .B) (fin?_eq_none h)

theorem report?_badPlace (h : fields.length ≠ 2 ∨ 4 < num fields 0 1 ∨ (num fields 0 1 = 1 ∧ 31 < num fields 1 1) ∨
    ((num fields 0 1 = 2 ∨ num fields 0 1 = 3) ∧ 7 < num fields 1 1)) : report? ⟨v, 2, fields⟩ = none := by
  rw [report?_atPlace_eq]
  by_cases hlen : fields.length = 2
  · exact (if_pos hlen).trans (congrArg (Option.map Report.atPlace) (place?_eq_none (h.resolve_left (not_not.2 hlen))))
  · exact if_neg hlen

theorem report?_badPick (h : fields.length ≠ 5 ∨ num fields 0 5 = 0 ∨ 9999999999 < num fields 0 5) :
    report? ⟨v, 3, fields⟩ = none := by
  refine report?_picked_eq.trans (if_neg fun ⟨hlen, hin⟩ => ?_)
  obtain ⟨h1, hmax⟩ : 1 ≤ num fields 0 5 ∧ num fields 0 5 ≤ 9999999999 := of_decide_eq_true hin
  omega

theorem report?_badFault (h : fields.length ≠ 1 ∨ num fields 0 1 = 0) : report? ⟨v, 7, fields⟩ = none := by
  refine report?_fault_eq.trans (if_neg fun ⟨hlen, hin⟩ => ?_)
  obtain ⟨h1, -⟩ : 1 ≤ num fields 0 1 ∧ num fields 0 1 ≤ 255 := of_decide_eq_true hin
  omega

theorem online?_eq_none (h : 3 < num fields 0 1 ∨ (2 ≤ num fields 0 1 ∧ 7 < num fields 6 1) ∨
    (num fields 0 1 % 2 = 1 ∧ (num fields 1 5 = 0 ∨ 9999999999 < num fields 1 5))) : online? fields = none := by
  have hpresence : num fields 0 1 = byteAt fields 0 := rfl
  have haisle : num fields 6 1 = byteAt fields 6 := rfl
  rw [hpresence, haisle] at h
  unfold online?
  dsimp only
  split
  · rfl
  · next hsmall =>
    split
    · rfl
    · next htag =>
      have hlane : 2 ≤ byteAt fields 0 ∧ 7 < byteAt fields 6 := by
        refine (h.resolve_left hsmall).resolve_right fun ⟨hodd, hout⟩ => htag ⟨decide_eq_true hodd, ?_⟩
        refine decide_eq_false fun hin : 1 ≤ num fields 1 5 ∧ num fields 1 5 ≤ 9999999999 => ?_
        omega
      rw [if_pos (decide_eq_true hlane.1), fin?_eq_none hlane.2]
      rfl

theorem report?_badOnline (h : fields.length ≠ 7 ∨ 3 < num fields 0 1 ∨ (2 ≤ num fields 0 1 ∧ 7 < num fields 6 1) ∨
    (num fields 0 1 % 2 = 1 ∧ (num fields 1 5 = 0 ∨ 9999999999 < num fields 1 5))) :
    report? ⟨v, 1, fields⟩ = none := by
  rw [report?_online_eq]
  by_cases hlen : fields.length = 7
  · rw [if_pos hlen, online?_eq_none (h.resolve_left (not_not.2 hlen))]
  · exact if_neg hlen

end

/-! ## Reports a vehicle's state refuses -/

section
variable {s : State} {v : VehicleNo}

theorem reportAtPlace_notAccepted (p : Place) (h : s.vehicles[v].state = .offline ∨ s.vehicles[v].state = .faulted) :
    s.reportAtPlace p v = s.refuse v 2 .notAccepted := by
  obtain h | h := h <;> simp only [State.reportAtPlace, h]

theorem reportAtPlace_idle (p : Place) (h : s.vehicles[v].state = .idle) :
    s.reportAtPlace p v = s.refuse v 2 .noOrder := by simp only [State.reportAtPlace, h]

theorem reportPicked_notAccepted (t : Nat) (h : s.vehicles[v].state = .offline ∨ s.vehicles[v].state = .faulted) :
    s.reportPicked t v = s.refuse v 3 .notAccepted := by
  obtain h | h := h <;> simp only [State.reportPicked, h]

theorem reportDropped_notAccepted (h : s.vehicles[v].state = .offline ∨ s.vehicles[v].state = .faulted) :
    s.reportDropped v = s.refuse v 4 .notAccepted := by
  obtain h | h := h <;> simp only [State.reportDropped, h]

theorem reportDropped_noOrder (h : s.vehicles[v].state = .idle ∨ s.vehicles[v].state = .outbound ∨
    s.vehicles[v].state = .loading ∨ s.vehicles[v].state = .laden) :
    s.reportDropped v = s.refuse v 4 .noOrder := by
  obtain h | h | h | h := h <;> simp only [State.reportDropped, h]

theorem reportClear_offline (h : s.vehicles[v].state = .offline) : s.reportClear v = s.refuse v 5 .notAccepted := by
  simp only [State.reportClear, h]

theorem reportPark_notAccepted (h : s.vehicles[v].state = .offline ∨ s.vehicles[v].state = .faulted) :
    s.reportPark v = s.refuse v 6 .notAccepted := by
  obtain h | h := h <;> simp only [State.reportPark, h]

theorem reportFault_offline (code : Nat) (h : s.vehicles[v].state = .offline) :
    s.reportFault code v = s.refuse v 7 .notAccepted := by simp only [State.reportFault, h]

theorem reportOffline_offline (h : s.vehicles[v].state = .offline) :
    s.reportOffline v = s.refuse v 8 .notAccepted := by simp only [State.reportOffline, h]

end

/-- Settles O38: frames without a report (`report?_badOnline` and its companions), reports a state refuses, and frames that wait (`take_waits`). -/
theorem badReportsRefused : Obligations.BadReportsRefused := by
  refine ⟨fun s v kind fields rest h => ⟨fun hbad => exec_unknownReport h ?_, ?_⟩, fun s c hc hwait => ?_⟩
  · obtain hkind | hkind | ⟨hkind, hlong⟩ | ⟨rfl, hbad⟩ | ⟨rfl, hbad⟩ | ⟨rfl, hbad⟩ | ⟨rfl, hbad⟩ := hbad
    · exact report?_unknown (.inl hkind)
    · exact report?_unknown (.inr hkind)
    · exact report?_long hkind hlong
    · exact report?_badOnline hbad
    · exact report?_badPlace hbad
    · exact report?_badPick hbad
    · exact report?_badFault hbad
  · intro x
    refine ⟨fun p hp hkind hfields => ?_, fun hkind hlen h1 hmax hx => ?_, fun hkind hfields => ?_,
      fun hkind hfields hx => ?_, fun hkind hfields hx => ?_, fun hkind hlen h1 hx => ?_, fun hkind hfields hx => ?_⟩
    · subst hkind hfields
      rw [exec_atPlace h (report?_atPlace hp)]
      refine ⟨fun hx => ?_, fun hx => ?_⟩
      · rw [reportAtPlace_notAccepted (s := s.untaken rest) p hx, refuse_pair]
      · rw [reportAtPlace_idle (s := s.untaken rest) p hx, refuse_pair]
    · subst hkind
      rw [exec_picked h (report?_picked hlen h1 hmax), reportPicked_notAccepted (s := s.untaken rest) _ hx, refuse_pair]
    · subst hkind hfields
      rw [exec_dropped h]
      refine ⟨fun hx => ?_, fun hx => ?_⟩
      · rw [reportDropped_notAccepted (s := s.untaken rest) hx, refuse_pair]
      · rw [reportDropped_noOrder (s := s.untaken rest) hx, refuse_pair]
    · subst hkind hfields
      rw [exec_clear h, reportClear_offline (s := s.untaken rest) hx, refuse_pair]
    · subst hkind hfields
      rw [exec_park h, reportPark_notAccepted (s := s.untaken rest) hx, refuse_pair]
    · subst hkind
      rw [exec_fault h (report?_fault hlen h1), reportFault_offline (s := s.untaken rest) _ hx, refuse_pair]
    · subst hkind hfields
      rw [exec_offline h, reportOffline_offline (s := s.untaken rest) hx, refuse_pair]
  · simp only [List.mem_cons, List.not_mem_nil, or_false] at hc
    obtain rfl | rfl | rfl | rfl | rfl | rfl | rfl | rfl | rfl := hc <;>
      exact congrArg Host.Outcome.next (take_waits hwait)

end Sys2Proof.Machine

/-! PROOF. ONLINE: the tag and the aisle it names, and the vehicle it brings back (R92, R93, R120). -/

namespace Sys2Proof.Machine

/-! ## The fields -/

section
variable {v : VehicleNo} {presence aisle : Byte} {tagBytes : List Byte}

/-- R184: the tag an ONLINE carries, and the aisle it names (`report?_online`). -/
def onlineTag (presence : Byte) (tagBytes : List Byte) : Option Nat :=
  if presence.toNat % 2 = 1 then some (num tagBytes 0 5) else none

theorem report?_online (hlen : tagBytes.length = 5) (hpres : presence.toNat ≤ 3)
    (htag : presence.toNat % 2 = 1 → ∃ t, tagBytes = beBytes 5 t ∧ 1 ≤ t ∧ t ≤ 9999999999) :
    report? ⟨v, 1, presence :: (tagBytes ++ [aisle])⟩ =
      if 2 ≤ presence.toNat then (fin? 8 aisle.toNat).map fun g => .online (onlineTag presence tagBytes) (some g)
      else some (.online (onlineTag presence tagBytes) none) := by
  have hfields : (presence :: (tagBytes ++ [aisle])).length = 7 := by simp [hlen]
  have hnum : num (presence :: (tagBytes ++ [aisle])) 1 5 = num tagBytes 0 5 := by
    rw [num_succ, num_append_left (by omega)]
  have haisle : byteAt (presence :: (tagBytes ++ [aisle])) 6 = aisle.toNat := by
    have hskip := byteAt_append tagBytes [aisle] 0
    rw [hlen] at hskip
    rw [byteAt_succ, hskip, byteAt_zero]
  have hgood : ¬ (presence.toNat % 2 = 1 ∧ within 1 Config.maxTag (num tagBytes 0 5) = false) := by
    rintro ⟨hodd, hout⟩
    obtain ⟨t, rfl, h1, hmax⟩ := htag hodd
    rw [num_whole (by omega)] at hout
    exact of_decide_eq_false hout ⟨h1, hmax⟩
  rw [report?_online_eq, if_pos hfields, online?]
  simp only [byteAt_zero, hnum, haisle, if_neg (not_lt.2 hpres), decide_eq_true_eq, if_neg hgood, onlineTag]

end

/-! ## The vehicle -/

theorem idleIfEmpty_eq (s : State) (v : VehicleNo) : s.idleIfEmpty v = { s with
    idle := if s.vehicles[v].state = .idle ∧ s.vehicles[v].roll = none then s.idle ++ [v] else s.idle } := by
  unfold State.idleIfEmpty
  split
  · rfl
  · rfl

section
variable {s : State} {v : VehicleNo}

theorem carriedTag_none (h : s.vehicles[v].roll = none) : s.carriedTag v = none := by
  rw [State.carriedTag, h]
  rfl

theorem carriedTag_some {k : RollSlot} {r : Roll} (h : s.vehicles[v].roll = some k) (hr : s.roll? k = some r) :
    s.carriedTag v = some r.tag := by
  rw [State.carriedTag, h, Option.bind_some, hr]
  rfl

/-- R92, check 1: the tag of the carried roll, or none. -/
theorem onlineTag_right {presence : Byte} {tagBytes : List Byte}
    (h : (s.vehicles[v].roll = none ∧ presence.toNat % 2 = 0) ∨
      ∃ (k : Nat) (r : Roll), s.vehicles[v].roll = some k ∧ s.roll? k = some r ∧ presence.toNat % 2 = 1 ∧
        tagBytes = beBytes 5 r.tag ∧ r.tag ≤ 9999999999) : onlineTag presence tagBytes = s.carriedTag v := by
  obtain ⟨hroll, heven⟩ | ⟨k, r, hroll, hr, hodd, rfl, hmax⟩ := h
  · rw [carriedTag_none hroll, onlineTag, if_neg (by omega)]
  · rw [carriedTag_some hroll hr, onlineTag, if_pos hodd, num_whole (by omega)]

theorem onlineTag_wrong {presence : Byte} {tagBytes : List Byte}
    (h : (s.vehicles[v].roll = none ∧ presence.toNat % 2 = 1) ∨
      ∃ (k : Nat) (r : Roll), s.vehicles[v].roll = some k ∧ s.roll? k = some r ∧
        (presence.toNat % 2 = 0 ∨ ∃ t, tagBytes = beBytes 5 t ∧ t ≤ 9999999999 ∧ t ≠ r.tag)) :
    onlineTag presence tagBytes ≠ s.carriedTag v := by
  obtain ⟨hroll, hodd⟩ | ⟨k, r, hroll, hr, heven | ⟨t, rfl, hmax, hne⟩⟩ := h
  · rw [carriedTag_none hroll, onlineTag, if_pos hodd]
    exact Option.some_ne_none _
  · rw [carriedTag_some hroll hr, onlineTag, if_neg (by omega)]
    exact (Option.some_ne_none _).symm
  · rw [carriedTag_some hroll hr, onlineTag]
    split
    · rw [num_whole (by omega)]
      exact fun heq => hne (Option.some.inj heq)
    · exact (Option.some_ne_none _).symm

variable {tag : Option Nat} {aisle : Option AisleNo}

theorem reportOnline_wrongRoll (hst : s.vehicles[v].state = .offline ∨ s.vehicles[v].state = .faulted)
    (h : tag ≠ s.carriedTag v) : s.reportOnline tag aisle v = s.refuse v 1 .wrongRoll := by
  obtain hst | hst := hst <;> simp only [State.reportOnline, hst, if_pos h]

theorem reportOnline_aisleTaken (hst : s.vehicles[v].state = .offline) (h : tag = s.carriedTag v)
    (htaken : s.aisleTaken aisle = true) : s.reportOnline tag aisle v = s.refuse v 1 .aisleTaken := by
  simp only [State.reportOnline, hst, if_neg (not_not.2 h), if_pos htaken]

theorem reportOnline_notAccepted (hoff : s.vehicles[v].state ≠ .offline) (hfault : s.vehicles[v].state ≠ .faulted) :
    s.reportOnline tag aisle v = s.refuse v 1 .notAccepted := by
  unfold State.reportOnline
  dsimp only
  split
  · next h => exact absurd h hoff
  · next h => exact absurd h hfault
  · rfl

theorem reportOnline_offline (hst : s.vehicles[v].state = .offline) (h : tag = s.carriedTag v)
    (hfree : s.aisleTaken aisle = false) : s.reportOnline tag aisle v = { s.parkIn v aisle with
      vehicles := s.vehicles.set v { s.vehicles[v] with state := .idle }
      idle := if s.vehicles[v].roll = none then s.idle ++ [v] else s.idle
      outbound := s.outbound ++ [⟨v, .ack 1⟩] } := by
  have hfree' : ¬ s.aisleTaken aisle = true := by rw [hfree]; exact Bool.false_ne_true
  unfold State.reportOnline
  dsimp only
  rw [hst]
  dsimp only
  rw [if_neg (not_not.2 h), if_neg hfree']
  cases aisle <;> simp only [State.parkIn, idleIfEmpty_eq, State.modAisle, State.modVehicle, State.ack,
    State.instruct, getElem_set_fin, if_true, true_and]

theorem reportOnline_faulted {before : VehicleState} (hst : s.vehicles[v].state = .faulted)
    (h : tag = s.carriedTag v) (hbefore : s.vehicles[v].beforeFault = some before) :
    s.reportOnline tag aisle v = { s with
      vehicles := s.vehicles.set v { s.vehicles[v] with state := before, beforeFault := none }
      idle := if before = .idle ∧ s.vehicles[v].roll = none then s.idle ++ [v] else s.idle
      outbound := s.outbound ++ [⟨v, .ack 1⟩, ⟨v, .resume (s.orderNumberOf v)⟩] } := by
  unfold State.reportOnline
  dsimp only
  rw [hst]
  dsimp only
  rw [if_neg (not_not.2 h)]
  simp only [idleIfEmpty_eq, State.modVehicle, State.ack, State.instruct, State.orderNumberOf, getElem_set_fin,
    if_true, hbefore, Option.getD_some, List.append_assoc, List.cons_append, List.nil_append]

end

/-- Settles O39: what the frame carries (`report?_online`), whether its tag is right (`onlineTag_right`), and the vehicle's state. -/
theorem onlineBringsVehicleBack : Obligations.OnlineBringsVehicleBack := by
  intro s v rest presence aisle tagBytes htakes hlen hpres haisle htag x right wrong
  obtain ⟨g, hreport, hnamed⟩ : ∃ g, report? ⟨v, 1, presence :: (tagBytes ++ [aisle])⟩ =
        some (.online (onlineTag presence tagBytes) g) ∧
      ((presence.toNat < 2 ∧ g = none) ∨ (2 ≤ presence.toNat ∧ ∃ h, g = some h ∧ fin? 8 aisle.toNat = some h)) := by
    rw [report?_online hlen hpres htag]
    by_cases hg : 2 ≤ presence.toNat
    · rw [if_pos hg, fin?_of_lt (haisle hg)]
      exact ⟨_, rfl, .inr ⟨hg, _, rfl, rfl⟩⟩
    · rw [if_neg hg]
      exact ⟨none, rfl, .inl ⟨by omega, rfl⟩⟩
  have hexec := exec_online htakes hreport
  refine ⟨fun hst hwrong => ?_, fun hst hright => ?_, fun before number hst hright hbefore hnumber => ?_,
    fun hoff hfault => ?_⟩
  · rw [hexec, reportOnline_wrongRoll (s := s.untaken rest) hst (onlineTag_wrong (s := s.untaken rest) hwrong),
      refuse_pair]
  · have htag := onlineTag_right (s := s.untaken rest) hright
    intro back
    refine ⟨fun hnone => ?_, fun h hg hh => ⟨fun hmode => ?_, fun hmode => ?_⟩⟩
    · obtain ⟨-, rfl⟩ | ⟨hg, -⟩ := hnamed
      · rw [hexec, reportOnline_offline (s := s.untaken rest) hst htag rfl]
        rfl
      · omega
    · subst hh
      obtain ⟨hnone, -⟩ | ⟨-, i, rfl, hi⟩ := hnamed
      · omega
      · rw [fin?_byteOf h (by decide)] at hi
        obtain rfl := Option.some.inj hi
        rw [hexec, reportOnline_offline (s := s.untaken rest) (aisle := some h) hst htag
          (decide_eq_false (not_not.2 hmode))]
        rfl
    · subst hh
      obtain ⟨hnone, -⟩ | ⟨-, i, rfl, hi⟩ := hnamed
      · omega
      · rw [fin?_byteOf h (by decide)] at hi
        obtain rfl := Option.some.inj hi
        rw [hexec, reportOnline_aisleTaken (s := s.untaken rest) (aisle := some h) hst htag (decide_eq_true hmode),
          refuse_pair]
  · have hnum : (s.untaken rest).orderNumberOf v = number := by
      obtain ⟨hnone, rfl⟩ | ⟨c, o, hc, ho, rfl⟩ := hnumber
      · have hnone' : (s.untaken rest).vehicles[v].order = none := hnone
        rw [State.orderNumberOf, hnone']
        rfl
      · exact orderNumberOf_eq (s := s.untaken rest) hc ho
    rw [hexec, reportOnline_faulted (s := s.untaken rest) hst (onlineTag_right (s := s.untaken rest) hright) hbefore,
      hnum]
    rfl
  · rw [hexec, reportOnline_notAccepted (s := s.untaken rest) hoff hfault, refuse_pair]

end Sys2Proof.Machine

/-! PROOF. Aisle tenure: the grant and the handover, CLEAR and PARK, FAULT and OFFLINE (R96 to R98, R111 to R115). -/

namespace Sys2Proof.Machine

/-! ## Holding an aisle -/

theorem aisleHeld_of_none {s : State} {v : VehicleNo} (h : s.HoldsNone v) : s.aisleHeld v = none :=
  find?_finRange_eq_none.2 fun g => decide_eq_false (h g)

theorem aisleHeld_of_only {s : State} {v : VehicleNo} {g : AisleNo} (h : s.HoldsOnly v g) : s.aisleHeld v = some g :=
  find?_finRange_eq_some.2 ⟨decide_eq_true ((h g).2 rfl), fun a ha =>
    decide_eq_false fun hholds => absurd ((h a).1 hholds) (ne_of_lt ha)⟩

/-! ## The end of a drive -/

/-- R71, R73: the states the end of a drive leads a vehicle and its order to. -/
def Drives (before vs : VehicleState) (os : OrderState) : Prop :=
  (before = .outbound ∧ vs = .loading ∧ os = .loading) ∨ (before = .laden ∧ vs = .unloading ∧ os = .unloading)

theorem endDrive_of_arrived {s : State} {v : VehicleNo}
    (h : s.vehicles[v].state = .loading ∨ s.vehicles[v].state = .unloading) : s.endDrive v = s := by
  obtain h | h := h <;> rw [State.endDrive, h]

theorem endDrive_of_drives {s : State} {v : VehicleNo} {k : OrderSlot} {o : Order} {vs : VehicleState} {os : OrderState}
    (hk : s.vehicles[v].order = some k) (ho : s.orders[k] = some o) (h : Drives s.vehicles[v].state vs os) :
    s.endDrive v = { s with
      orders := s.orders.set k (some { o with state := os })
      vehicles := s.vehicles.set v { s.vehicles[v] with state := vs } } := by
  have hadvance : s.advance v vs os = { s with
      orders := s.orders.set k (some { o with state := os })
      vehicles := s.vehicles.set v { s.vehicles[v] with state := vs } } := by
    simp only [State.advance, hk, State.modOrder, State.setOrder, ho, Option.map_some, State.modVehicle]
  obtain ⟨hst, rfl, rfl⟩ | ⟨hst, rfl, rfl⟩ := h
  · rw [← hadvance, State.endDrive, hst]
  · rw [← hadvance, State.endDrive, hst]

/-! ## A grant -/

/-- R111, R112: a GRANT but for the order's next leg. -/
theorem grant_eq (s : State) (g : AisleNo) (w : VehicleNo) (mode : AisleMode) : s.grant g w mode = State.endDrive { s with
    aisles := s.aisles.set g { s.aisles[g] with
      holder := some w, mode := mode, counter := loadCounter s.working.fleet.tenureLimit }
    vehicles := s.vehicles.set w { s.vehicles[w] with waiting := none }
    outbound := s.outbound ++ [⟨w, .grant g⟩] } w := by
  simp only [State.grant, State.modAisle, State.instruct, State.modVehicle]

theorem grant_of_arrived {s : State} {w : VehicleNo} (g : AisleNo) (mode : AisleMode)
    (h : s.vehicles[w].state = .loading ∨ s.vehicles[w].state = .unloading) : s.grant g w mode = { s with
      aisles := s.aisles.set g { s.aisles[g] with
        holder := some w, mode := mode, counter := loadCounter s.working.fleet.tenureLimit }
      vehicles := s.vehicles.set w { s.vehicles[w] with waiting := none }
      outbound := s.outbound ++ [⟨w, .grant g⟩] } := by
  rw [grant_eq, endDrive_of_arrived]
  simp only [getElem_set_fin, if_true]
  exact h

theorem grant_of_drives {s : State} {w : VehicleNo} {k : OrderSlot} {o : Order} {vs : VehicleState} {os : OrderState}
    (g : AisleNo) (mode : AisleMode) (hk : s.vehicles[w].order = some k) (ho : s.orders[k] = some o)
    (h : Drives s.vehicles[w].state vs os) : s.grant g w mode = { s with
      aisles := s.aisles.set g { s.aisles[g] with
        holder := some w, mode := mode, counter := loadCounter s.working.fleet.tenureLimit }
      orders := s.orders.set k (some { o with state := os })
      vehicles := s.vehicles.set w { s.vehicles[w] with state := vs, waiting := none }
      outbound := s.outbound ++ [⟨w, .grant g⟩] } := by
  have hself (x : Vehicle) : (s.vehicles.set w x)[w] = x := by rw [getElem_set_fin, if_pos rfl]
  rw [grant_eq, endDrive_of_drives (k := k) (o := o) (vs := vs) (os := os)]
  · simp only [hself, Vector.set_set]
  · simp only [hself]
    exact hk
  · exact ho
  · simp only [hself]
    exact h

/-! ## A handover -/

theorem handOver_free {s : State} {g : AisleNo} (h : s.aisles[g].waiting = []) :
    s.handOver g = { s with aisles := s.aisles.set g ⟨none, .free, [], .none⟩ } := by
  rw [State.handOver, h]
  rfl

theorem handOver_waiting {s : State} {g : AisleNo} {w : VehicleNo} {ws : List VehicleNo}
    (h : s.aisles[g].waiting = w :: ws) : s.handOver g =
      (s.modAisle g fun a => { a with waiting := ws }).grant g w .working := by
  rw [State.handOver, h]

theorem handOver_of_arrived {s : State} {g : AisleNo} {w : VehicleNo} {ws : List VehicleNo}
    (hw : s.aisles[g].waiting = w :: ws) (h : s.vehicles[w].state = .loading ∨ s.vehicles[w].state = .unloading) :
    s.handOver g = { s with
      aisles := s.aisles.set g ⟨some w, .working, ws, loadCounter s.working.fleet.tenureLimit⟩
      vehicles := s.vehicles.set w { s.vehicles[w] with waiting := none }
      outbound := s.outbound ++ [⟨w, .grant g⟩] } := by
  rw [handOver_waiting hw, grant_of_arrived (s := s.modAisle g _) _ _ h]
  simp only [State.modAisle, getElem_set_fin, if_true, Vector.set_set]

theorem handOver_of_drives {s : State} {g : AisleNo} {w : VehicleNo} {ws : List VehicleNo} {k : OrderSlot} {o : Order}
    {vs : VehicleState} {os : OrderState} (hw : s.aisles[g].waiting = w :: ws) (hk : s.vehicles[w].order = some k)
    (ho : s.orders[k] = some o) (h : Drives s.vehicles[w].state vs os) : s.handOver g = { s with
      aisles := s.aisles.set g ⟨some w, .working, ws, loadCounter s.working.fleet.tenureLimit⟩
      orders := s.orders.set k (some { o with state := os })
      vehicles := s.vehicles.set w { s.vehicles[w] with state := vs, waiting := none }
      outbound := s.outbound ++ [⟨w, .grant g⟩] } := by
  rw [handOver_waiting hw, grant_of_drives (s := s.modAisle g _) _ _ hk ho h]
  simp only [State.modAisle, getElem_set_fin, if_true, Vector.set_set]

/-! ## CLEAR and PARK -/

section
variable {s : State} {v : VehicleNo} {g : AisleNo}

theorem reportClear_noTenure (hst : s.vehicles[v].state ≠ .offline) (h : s.HoldsNone v) :
    s.reportClear v = s.refuse v 5 .noTenure := by
  unfold State.reportClear
  split
  · next hoff => exact absurd hoff hst
  · rw [aisleHeld_of_none h]

theorem reportClear_eq (hst : s.vehicles[v].state ≠ .offline) (h : s.HoldsOnly v g) :
    s.reportClear v = (s.ack v 5).handOver g := by
  unfold State.reportClear
  split
  · next hoff => exact absurd hoff hst
  · rw [aisleHeld_of_only h]

theorem reportPark_orderOpen (hst : s.vehicles[v].state = .outbound ∨ s.vehicles[v].state = .loading ∨
    s.vehicles[v].state = .laden ∨ s.vehicles[v].state = .unloading) :
    s.reportPark v = s.refuse v 6 .orderOpen := by
  obtain hst | hst | hst | hst := hst <;> simp only [State.reportPark, hst]

theorem reportPark_noTenure (hst : s.vehicles[v].state = .idle) (h : s.HoldsNone v) :
    s.reportPark v = s.refuse v 6 .noTenure := by
  rw [State.reportPark, hst]
  dsimp only
  rw [aisleHeld_of_none h]

theorem reportPark_eq (hst : s.vehicles[v].state = .idle) (h : s.HoldsOnly v g) :
    s.reportPark v = s.parkHolder v g := by
  rw [State.reportPark, hst]
  dsimp only
  rw [aisleHeld_of_only h]

theorem parkHolder_alone (h : s.aisles[g].waiting = []) : s.parkHolder v g = { s with
    aisles := s.aisles.set g { s.aisles[g] with mode := .parked, counter := .none }
    outbound := s.outbound ++ [⟨v, .ack 6⟩] } := by
  rw [State.parkHolder, h]
  rfl

theorem parkHolder_waiting (h : s.aisles[g].waiting ≠ []) : s.parkHolder v g = { s with
    aisles := s.aisles.set g { s.aisles[g] with mode := .calledOff }
    outbound := s.outbound ++ [⟨v, .ack 6⟩, ⟨v, .leave g⟩] } := by
  rw [State.parkHolder, if_neg (mt List.isEmpty_iff.1 h)]
  simp only [State.ack, State.instruct, State.modAisle, List.append_assoc, List.cons_append, List.nil_append]

end

/-- Settles O44: CLEAR hands the aisle over (`handOver_free`, `handOver_of_drives`), PARK parks it (`parkHolder_alone`). -/
theorem clearAndParkReports : Obligations.ClearAndParkReports := by
  refine ⟨fun s v rest htakes hst => ?_, fun s v rest htakes => ?_⟩
  · intro limit loaded
    rw [exec_clear htakes]
    refine ⟨fun hnone => ?_, fun g honly => ?_⟩
    · rw [reportClear_noTenure (s := s.untaken rest) hst hnone, refuse_pair]
    · rw [reportClear_eq (s := s.untaken rest) hst honly]
      refine ⟨fun hempty => ?_, fun w ws hw => ?_⟩
      · rw [handOver_free (s := (s.untaken rest).ack v 5) hempty]
        rfl
      · have happend : (s.outbound ++ [⟨v, .ack 5⟩]) ++ [⟨w, .grant g⟩] =
            s.outbound ++ [⟨v, .ack 5⟩, (⟨w, .grant g⟩ : Instruction)] := by simp
        refine ⟨fun harrived => ?_, fun k o vs os hk ho hdrives => ?_⟩
        · rw [handOver_of_arrived (s := (s.untaken rest).ack v 5) hw harrived, ← happend]
          rfl
        · rw [handOver_of_drives (s := (s.untaken rest).ack v 5) hw hk ho hdrives, ← happend]
          rfl
  · rw [exec_park htakes]
    refine ⟨fun hst => ?_, fun hst => ⟨fun hnone => ?_, fun g honly => ?_⟩⟩
    · rw [reportPark_orderOpen (s := s.untaken rest) hst, refuse_pair]
    · rw [reportPark_noTenure (s := s.untaken rest) hst hnone, refuse_pair]
    · rw [reportPark_eq (s := s.untaken rest) hst honly]
      refine ⟨fun hempty => ?_, fun hwait => ?_⟩
      · rw [parkHolder_alone (s := s.untaken rest) hempty]
        rfl
      · rw [parkHolder_waiting (s := s.untaken rest) hwait]
        rfl

end Sys2Proof.Machine

/-! PROOF. FAULT and OFFLINE: a vehicle that stops, and one that ends its service (R97, R98, R112, R113). -/

namespace Sys2Proof.Machine

/-! ## FAULT -/

section
variable {s : State} {v : VehicleNo}

theorem reportFault_again (code : Nat) (hst : s.vehicles[v].state = .faulted) : s.reportFault code v = { s with
    vehicles := s.vehicles.set v { s.vehicles[v] with faultCode := code }
    notices := postInto s.notices (.vehicleFault v) (.faultCode code)
    outbound := s.outbound ++ [⟨v, .ack 7⟩] } := by
  rw [State.reportFault, hst]
  simp only [State.modVehicle, State.post, State.ack, State.instruct]

/-- R97: a vehicle that stops, before its order is marked stalled (`reportFault_eq`). -/
def State.stopped (s : State) (code : Nat) (v : VehicleNo) : State :=
  (((s.modVehicle v fun x =>
    { x with state := .faulted, beforeFault := some s.vehicles[v].state, faultCode := code }).leaveIdle v).endWait v).post
      (.vehicleFault v) (.faultCode code)

theorem reportFault_eq (code : Nat) (hfault : s.vehicles[v].state ≠ .faulted) (hoff : s.vehicles[v].state ≠ .offline) :
    s.reportFault code v = ((s.stopped code v).stallOrderOf v).ack v 7 := by
  unfold State.reportFault State.stopped
  split
  · next h => exact absurd h hoff
  · next h => exact absurd h hfault
  · rfl

/-- R97, R116: a stop ends the wait, of a tenure in the aisle's waiting list too. -/
theorem stopped_eq (code : Nat) {aisles : Vector Aisle 8}
    (h : (s.vehicles[v].waiting = none ∧ aisles = s.aisles) ∨
      (∃ (n : StandNo) (a : Arm), s.vehicles[v].waiting = some (.armBusy n a) ∧ aisles = s.aisles) ∨
      ∃ g : AisleNo, s.vehicles[v].waiting = some (.tenure g) ∧ aisles = s.aisles.set g
        { s.aisles[g] with waiting := s.aisles[g].waiting.filter fun w => w ≠ v }) :
    s.stopped code v = { s with
      vehicles := s.vehicles.set v { s.vehicles[v] with
        state := .faulted, beforeFault := some s.vehicles[v].state, faultCode := code, waiting := none }
      idle := s.idle.filter fun w => w ≠ v
      aisles := aisles
      notices := postInto s.notices (.vehicleFault v) (.faultCode code) } := by
  obtain ⟨hw, rfl⟩ | ⟨n, a, hw, rfl⟩ | ⟨g, hw, rfl⟩ := h
  all_goals
    simp only [State.stopped, State.endWait, State.leaveIdle, State.modVehicle, State.modAisle, State.post,
      getElem_set_fin, if_true, hw, Vector.set_set]

theorem stallOrderOf_none (h : s.vehicles[v].order = none) : s.stallOrderOf v = s := by
  rw [State.stallOrderOf, h]

theorem stallOrderOf_some {k : OrderSlot} {o : Order} (h : s.vehicles[v].order = some k) (ho : s.orders[k] = some o) :
    s.stallOrderOf v = { s with
      orders := s.orders.set k (some { o with stalled := true })
      notices := postInto s.notices (.orderStalled k) (.order o.number) } := by
  rw [State.stallOrderOf, h]
  dsimp only
  rw [ho]
  rfl

/-! ## OFFLINE -/

/-- R98: a vehicle that ends its service, before its tenure is released (`goOffline_eq`). -/
def State.gone (s : State) (v : VehicleNo) : State := { s with
  vehicles := s.vehicles.set v { s.vehicles[v] with state := .offline, beforeFault := none, faultCode := 0 }
  idle := s.idle.filter fun w => w ≠ v
  outbound := s.outbound ++ [⟨v, .ack 8⟩] }

theorem goOffline_eq : s.goOffline v = (s.gone v).releaseTenure v := by
  simp only [State.goOffline, State.modVehicle, State.leaveIdle, State.ack, State.instruct, State.gone]

theorem reportOffline_eq (h : s.vehicles[v].state = .idle ∨ (s.vehicles[v].state = .faulted ∧ s.vehicles[v].order = none)) :
    s.reportOffline v = (s.gone v).releaseTenure v := by
  rw [← goOffline_eq]
  obtain hst | ⟨hst, horder⟩ := h
  · rw [State.reportOffline, hst]
  · rw [State.reportOffline, hst, horder]
    rfl

theorem reportOffline_orderOpen (h : s.vehicles[v].state = .outbound ∨ s.vehicles[v].state = .loading ∨
    s.vehicles[v].state = .laden ∨ s.vehicles[v].state = .unloading ∨
    (s.vehicles[v].state = .faulted ∧ s.vehicles[v].order ≠ none)) :
    s.reportOffline v = s.refuse v 8 .orderOpen := by
  obtain hst | hst | hst | hst | ⟨hst, horder⟩ := h
  · rw [State.reportOffline, hst]
  · rw [State.reportOffline, hst]
  · rw [State.reportOffline, hst]
  · rw [State.reportOffline, hst]
  · rw [State.reportOffline, hst]
    exact if_pos (Option.isSome_iff_ne_none.2 horder)

theorem releaseTenure_none (h : s.HoldsNone v) : s.releaseTenure v = s := by
  rw [State.releaseTenure, aisleHeld_of_none h]

theorem releaseTenure_eq {g : AisleNo} (h : s.HoldsOnly v g) : s.releaseTenure v = s.handOver g := by
  rw [State.releaseTenure, aisleHeld_of_only h]

theorem gone_other {w : VehicleNo} (h : w ≠ v) : (s.gone v).vehicles[w] = s.vehicles[w] := by
  rw [State.gone, getElem_set_fin, if_neg h]

end

theorem stopped_orders (s : State) (code : Nat) (v : VehicleNo) :
    (s.stopped code v).orders = s.orders := by
  rw [State.stopped]
  change ((s.modVehicle v _).leaveIdle v |>.endWait v).orders = _
  rw [State.endWait_changes]
  rfl

/-- Settles O40: the stop of a vehicle (`stopped_eq`), and the end of its service and tenure (`releaseTenure_eq`). -/
theorem faultAndOfflineReports : Obligations.FaultAndOfflineReports := by
  refine ⟨fun s v rest code aisles htakes h1 hmax => ?_, fun s v rest htakes => ?_⟩
  · intro x told
    have hcode : num [byteOf code] 0 1 = code := (num_one _ _).trans (byteOf_toNat_of_lt (by omega))
    have hreport := report?_fault (v := v) (fields := [byteOf code]) rfl (by rw [hcode]; exact h1)
    rw [hcode] at hreport
    rw [exec_fault htakes hreport]
    refine ⟨fun hst => ?_, fun hfault hoff haisles => ?_⟩
    · rw [reportFault_again (s := s.untaken rest) code hst]
      rfl
    · intro stopped
      have hstopped := stopped_eq (s := s.untaken rest) code haisles
      have hself : ((s.untaken rest).stopped code v).vehicles[v] = { x with
          state := .faulted, beforeFault := some x.state, faultCode := code, waiting := none } := by
        rw [hstopped, getElem_set_fin, if_pos rfl]
        rfl
      rw [reportFault_eq (s := s.untaken rest) code hfault hoff]
      refine ⟨fun horder => ?_, fun k o hk ho => ?_⟩
      · rw [stallOrderOf_none (by rw [hself]; exact horder), hstopped]
        rfl
      · rw [stallOrderOf_some (k := k) (o := o) (by rw [hself]; exact hk) (by rw [stopped_orders]; exact ho), hstopped]
        rfl
  · intro x limit loaded gone
    rw [exec_offline htakes]
    refine ⟨fun hst => ?_, fun hst => ?_⟩
    · rw [reportOffline_eq (s := s.untaken rest) hst]
      refine ⟨fun hnone => ?_, fun g honly => ?_⟩
      · rw [releaseTenure_none (s := (s.untaken rest).gone v) hnone]
        rfl
      · rw [releaseTenure_eq (s := (s.untaken rest).gone v) honly]
        refine ⟨fun hempty => ?_, fun w ws hne hw => ?_⟩
        · rw [handOver_free (s := (s.untaken rest).gone v) hempty]
          rfl
        · have happend : (s.outbound ++ [⟨v, .ack 8⟩]) ++ [⟨w, .grant g⟩] =
              s.outbound ++ [⟨v, .ack 8⟩, (⟨w, .grant g⟩ : Instruction)] := by simp
          have hvehicle : ((s.untaken rest).gone v).vehicles[w] = s.vehicles[w] := gone_other (s := s.untaken rest) hne
          refine ⟨fun harrived => ?_, fun k o vs os hk ho hdrives => ?_⟩
          · rw [handOver_of_arrived (s := (s.untaken rest).gone v) hw (by rw [hvehicle]; exact harrived), hvehicle,
              ← happend]
            rfl
          · rw [handOver_of_drives (s := (s.untaken rest).gone v) hw (by rw [hvehicle]; exact hk) ho
              (by rw [hvehicle]; exact hdrives), hvehicle, ← happend]
            rfl
    · rw [reportOffline_orderOpen (s := s.untaken rest) hst, refuse_pair]

end Sys2Proof.Machine

/-! PROOF. AT_PLACE: the place of the leg, the arbiter's answers, and what refuses an arrival (R71, R73, R94, R95, R111). -/

namespace Sys2Proof.Machine

/-! ## The place of the leg -/

section
variable {s : State} {v : VehicleNo} {k : OrderSlot} {o : Order} {p : Place}

theorem reportAtPlace_eq {q : Place} (hk : s.vehicles[v].order = some k) (ho : s.orders[k] = some o)
    (hleg : legPlace s.vehicles[v].state o = some q) :
    s.reportAtPlace p v = if q = p then s.atLegPlace v k p else s.refuse v 2 .wrongPlace := by
  have hiff : legPlace s.vehicles[v].state o = some p ↔ q = p := by rw [hleg, Option.some.injEq]
  unfold State.reportAtPlace
  dsimp only
  split
  · next h => rw [h] at hleg; contradiction
  · next h => rw [h] at hleg; contradiction
  · next h => rw [h] at hleg; contradiction
  · rw [hk]
    dsimp only
    rw [ho]
    exact if_congr hiff rfl rfl

theorem reportAtPlace_leg (hk : s.vehicles[v].order = some k) (ho : s.orders[k] = some o)
    (hleg : legPlace s.vehicles[v].state o = some p) : s.reportAtPlace p v = s.atLegPlace v k p :=
  (reportAtPlace_eq hk ho hleg).trans (if_pos rfl)

theorem reportAtPlace_wrongPlace (hk : s.vehicles[v].order = some k) (ho : s.orders[k] = some o)
    (h : (s.vehicles[v].state = .outbound ∨ s.vehicles[v].state = .loading) ∧ o.source ≠ p ∨
      (s.vehicles[v].state = .laden ∨ s.vehicles[v].state = .unloading) ∧ o.dest ≠ p) :
    s.reportAtPlace p v = s.refuse v 2 .wrongPlace := by
  obtain ⟨hst, hp⟩ | ⟨hst, hp⟩ := h
  · have hleg : legPlace s.vehicles[v].state o = some o.source := by obtain hst | hst := hst <;> rw [hst] <;> rfl
    exact (reportAtPlace_eq hk ho hleg).trans (if_neg hp)
  · have hleg : legPlace s.vehicles[v].state o = some o.dest := by obtain hst | hst := hst <;> rw [hst] <;> rfl
    exact (reportAtPlace_eq hk ho hleg).trans (if_neg hp)

/-- R71, R73: an AT_PLACE ends the drive with ACK outside the aisles and the busy arms. -/
theorem atLegPlace_plain (hlane : ∀ l : LaneNo, p ≠ .lane l)
    (harm : ∀ (n : StandNo) (a : Arm), p = .arm n a → s.vehicles[v].state ≠ .laden ∨
      ((s.stands[n].arm a).status = .reserved ∧ (s.stands[n].arm a).reservation = some k)) :
    s.atLegPlace v k p = (s.endDrive v).ack v 2 := by
  cases p with
  | lane l => exact absurd rfl (hlane l)
  | dock => rfl
  | exitBay => rfl
  | vehicle w => rfl
  | arm n a =>
    refine if_neg fun ⟨hladen, hbusy⟩ => ?_
    obtain h | h := harm n a rfl
    · exact h hladen
    · exact of_decide_eq_false hbusy h

/-- R95: an arm that is not RESERVED to the order makes the vehicle wait. -/
theorem atLegPlace_busy {n : StandNo} {a : Arm} (hst : s.vehicles[v].state = .laden)
    (h : (s.stands[n].arm a).status ≠ .reserved ∨ (s.stands[n].arm a).reservation ≠ some k) :
    s.atLegPlace v k (.arm n a) = { s with
      vehicles := s.vehicles.set v { s.vehicles[v] with waiting := some (.armBusy n a) }
      outbound := s.outbound ++ [⟨v, .waitArm n a⟩] } := by
  have hbusy : (s.stands[n].arm a).reservedTo k = false :=
    decide_eq_false fun ⟨hres, hslot⟩ => h.elim (absurd hres) (absurd hslot)
  refine (if_pos ⟨hst, hbusy⟩).trans ?_
  simp only [State.waitAtArm, State.instruct, State.modVehicle]

theorem atLegPlace_lane {l : LaneNo} {g : AisleNo} (hg : s.working.lanes[l].aisle = g)
    (h : s.HoldsNone v ∨ s.HoldsOnly v g) : s.atLegPlace v k (.lane l) = s.arrive g v := by
  subst hg
  unfold State.atLegPlace
  dsimp only
  obtain h | h := h
  · rw [aisleHeld_of_none h]
  · rw [aisleHeld_of_only h]
    exact if_pos rfl

theorem atLegPlace_tenureHeld {l : LaneNo} {g h : AisleNo} (hg : s.working.lanes[l].aisle = g) (hheld : s.HoldsOnly v h)
    (hne : h ≠ g) : s.atLegPlace v k (.lane l) = s.refuse v 2 .tenureHeld := by
  subst hg
  unfold State.atLegPlace
  dsimp only
  rw [aisleHeld_of_only hheld]
  exact if_neg hne

/-! ## The arbiter -/

variable {g : AisleNo} {vs : VehicleState} {os : OrderState}

/-- R71, R73, R111: the states of vehicle and order behind a grant, on the way and at the place. -/
theorem grant_of_leg (mode : AisleMode) (hk : s.vehicles[v].order = some k) (ho : s.orders[k] = some o)
    (h : Drives s.vehicles[v].state vs os ∨
      (vs = s.vehicles[v].state ∧ os = o.state ∧
        (s.vehicles[v].state = .loading ∨ s.vehicles[v].state = .unloading))) :
    s.grant g v mode = { s with
      aisles := s.aisles.set g { s.aisles[g] with
        holder := some v, mode := mode, counter := loadCounter s.working.fleet.tenureLimit }
      orders := s.orders.set k (some { o with state := os })
      vehicles := s.vehicles.set v { s.vehicles[v] with state := vs, waiting := none }
      outbound := s.outbound ++ [⟨v, .grant g⟩] } := by
  obtain hdrives | ⟨rfl, rfl, harrived⟩ := h
  · exact grant_of_drives g mode hk ho hdrives
  · have horders : s.orders.set k (some o) = s.orders := by
      rw [← ho]
      exact Vector.set_getElem_self _
    rw [grant_of_arrived g mode harrived, horders]

theorem arrive_free (h : s.aisles[g].mode = .free) : s.arrive g v = s.grant g v .working := by
  simp only [State.arrive, h]

theorem arrive_own_parked (h : s.aisles[g].mode = .parked) (hv : s.aisles[g].holder = some v) :
    s.arrive g v = s.grant g v .working := by
  simp only [State.arrive, h, hv, if_true]

theorem arrive_own_driving (h : s.aisles[g].mode = .working ∨ s.aisles[g].mode = .calledOff)
    (hv : s.aisles[g].holder = some v) (hst : s.vehicles[v].state = .outbound ∨ s.vehicles[v].state = .laden) :
    s.arrive g v = s.grant g v s.aisles[g].mode := by
  obtain h | h := h <;> obtain hst | hst := hst <;> simp only [State.arrive, h, hv, hst, if_true]

theorem arrive_own_arrived (h : s.aisles[g].mode = .working ∨ s.aisles[g].mode = .calledOff)
    (hv : s.aisles[g].holder = some v) (hst : s.vehicles[v].state = .loading ∨ s.vehicles[v].state = .unloading) :
    s.arrive g v = { s with outbound := s.outbound ++ [⟨v, .ack 2⟩] } := by
  obtain h | h := h <;> obtain hst | hst := hst <;>
    simp only [State.arrive, h, hv, hst, if_true, State.instruct, atPlaceKind]

theorem arrive_other (h : s.aisles[g].mode = .working ∨ s.aisles[g].mode = .calledOff)
    (hv : s.aisles[g].holder ≠ some v) : s.arrive g v = s.waitForAisle g v := by
  obtain h | h := h <;> simp only [State.arrive, h, if_neg hv]

theorem classOf_eq (hk : s.vehicles[v].order = some k) (ho : s.orders[k] = some o) : s.classOf v = o.kind.cls := by
  rw [State.classOf, hk, Option.bind_some, ho]

/-- R110: where a vehicle enters an aisle's waiting list. -/
def State.waitingWith (s : State) (g : AisleNo) (v : VehicleNo) : List VehicleNo :=
  if v ∈ s.aisles[g].waiting then s.aisles[g].waiting
  else if s.classOf v = .normal then s.aisles[g].waiting ++ [v]
  else s.aisles[g].waiting.takeWhile (fun w => decide (s.classOf w = .urgent)) ++
    v :: s.aisles[g].waiting.dropWhile fun w => decide (s.classOf w = .urgent)

theorem enterWaiting_eq (s : State) (g : AisleNo) (v : VehicleNo) :
    s.enterWaiting g v = { s with
      aisles := s.aisles.set g { s.aisles[g] with waiting := s.waitingWith g v } } := by
  have hself : s.aisles.set g s.aisles[g] = s.aisles := Vector.set_getElem_self _
  unfold State.enterWaiting State.waitingWith
  split
  · rw [hself]
  · cases hclass : s.classOf v with
    | normal => rw [if_pos rfl]; rfl
    | urgent => rw [if_neg nofun]; rfl

theorem waitForAisle_eq (s : State) (g : AisleNo) (v : VehicleNo) : s.waitForAisle g v = { s with
    aisles := s.aisles.set g { s.aisles[g] with waiting := s.waitingWith g v }
    vehicles := s.vehicles.set v { s.vehicles[v] with waiting := some (.tenure g) }
    outbound := s.outbound ++ [⟨v, .waitTenure g⟩] } := by
  simp only [State.waitForAisle, enterWaiting_eq, State.instruct, State.modVehicle]

/-- R111: an arrival calls off a parked holder. -/
theorem arrive_parked {w : VehicleNo} (h : s.aisles[g].mode = .parked) (hw : s.aisles[g].holder = some w)
    (hne : w ≠ v) (hempty : s.aisles[g].waiting = []) : s.arrive g v = { s with
      aisles := s.aisles.set g { s.aisles[g] with
        mode := .calledOff, counter := loadCounter s.working.fleet.tenureLimit, waiting := [v] }
      vehicles := s.vehicles.set v { s.vehicles[v] with waiting := some (.tenure g) }
      outbound := s.outbound ++ [⟨v, .waitTenure g⟩, ⟨w, .leave g⟩] } := by
  have hother : ¬ s.aisles[g].holder = some v := by
    rw [hw]
    exact fun heq => hne (Option.some.inj heq)
  have hlist {u : State} (hu : u.aisles[g].waiting = []) : u.waitingWith g v = [v] := by
    rw [State.waitingWith, hu, if_neg List.not_mem_nil]
    split <;> rfl
  have hcalled : ((s.modAisle g fun a => { a with
      mode := .calledOff, counter := loadCounter s.working.fleet.tenureLimit }).waitingWith g v) = [v] := by
    refine hlist ?_
    rw [State.modAisle, getElem_set_fin, if_pos rfl]
    exact hempty
  unfold State.arrive
  dsimp only
  rw [h]
  dsimp only
  rw [if_neg hother, hw, waitForAisle_eq, hcalled]
  simp only [State.modAisle, State.instruct, getElem_set_fin, if_true, Vector.set_set, List.append_assoc,
    List.cons_append, List.nil_append, hw]

end

theorem legPlace_driven {before vs : VehicleState} {os : OrderState} {o : Order} {p : Place}
    (h : (before = .outbound ∧ o.source = p ∧ vs = .loading ∧ os = .loading) ∨
      (before = .laden ∧ o.dest = p ∧ vs = .unloading ∧ os = .unloading)) :
    legPlace before o = some p ∧ Drives before vs os := by
  obtain ⟨rfl, rfl, rfl, rfl⟩ | ⟨rfl, rfl, rfl, rfl⟩ := h
  · exact ⟨rfl, .inl ⟨rfl, rfl, rfl⟩⟩
  · exact ⟨rfl, .inr ⟨rfl, rfl, rfl⟩⟩

theorem legPlace_arrived {before : VehicleState} {o : Order} {p : Place}
    (h : (before = .loading ∧ o.source = p) ∨ (before = .unloading ∧ o.dest = p)) :
    legPlace before o = some p ∧ (before = .loading ∨ before = .unloading) := by
  obtain ⟨rfl, rfl⟩ | ⟨rfl, rfl⟩ := h
  · exact ⟨rfl, .inl rfl⟩
  · exact ⟨rfl, .inr rfl⟩

/-- Settles O41: the leg's place (`reportAtPlace_leg`), then the arm (`atLegPlace_busy`) or the arbiter (`arrive_parked`, `grant_of_leg` and their companions). -/
theorem arrivalAtPlace : Obligations.ArrivalAtPlace := by
  intro s v rest p k o htakes hp hk ho x limit loaded driven arrived
  rw [exec_atPlace htakes (report?_atPlace hp)]
  have hat (hleg : legPlace x.state o = some p) :
      (s.untaken rest).reportAtPlace p v = (s.untaken rest).atLegPlace v k p :=
    reportAtPlace_leg (s := s.untaken rest) hk ho hleg
  refine ⟨fun vs os h => ?_, fun vs os l g h hl hg => ?_, fun h hlane => ?_, fun h => ?_⟩
  · obtain ⟨hleg, hdrives⟩ := legPlace_driven h
    rw [hat hleg]
    refine ⟨fun hlane harm => ?_, fun n a hpa hst hbusy => ?_⟩
    · rw [atLegPlace_plain (s := s.untaken rest) hlane, endDrive_of_drives (s := s.untaken rest) hk ho hdrives]
      · rfl
      · exact fun n a hpa => (harm n a hpa).imp_left fun hout => by
          change x.state ≠ .laden
          rw [hout]
          exact nofun
    · subst hpa
      rw [atLegPlace_busy (s := s.untaken rest) hst hbusy]
      rfl
  · subst hl
    have hleg : legPlace x.state o = some (.lane l) ∧ (Drives x.state vs os ∨
        (vs = x.state ∧ os = o.state ∧ (x.state = .loading ∨ x.state = .unloading))) := by
      obtain h | ⟨hvs, hos, h⟩ := h
      · exact ⟨(legPlace_driven h).1, .inl (legPlace_driven h).2⟩
      · exact ⟨(legPlace_arrived h).1, .inr ⟨hvs, hos, (legPlace_arrived h).2⟩⟩
    rw [hat hleg.1]
    intro a granted
    have hgranted (mode : AisleMode) : (s.untaken rest).grant g v mode = granted mode :=
      grant_of_leg (s := s.untaken rest) mode hk ho hleg.2
    refine ⟨fun hnone => ?_, fun honly => ?_, fun i hheld hne => ?_⟩
    · rw [atLegPlace_lane (s := s.untaken rest) hg (.inl hnone)]
      intro waits urgent
      have hwaits : (s.untaken rest).waitForAisle g v = waits ((s.untaken rest).waitingWith g v) :=
        waitForAisle_eq (s.untaken rest) g v
      refine ⟨fun hmode => ?_, fun w hmode hw hempty => ?_, fun hmode => ?_⟩
      · rw [arrive_free (s := s.untaken rest) hmode, hgranted]
      · have hne : w ≠ v := fun heq => hnone g (heq ▸ hw)
        rw [arrive_parked (s := s.untaken rest) hmode hw hne hempty]
        rfl
      · rw [arrive_other (s := s.untaken rest) hmode (hnone g), hwaits]
        have hclass : (s.untaken rest).classOf v = o.kind.cls := classOf_eq (s := s.untaken rest) hk ho
        refine ⟨fun hin => ?_, fun hout hcls => ?_, fun hout hcls => ?_⟩
        · rw [show (s.untaken rest).waitingWith g v = a.waiting from if_pos hin]
        · have hlist : (s.untaken rest).waitingWith g v = a.waiting ++ [v] :=
            (if_neg hout).trans (if_pos (hclass.trans hcls))
          rw [hlist]
        · have hlist : (s.untaken rest).waitingWith g v = a.waiting.takeWhile urgent ++ v :: a.waiting.dropWhile urgent :=
            (if_neg hout).trans (if_neg (by rw [hclass, hcls]; exact nofun))
          rw [hlist]
    · have hholds : s.aisles[g].holder = some v := (honly g).2 rfl
      rw [atLegPlace_lane (s := s.untaken rest) hg (.inr honly)]
      refine ⟨fun hst => ⟨fun hmode => ?_, fun hmode => ?_⟩, fun hst hmode => ?_⟩
      · rw [arrive_own_parked (s := s.untaken rest) hmode hholds, hgranted]
      · rw [arrive_own_driving (s := s.untaken rest) hmode hholds hst, hgranted]
        rfl
      · rw [arrive_own_arrived (s := s.untaken rest) hmode hholds hst]
        rfl
    · rw [atLegPlace_tenureHeld (s := s.untaken rest) hg hheld hne, refuse_pair]
  · obtain ⟨hleg, harrived⟩ := legPlace_arrived h
    rw [hat hleg, atLegPlace_plain (s := s.untaken rest) hlane, endDrive_of_arrived (s := s.untaken rest) harrived]
    · rfl
    · exact fun n a _ => .inl (by
        change x.state ≠ .laden
        obtain hst | hst := harrived <;> rw [hst] <;> exact nofun)
  · rw [reportAtPlace_wrongPlace (s := s.untaken rest) hk ho h, refuse_pair]

end Sys2Proof.Machine

/-! PROOF. PICKED: the roll leaves the dock, the lane front or the arm for the vehicle (R22, R72, R95, R119, R140). -/

namespace Sys2Proof.Machine

/-- R72: what every accepted pick changes, but for the place the roll leaves. -/
def State.picked (s : State) (v : VehicleNo) (k : OrderSlot) (o : Order) : State := { s with
  rolls := tableModify s.rolls o.roll fun y => { y with state := .carried, location := .vehicle v }
  vehicles := s.vehicles.set v { s.vehicles[v] with roll := some o.roll, state := .laden }
  orders := s.orders.set k (some { o with state := .laden })
  outbound := s.outbound ++ [⟨v, .ack 3⟩] }

section
variable {s : State} {v : VehicleNo} {k : OrderSlot} {o : Order}

theorem advance_eq {vs : VehicleState} {os : OrderState} (hk : s.vehicles[v].order = some k)
    (ho : s.orders[k] = some o) : s.advance v vs os = { s with
      orders := s.orders.set k (some { o with state := os })
      vehicles := s.vehicles.set v { s.vehicles[v] with state := vs } } := by
  simp only [State.advance, hk, State.modOrder, State.setOrder, ho, Option.map_some, State.modVehicle]

/-- The vehicle takes the roll and drives on (R22, R72). -/
theorem load_eq {r : RollSlot} (hk : s.vehicles[v].order = some k) (ho : s.orders[k] = some o) :
    (s.modVehicle v fun x => { x with roll := some r }).advance v .laden .laden = { s with
      orders := s.orders.set k (some { o with state := .laden })
      vehicles := s.vehicles.set v { s.vehicles[v] with roll := some r, state := .laden } } := by
  rw [advance_eq (k := k) (o := o)]
  · simp only [State.modVehicle, getElem_set_fin, if_true, Vector.set_set]
  · rw [modVehicle_self]
    exact hk
  · exact ho

/-- R22: a pick, the roll out of its place. -/
theorem pick_of_left {t : State}
    (h : ((s.ack v 3).modRoll o.roll fun r => { r with state := .carried, location := .vehicle v }).leaveSource
      o.roll o.source = t) (hk : t.vehicles[v].order = some k) (ho : t.orders[k] = some o) :
    s.pick v o = State.examineAfterPick { t with
      orders := t.orders.set k (some { o with state := .laden })
      vehicles := t.vehicles.set v { t.vehicles[v] with roll := some o.roll, state := .laden } } o.source := by
  rw [← load_eq hk ho, ← h, State.pick]

theorem examineAfterPick_dock (h : o.source = .dock) (t : State) : t.examineAfterPick o.source = t := by
  rw [h]
  rfl

theorem examineAfterPick_lane {l : LaneNo} (h : o.source = .lane l) (t : State) :
    t.examineAfterPick o.source = t.examine := by
  rw [h]
  rfl

theorem examineAfterPick_arm {n : StandNo} {a : Arm} (h : o.source = .arm n a) (t : State) :
    t.examineAfterPick o.source = t.examine := by
  rw [h]
  rfl

theorem pick_dock (hk : s.vehicles[v].order = some k) (ho : s.orders[k] = some o) (hsrc : o.source = .dock) :
    s.pick v o = { s.picked v k o with dock := s.dock.filter fun j => j ≠ o.roll } := by
  have hleft (t : State) : t.leaveSource o.roll o.source = t.leaveDock o.roll := by
    rw [hsrc]
    rfl
  rw [pick_of_left (hleft _) (k := k) hk ho, examineAfterPick_dock hsrc]
  rfl

theorem pick_lane {l : LaneNo} {tail : List RollSlot} (hk : s.vehicles[v].order = some k) (ho : s.orders[k] = some o)
    (hsrc : o.source = .lane l) (hl : s.lanes[l].contents = o.roll :: tail) :
    s.pick v o = State.examine { s.picked v k o with
      lanes := s.lanes.set l { s.lanes[l] with
        contents := tail
        binding := if tail = [] ∧ s.lanes[l].reservations = 0 then none else s.lanes[l].binding } } := by
  have hleft := leaveLane_eq
    (s := (s.ack v 3).modRoll o.roll fun r => { r with state := .carried, location := .vehicle v }) hl
  rw [pick_of_left ((congrArg (State.leaveSource _ _) hsrc).trans hleft) (k := k) hk ho, examineAfterPick_lane hsrc]
  rfl

section
variable {n : StandNo} {a : Arm}

theorem pick_arm (hk : s.vehicles[v].order = some k) (ho : s.orders[k] = some o) (hsrc : o.source = .arm n a)
    (hwaits : ∀ w : VehicleNo, s.vehicles[w].waiting ≠ some (.armBusy n a)) :
    s.pick v o = State.examine { s.picked v k o with
      stands := s.stands.set n (s.stands[n].setArm a (s.stands[n].arm a).vacated) } := by
  have hleft := vacateArm_of_none
    (s := (s.ack v 3).modRoll o.roll fun r => { r with state := .carried, location := .vehicle v }) hwaits
  rw [pick_of_left ((congrArg (State.leaveSource _ _) hsrc).trans hleft) (k := k) hk ho, examineAfterPick_arm hsrc]
  rfl

theorem pick_arm_resumes {w : VehicleNo} {c : OrderSlot} {q : Order} (hk : s.vehicles[v].order = some k)
    (ho : s.orders[k] = some o) (hsrc : o.source = .arm n a) (hne : w ≠ v)
    (hwaits : ∀ u : VehicleNo, s.vehicles[u].waiting = some (.armBusy n a) ↔ u = w)
    (hw : s.vehicles[w].order = some c) (hq : s.orders[c] = some q) :
    s.pick v o = State.examine { s.picked v k o with
      stands := s.stands.set n (s.stands[n].setArm a (s.stands[n].arm a).vacated)
      vehicles := (s.vehicles.set w { s.vehicles[w] with waiting := none }).set v
        { s.vehicles[v] with roll := some o.roll, state := .laden }
      outbound := s.outbound ++ [⟨v, .ack 3⟩, ⟨w, .resume q.number⟩] } := by
  have hleft := vacateArm_of_waiter
    (s := (s.ack v 3).modRoll o.roll fun r => { r with state := .carried, location := .vehicle v }) hwaits hw hq
  have hother (x : Vehicle) : (s.vehicles.set w x)[v] = s.vehicles[v] := by
    rw [getElem_set_fin, if_neg hne.symm]
  rw [pick_of_left ((congrArg (State.leaveSource _ _) hsrc).trans hleft) (k := k) _ ho, examineAfterPick_arm hsrc]
  · simp only [State.ack, State.instruct, State.modRoll, hother, List.append_assoc,
      List.cons_append, List.nil_append, State.picked]
  · exact (congrArg Vehicle.order (hother _)).trans hk

end

/-! ## The report -/

theorem reportPicked_noOrder (t : Nat) (h : s.vehicles[v].state = .idle ∨ s.vehicles[v].state = .outbound ∨
    s.vehicles[v].state = .laden ∨ s.vehicles[v].state = .unloading) : s.reportPicked t v = s.refuse v 3 .noOrder := by
  obtain h | h | h | h := h <;> simp only [State.reportPicked, h]

variable {r : Roll} {t : Nat}

theorem reportPicked_eq (hst : s.vehicles[v].state = .loading) (hk : s.vehicles[v].order = some k)
    (ho : s.orders[k] = some o) (hr : s.roll? o.roll = some r) :
    s.reportPicked t v = if r.tag ≠ t then s.refuse v 3 .wrongRoll
      else (s.pickRefusal v o.roll o.source).elim (s.pick v o) (s.refuse v 3) := by
  unfold State.reportPicked
  simp only [hst, hk, Option.bind_some, ho, hr, Option.map_some]
  by_cases htag : r.tag = t
  · rw [if_neg (not_not.2 (congrArg some htag)), if_neg (not_not.2 htag)]
    cases s.pickRefusal v o.roll o.source <;> rfl
  · rw [if_pos (fun h => htag (Option.some.inj h)), if_pos htag]

theorem pickRefusal_lane_untenured {l : LaneNo} {j : RollSlot}
    (h : s.aisles[s.working.lanes[l].aisle].holder ≠ some v) : s.pickRefusal v j (.lane l) = some .noTenure :=
  if_pos (decide_eq_false h)

theorem pickRefusal_lane {l : LaneNo} {j : RollSlot} (h : s.aisles[s.working.lanes[l].aisle].holder = some v) :
    s.pickRefusal v j (.lane l) = if s.lanes[l].contents = [] then some .noOrder
      else if s.lanes[l].contents.head? ≠ some j then some .wrongRoll else none := by
  have hheld : s.holdsLane v l ≠ false := by
    rw [State.holdsLane, decide_eq_true h]
    exact nofun
  exact if_neg hheld

theorem pickRefusal_lane_empty {l : LaneNo} {j : RollSlot}
    (h : s.aisles[s.working.lanes[l].aisle].holder = some v) (hl : s.lanes[l].contents = []) :
    s.pickRefusal v j (.lane l) = some .noOrder := (pickRefusal_lane h).trans (if_pos hl)

theorem pickRefusal_lane_other {l : LaneNo} {j front : RollSlot} {tail : List RollSlot}
    (h : s.aisles[s.working.lanes[l].aisle].holder = some v) (hl : s.lanes[l].contents = front :: tail)
    (hne : front ≠ j) : s.pickRefusal v j (.lane l) = some .wrongRoll := by
  rw [pickRefusal_lane h, hl]
  exact (if_neg (List.cons_ne_nil _ _)).trans (if_pos fun heq => hne (Option.some.inj heq))

theorem pickRefusal_lane_front {l : LaneNo} {j : RollSlot} {tail : List RollSlot}
    (h : s.aisles[s.working.lanes[l].aisle].holder = some v) (hl : s.lanes[l].contents = j :: tail) :
    s.pickRefusal v j (.lane l) = none := by
  rw [pickRefusal_lane h, hl]
  exact (if_neg (List.cons_ne_nil _ _)).trans (if_neg (not_not.2 rfl))

end

/-- Settles O42: the report's checks (`reportPicked_eq`), then the pick by the place the roll leaves (`pick_dock`, `pick_lane`, `pick_arm`, `pick_arm_resumes`). -/
theorem pickTakesTheRoll : Obligations.PickTakesTheRoll := by
  intro s v rest t htakes h1 hmax
  have hnum : num (beBytes 5 t) 0 5 = t := num_head [] (by omega)
  have hreport : report? ⟨v, 3, beBytes 5 t⟩ = some (.picked t) := by
    rw [report?_picked rfl (by omega) (by omega), hnum]
  rw [exec_picked htakes hreport]
  refine ⟨fun k o r hst hk ho hr => ?_, fun hst => ?_⟩
  · rw [reportPicked_eq (s := s.untaken rest) hst hk ho hr]
    intro x picked
    refine ⟨fun htag => ?_, fun htag => ?_⟩
    · rw [if_pos htag, refuse_pair]
    · rw [if_neg (not_not.2 htag)]
      have hplace {p : Place} {e : Option Reason} (hsrc : o.source = p)
          (he : (s.untaken rest).pickRefusal v o.roll p = e) :
          (s.untaken rest).pickRefusal v o.roll o.source = e := by rw [hsrc, he]
      refine ⟨fun hsrc => ?_, fun l hsrc => ⟨fun hno => ?_, fun hheld => ⟨fun hempty => ?_, fun front tail hl hne => ?_,
        fun tail hl => ?_⟩⟩, fun n a hsrc => ?_⟩
      · rw [hplace (e := none) hsrc rfl, Option.elim_none, pick_dock (s := s.untaken rest) hk ho hsrc]
        rfl
      · rw [hplace hsrc (pickRefusal_lane_untenured (s := s.untaken rest) hno), Option.elim_some, refuse_pair]
      · rw [hplace hsrc (pickRefusal_lane_empty (s := s.untaken rest) hheld hempty), Option.elim_some, refuse_pair]
      · rw [hplace hsrc (pickRefusal_lane_other (s := s.untaken rest) hheld hl hne), Option.elim_some, refuse_pair]
      · rw [hplace hsrc (pickRefusal_lane_front (s := s.untaken rest) hheld hl), Option.elim_none,
          pick_lane (s := s.untaken rest) hk ho hsrc hl]
        rfl
      · intro emptied
        rw [hplace (e := none) hsrc rfl, Option.elim_none]
        refine ⟨fun hwaits => ?_, fun w c q hne hwaits hw hq => ?_⟩
        · rw [pick_arm (s := s.untaken rest) hk ho hsrc hwaits, ArmRecord.vacated_eq]
          rfl
        · rw [pick_arm_resumes (s := s.untaken rest) hk ho hsrc hne hwaits hw hq, ArmRecord.vacated_eq]
          rfl
  · rw [reportPicked_noOrder (s := s.untaken rest) t hst, refuse_pair]

end Sys2Proof.Machine

/-! PROOF. DROPPED: the roll at the lane, the arm or the exit bay, and the order done (R47, R74, R119, R139). -/

namespace Sys2Proof.Machine

/-! ## A standby on its arm -/

@[simp] theorem Stand.setArm_state (x : Stand) (a : Arm) (r : ArmRecord) : (x.setArm a r).state = x.state := by
  cases a <;> rfl

@[simp] theorem Stand.setArm_running (x : Stand) (a : Arm) (r : ArmRecord) : (x.setArm a r).running = x.running := by
  cases a <;> rfl

@[simp] theorem Arm.other_other (a : Arm) : a.other.other = a := by cases a <;> rfl

section
variable {s : State} {n : StandNo} {a : Arm} {k : RollSlot} {r : Roll}

theorem standbyStatus_ready (h : s.requirement n = some r.kind) : s.standbyStatus n r = .ready :=
  if_pos (decide_eq_true h)

theorem standbyStatus_mismatch (h : s.requirement n ≠ some r.kind) : s.standbyStatus n r = .mismatch :=
  if_neg (by rw [State.matchesPlan, decide_eq_false h]; exact nofun)

/-- R139: a roll laid on its arm, with the status the comparison gives it. -/
def State.standbyAt (s : State) (n : StandNo) (a : Arm) (k : RollSlot) (status : ArmStatus) : State := { s with
  rolls := tableModify s.rolls k fun x => { x with state := .standby, location := .arm n a }
  stands := s.stands.set n (s.stands[n].setArm a ⟨status, some k, none⟩) }

theorem placeStandby_eq {status : ArmStatus} (h : s.standbyStatus n r = status) : s.placeStandby n a k r =
    if status = .mismatch then (s.standbyAt n a k status).post (.standbyMismatch n) (.tag r.tag)
    else if (s.standbyAt n a k status).stands[n].state = .spliceDue ∧
        (s.standbyAt n a k status).stands[n].standbyArm = some a then (s.standbyAt n a k status).enterSplicing n
    else s.standbyAt n a k status := by
  subst h
  rfl

theorem standbyAt_stand (status : ArmStatus) :
    (s.standbyAt n a k status).stands[n] = s.stands[n].setArm a ⟨status, some k, none⟩ := by
  rw [State.standbyAt, getElem_set_fin, if_pos rfl]

theorem placeStandby_mismatch (h : s.requirement n ≠ some r.kind) :
    s.placeStandby n a k r = (s.standbyAt n a k .mismatch).post (.standbyMismatch n) (.tag r.tag) :=
  (placeStandby_eq (standbyStatus_mismatch h)).trans (if_pos rfl)

theorem placeStandby_ready (h : s.requirement n = some r.kind) (hst : s.stands[n].state ≠ .spliceDue) :
    s.placeStandby n a k r = s.standbyAt n a k .ready := by
  rw [placeStandby_eq (standbyStatus_ready h), if_neg nofun, standbyAt_stand, Stand.setArm_state]
  exact if_neg fun hdue => hst hdue.1

theorem placeStandby_splices (h : s.requirement n = some r.kind) (hst : s.stands[n].state = .spliceDue)
    (hrun : s.stands[n].running = some a.other) :
    s.placeStandby n a k r = (s.standbyAt n a k .ready).enterSplicing n := by
  rw [placeStandby_eq (standbyStatus_ready h), if_neg nofun, standbyAt_stand, Stand.setArm_state, Stand.standbyArm,
    Stand.setArm_running, hrun, Option.map_some, Arm.other_other]
  exact if_pos ⟨hst, rfl⟩

end

/-! ## The order done -/

/-- R74: what every accepted drop changes, but for the place of the roll and the notices posted there. -/
def State.dropped (s : State) (v : VehicleNo) (k : OrderSlot) (o : Order) (notices : List Notice) : State := { s with
  orders := s.orders.set k
    (some { o with state := .done, vehicle := none, late := o.late || decide (o.deadline = .expired), deadline := .none })
  vehicles := s.vehicles.set v { s.vehicles[v] with roll := none, order := none, state := .idle }
  idle := s.idle ++ [v]
  notices := postInto notices (.orderDone k) (.orderDone o.number (o.late || decide (o.deadline = .expired)))
  outbound := s.outbound ++ [⟨v, .ack 4⟩] }

/-- A claim that ends (R74). -/
def unclaimed (rolls : List (Nat × Roll)) (k : RollSlot) : List (Nat × Roll) :=
  tableModify rolls k fun r => { r with claim := none }

section
variable {s : State} {v : VehicleNo} {k : OrderSlot} {o : Order} {r : Roll}

/-- R74: a drop is the roll's placing, then the rest. -/
theorem complete_of_placed {rolls : List (Nat × Roll)} {lanes : Vector Lane 32} {stands : Vector Stand 8}
    {notices : List Notice}
    (h : (s.modVehicle v fun x => { x with roll := none }).placeDropped o.roll r o.dest =
      { s.modVehicle v fun x => { x with roll := none } with
        rolls := rolls, lanes := lanes, stands := stands, notices := notices }) :
    s.complete v k o r = State.examine { s.dropped v k o notices with
      rolls := unclaimed rolls o.roll, lanes := lanes, stands := stands } := by
  unfold State.complete
  dsimp only
  rw [h]
  simp only [State.modVehicle, State.unclaim, State.modRoll, State.setOrder, State.post, State.enterIdle, State.ack,
    State.instruct, getElem_set_fin, if_true, Vector.set_set, State.dropped, unclaimed]

theorem placeDropped_exitBay (t : State) (j : RollSlot) (h : o.dest = .exitBay) :
    t.placeDropped j r o.dest = { t with rolls := tableErase t.rolls j } := by
  rw [h]
  rfl

theorem placeDropped_lane {l : LaneNo} (t : State) (j : RollSlot) (h : o.dest = .lane l) :
    t.placeDropped j r o.dest = { t with
      rolls := tableModify t.rolls j fun x => { x with state := .stored, location := .lane l }
      lanes := t.lanes.set l { t.lanes[l] with
        contents := t.lanes[l].contents ++ [j], reservations := t.lanes[l].reservations - 1 } } := by
  rw [h]
  rfl

theorem placeDropped_arm {n : StandNo} {a : Arm} (t : State) (j : RollSlot) (h : o.dest = .arm n a) :
    t.placeDropped j r o.dest = t.placeStandby n a j r := by
  rw [h]
  rfl

theorem complete_exitBay (hdest : o.dest = .exitBay) : s.complete v k o r =
    State.examine { s.dropped v k o s.notices with rolls := tableErase s.rolls o.roll } := by
  rw [complete_of_placed (placeDropped_exitBay _ _ hdest), unclaimed]
  simp only [State.modVehicle, tableModify_tableErase, State.dropped]

theorem complete_lane {l : LaneNo} (hdest : o.dest = .lane l) : s.complete v k o r =
    State.examine { s.dropped v k o s.notices with
      rolls := tableModify s.rolls o.roll fun x => { x with state := .stored, location := .lane l, claim := none }
      lanes := s.lanes.set l { s.lanes[l] with
        contents := s.lanes[l].contents ++ [o.roll], reservations := s.lanes[l].reservations - 1 } } := by
  rw [complete_of_placed (placeDropped_lane _ _ hdest), unclaimed]
  simp only [State.modVehicle, tableModify_tableModify, State.dropped]

section
variable {n : StandNo} {a : Arm}

/-- The register behind a drop on an arm (R139). -/
def standbyRolls (s : State) (n : StandNo) (a : Arm) (k : RollSlot) : List (Nat × Roll) :=
  tableModify s.rolls k fun x => { x with state := .standby, location := .arm n a, claim := none }

theorem unclaimed_standbyAt (status : ArmStatus) (j : RollSlot) :
    unclaimed (s.standbyAt n a j status).rolls j = standbyRolls s n a j :=
  tableModify_tableModify s.rolls j (fun x => { x with state := .standby, location := .arm n a })
    fun x => { x with claim := none }

theorem complete_arm {stands : Vector Stand 8} {notices : List Notice} (hdest : o.dest = .arm n a)
    (h : (s.modVehicle v fun x => { x with roll := none }).placeStandby n a o.roll r =
      { s.modVehicle v fun x => { x with roll := none } with
        rolls := (s.standbyAt n a o.roll .ready).rolls, stands := stands, notices := notices }) :
    s.complete v k o r = State.examine { s.dropped v k o notices with
      rolls := standbyRolls s n a o.roll, stands := stands } := by
  rw [complete_of_placed ((placeDropped_arm _ _ hdest).trans h), unclaimed_standbyAt]
  rfl

theorem complete_mismatch (hdest : o.dest = .arm n a) (h : s.requirement n ≠ some r.kind) :
    s.complete v k o r = State.examine { s.dropped v k o (postInto s.notices (.standbyMismatch n) (.tag r.tag)) with
      rolls := standbyRolls s n a o.roll
      stands := s.stands.set n (s.stands[n].setArm a ⟨.mismatch, some o.roll, none⟩) } :=
  complete_arm hdest (placeStandby_mismatch (s := s.modVehicle v _) h)

theorem complete_ready (hdest : o.dest = .arm n a) (h : s.requirement n = some r.kind)
    (hst : s.stands[n].state ≠ .spliceDue) :
    s.complete v k o r = State.examine { s.dropped v k o s.notices with
      rolls := standbyRolls s n a o.roll
      stands := s.stands.set n (s.stands[n].setArm a ⟨.ready, some o.roll, none⟩) } :=
  complete_arm hdest (placeStandby_ready (s := s.modVehicle v _) h hst)

theorem complete_splices (hdest : o.dest = .arm n a) (h : s.requirement n = some r.kind)
    (hst : s.stands[n].state = .spliceDue) (hrun : s.stands[n].running = some a.other) :
    s.complete v k o r = State.examine { s.dropped v k o s.notices with
      rolls := standbyRolls s n a o.roll
      stands := s.stands.set n { s.stands[n].setArm a ⟨.ready, some o.roll, none⟩ with
        state := .splicing, window := s.working.stands[n].spliceWindow } } := by
  refine complete_arm hdest ((placeStandby_splices (s := s.modVehicle v _) h hst hrun).trans ?_)
  simp only [State.enterSplicing, State.modStand, State.standbyAt, State.modVehicle, getElem_set_fin, if_true,
    Vector.set_set]

end

/-! ## The report -/

theorem reportDropped_eq (hst : s.vehicles[v].state = .unloading) (hk : s.vehicles[v].order = some k)
    (ho : s.orders[k] = some o) (hr : s.roll? o.roll = some r) : s.reportDropped v =
      if s.dropRefused v o.dest then s.refuse v 4 .noTenure else s.complete v k o r := by
  unfold State.reportDropped
  simp only [hst, hk, ho, hr]

theorem reportDropped_complete (hst : s.vehicles[v].state = .unloading) (hk : s.vehicles[v].order = some k)
    (ho : s.orders[k] = some o) (hr : s.roll? o.roll = some r)
    (hplace : ∀ l : LaneNo, o.dest = .lane l → s.aisles[s.working.lanes[l].aisle].holder = some v) :
    s.reportDropped v = s.complete v k o r := by
  have hno : ¬ s.dropRefused v o.dest = true := by
    unfold State.dropRefused
    split
    · next l hl =>
      rw [State.holdsLane, decide_eq_true (hplace l hl)]
      exact nofun
    · exact nofun
  exact (reportDropped_eq hst hk ho hr).trans (if_neg hno)

theorem reportDropped_noTenure {l : LaneNo} (hst : s.vehicles[v].state = .unloading)
    (hk : s.vehicles[v].order = some k) (ho : s.orders[k] = some o) (hr : s.roll? o.roll = some r)
    (hl : o.dest = .lane l) (h : s.aisles[s.working.lanes[l].aisle].holder ≠ some v) :
    s.reportDropped v = s.refuse v 4 .noTenure := by
  rw [reportDropped_eq hst hk ho hr, hl]
  exact if_pos (by rw [State.dropRefused, State.holdsLane, decide_eq_false h]; rfl)

end

/-- Settles O43: an accepted drop by the place of the roll (`complete_exitBay`, `complete_lane`, `complete_mismatch`, `complete_ready`, `complete_splices`). -/
theorem dropCompletesTheOrder : Obligations.DropCompletesTheOrder := by
  intro s v rest k o r htakes hst hk ho hr late done
  rw [exec_dropped htakes]
  have hcomplete (hplace : ∀ l : LaneNo, o.dest = .lane l → s.aisles[s.working.lanes[l].aisle].holder = some v) :
      (s.untaken rest).reportDropped v = (s.untaken rest).complete v k o r :=
    reportDropped_complete (s := s.untaken rest) hst hk ho hr hplace
  refine ⟨fun hdest => ?_, fun l hdest => ⟨fun hheld => ?_, fun hno => ?_⟩, fun n a hdest => ?_⟩
  · rw [hcomplete fun l hl => Place.noConfusion (hdest.symm.trans hl), complete_exitBay hdest]
    rfl
  · have hplace (l' : LaneNo) (hl : o.dest = .lane l') : s.aisles[s.working.lanes[l'].aisle].holder = some v := by
      cases hdest.symm.trans hl
      exact hheld
    rw [hcomplete hplace, complete_lane hdest]
    rfl
  · rw [reportDropped_noTenure (s := s.untaken rest) hst hk ho hr hdest hno, refuse_pair]
  · intro rolls arm
    rw [hcomplete fun l hl => Place.noConfusion (hdest.symm.trans hl)]
    refine ⟨fun hno => ?_, fun hfits => ⟨fun hdue => ?_, fun hdue hrun => ?_⟩⟩
    · rw [complete_mismatch (s := s.untaken rest) hdest hno]
      rfl
    · rw [complete_ready (s := s.untaken rest) hdest hfits hdue]
      rfl
    · rw [complete_splices (s := s.untaken rest) hdest hfits hdue hrun]
      rfl

end Sys2Proof.Machine

/-! PROOF. The fleet link: the receiver's scan, the frame of an instruction, and its end (R101, R103, R107, R184). -/

namespace Sys2Proof.Machine

/-! ## One round of the receiver -/

/-- A complete frame of length `n` at the head of `body`: the bytes behind it and what it does. -/
def frameIn (n : Byte) (body : List Byte) : List Byte × (State → State) :=
  match body with
  | vehicle :: kind :: tail =>
    (body.drop (n.toNat + 1), fun s => s.takeFrame vehicle kind (tail.take (n.toNat - 2)))
  | _ => (n :: body, id)

/-- What one round of the receiver makes of its bytes: nothing while a frame may be under way, else the bytes left and what a complete frame does (`scanFrames_succ`). -/
def scanRound (bytes : List Byte) : Option (List Byte × (State → State)) :=
  match bytes with
  | [] => none
  | start :: rest =>
    if start ≠ 0x7E then some (rest, id)
    else
      match rest with
      | [] => none
      | n :: body =>
        if body.length < n.toNat + 1 then none
        else if 2 ≤ n.toNat ∧ n.toNat ≤ 13 ∧ byteSum (n :: body.take (n.toNat + 1)) = 0 then some (frameIn n body)
        else some (n :: body, id)

theorem scanFrames_succ (fuel : Nat) (bytes : List Byte) (s : State) : scanFrames (fuel + 1) bytes s =
    (scanRound bytes).elim { s with lineBytes := bytes } fun r => scanFrames fuel r.1 (r.2 s) := by
  unfold scanRound
  conv_lhs => unfold scanFrames
  match bytes with
  | [] => rfl
  | start :: rest =>
    dsimp only
    by_cases hstart : start ≠ 0x7E
    · rw [if_pos hstart, if_pos hstart]
      rfl
    · rw [if_neg hstart, if_neg hstart]
      match rest with
      | [] => rfl
      | n :: body =>
        dsimp only
        by_cases hshort : body.length < n.toNat + 1
        · rw [if_pos hshort, if_pos hshort]
          rfl
        · rw [if_neg hshort, if_neg hshort]
          by_cases hgood : 2 ≤ n.toNat ∧ n.toNat ≤ 13 ∧ byteSum (n :: body.take (n.toNat + 1)) = 0
          · rw [if_pos hgood, if_pos hgood]
            match body with
            | [] => rfl
            | [_] => rfl
            | _ :: _ :: _ => rfl
          · rw [if_neg hgood, if_neg hgood]
            rfl

theorem scanRound_outside {start : Byte} (rest : List Byte) (h : start ≠ 0x7E) :
    scanRound (start :: rest) = some (rest, id) := if_pos h

section
variable {n : Byte} {body : List Byte}

theorem scanRound_started : scanRound (0x7E :: n :: body) =
    if body.length < n.toNat + 1 then none
    else if 2 ≤ n.toNat ∧ n.toNat ≤ 13 ∧ byteSum (n :: body.take (n.toNat + 1)) = 0 then some (frameIn n body)
    else some (n :: body, id) := rfl

theorem scanRound_dropped (hlong : n.toNat + 1 ≤ body.length)
    (hbad : ¬ (2 ≤ n.toNat ∧ n.toNat ≤ 13 ∧ byteSum (n :: body.take (n.toNat + 1)) = 0)) :
    scanRound (0x7E :: n :: body) = some (n :: body, id) := 
  scanRound_started.trans ((if_neg (not_lt.2 hlong)).trans (if_neg hbad))

theorem scanRound_frame {vehicle kind : Byte} {tail : List Byte} (hbody : body = vehicle :: kind :: tail)
    (hlong : n.toNat + 1 ≤ body.length)
    (hgood : 2 ≤ n.toNat ∧ n.toNat ≤ 13 ∧ byteSum (n :: body.take (n.toNat + 1)) = 0) :
    scanRound (0x7E :: n :: body) =
      some (body.drop (n.toNat + 1), fun s => s.takeFrame vehicle kind (tail.take (n.toNat - 2))) := by
  refine scanRound_started.trans ((if_neg (not_lt.2 hlong)).trans ((if_pos hgood).trans ?_))
  subst hbody
  rfl

end

theorem scanFrames_nil (fuel : Nat) (s : State) : scanFrames fuel [] s = { s with lineBytes := [] } := by
  cases fuel <;> rfl

theorem takeFrame_lineBytes (s : State) (vehicle kind : Byte) (fields more : List Byte) :
    ({ s with lineBytes := more } : State).takeFrame vehicle kind fields =
      { s.takeFrame vehicle kind fields with lineBytes := more } := by
  unfold State.takeFrame
  split
  · rfl
  · split <;> rfl

/-- What is known of a round: it takes a byte off, it does not look at the bytes kept before, and more bytes behind do not change it. -/
structure ScanRound (bytes rest : List Byte) (f : State → State) : Prop where
  shorter : rest.length < bytes.length
  lineBytes : ∀ (s : State) more, f { s with lineBytes := more } = { f s with lineBytes := more }
  more : ∀ more, scanRound (bytes ++ more) = some (rest ++ more, f)

/-- A round with `n` and `body` behind a start byte. -/
theorem scanRound_some_started {n : Byte} {body rest : List Byte} {f : State → State}
    (h : scanRound (0x7E :: n :: body) = some (rest, f)) : ScanRound (0x7E :: n :: body) rest f := by
  by_cases hlong : n.toNat + 1 ≤ body.length
  · have hlonger (more : List Byte) : n.toNat + 1 ≤ (body ++ more).length := by
      rw [List.length_append]
      omega
    have hsame (more : List Byte) : (body ++ more).take (n.toNat + 1) = body.take (n.toNat + 1) :=
      List.take_append_of_le_length hlong
    by_cases hgood : 2 ≤ n.toNat ∧ n.toNat ≤ 13 ∧ byteSum (n :: body.take (n.toNat + 1)) = 0
    · obtain ⟨vehicle, kind, tail, hbody⟩ : ∃ vehicle kind tail, body = vehicle :: kind :: tail := by
        match body with
        | [] => simp only [List.length_nil] at hlong; omega
        | [_] => simp only [List.length_cons, List.length_nil] at hlong; omega
        | b :: c :: tail => exact ⟨b, c, tail, rfl⟩
      rw [scanRound_frame hbody hlong hgood] at h
      obtain ⟨rfl, rfl⟩ := Prod.mk.inj (Option.some.inj h)
      have htail : n.toNat - 2 ≤ tail.length := by
        rw [hbody] at hlong
        simp only [List.length_cons] at hlong
        omega
      refine ⟨?_, fun s more => takeFrame_lineBytes _ _ _ _ _, fun more => ?_⟩
      · simp only [List.length_drop, List.length_cons]
        omega
      · rw [← List.take_append_of_le_length (l₂ := more) htail, ← List.drop_append_of_le_length (l₂ := more) hlong]
        exact scanRound_frame (body := body ++ more) (congrArg (· ++ more) hbody) (hlonger more) (by rw [hsame]; exact hgood)
    · rw [scanRound_dropped hlong hgood] at h
      obtain ⟨rfl, rfl⟩ := Prod.mk.inj (Option.some.inj h)
      exact ⟨Nat.lt_succ_self _, fun _ _ => rfl, fun more =>
        scanRound_dropped (body := body ++ more) (hlonger more) (by rw [hsame]; exact hgood)⟩
  · have hwait : scanRound (0x7E :: n :: body) = none :=
      scanRound_started.trans (if_pos (not_le.1 hlong))
    rw [hwait] at h
    contradiction

theorem scanRound_some {bytes rest : List Byte} {f : State → State} (h : scanRound bytes = some (rest, f)) :
    ScanRound bytes rest f := by
  match bytes with
  | [] => contradiction
  | start :: tail =>
    by_cases hstart : start ≠ 0x7E
    · rw [scanRound_outside tail hstart] at h
      obtain ⟨rfl, rfl⟩ := Prod.mk.inj (Option.some.inj h)
      exact ⟨Nat.lt_succ_self _, fun _ _ => rfl, fun more => scanRound_outside _ hstart⟩
    · obtain rfl := not_not.1 hstart
      match tail with
      | [] => contradiction
      | n :: body => exact scanRound_some_started h

/-! ## The scan of all bytes -/

/-- FLEET_FRAME's scan, with the fuel that suffices. -/
def scan (bytes : List Byte) (s : State) : State := scanFrames bytes.length bytes s

theorem exec_fleetFrame (bytes : List Byte) (s : State) :
    exec (.fleetFrame bytes) s = .next (scan (s.lineBytes ++ bytes) s) := rfl

theorem scanFrames_of_le {fuel : Nat} {bytes : List Byte} (s : State) (h : bytes.length ≤ fuel) :
    scanFrames fuel bytes s = scan bytes s := by
  unfold scan
  induction fuel using Nat.strong_induction_on generalizing bytes s with
  | _ fuel ih =>
    cases bytes with
    | nil => rw [scanFrames_nil, scanFrames_nil]
    | cons b bs =>
      obtain ⟨m, rfl⟩ := Nat.exists_eq_add_of_lt (show 0 < fuel by simp only [List.length_cons] at h; omega)
      rw [Nat.zero_add, List.length_cons, scanFrames_succ, scanFrames_succ]
      cases hround : scanRound (b :: bs) with
      | none => rfl
      | some r =>
        have hshort := (scanRound_some hround).shorter
        rw [List.length_cons] at hshort h
        rw [Option.elim_some, Option.elim_some, ih m (by omega) _ (by omega)]
        by_cases hm : bs.length < m + 1
        · exact (ih bs.length (by omega) _ (by omega)).symm
        · rw [show bs.length = m by omega]
          exact (ih m (by omega) _ (by omega)).symm

theorem scan_eq (bytes : List Byte) (s : State) :
    scan bytes s = (scanRound bytes).elim { s with lineBytes := bytes } fun r => scan r.1 (r.2 s) := by
  cases bytes with
  | nil => exact scanFrames_nil _ _
  | cons b bs =>
    rw [scan, List.length_cons, scanFrames_succ]
    cases hround : scanRound (b :: bs) with
    | none => rfl
    | some r =>
      have hshort := (scanRound_some hround).shorter
      rw [List.length_cons] at hshort
      exact scanFrames_of_le _ (by omega)

theorem scan_lineBytes (bytes more : List Byte) (s : State) : scan bytes { s with lineBytes := more } = scan bytes s := by
  induction hlen : bytes.length using Nat.strong_induction_on generalizing bytes s with
  | _ _ ih =>
    rw [scan_eq, scan_eq bytes]
    cases hround : scanRound bytes with
    | none => rfl
    | some r =>
      have hr := scanRound_some hround
      rw [Option.elim_some, Option.elim_some, hr.lineBytes]
      exact ih _ (hlen ▸ hr.shorter) _ _ rfl

/-- R103: the bytes of the line may arrive in any pieces. -/
theorem scan_append (bytes more : List Byte) (s : State) :
    scan ((scan bytes s).lineBytes ++ more) (scan bytes s) = scan (bytes ++ more) s := by
  induction hlen : bytes.length using Nat.strong_induction_on generalizing bytes s with
  | _ _ ih =>
    cases hround : scanRound bytes with
    | none =>
      rw [scan_eq bytes s, hround]
      exact scan_lineBytes _ _ _
    | some r =>
      have hr := scanRound_some hround
      rw [scan_eq bytes s, hround, Option.elim_some, ih _ (hlen ▸ hr.shorter) r.1 (r.2 s) rfl, scan_eq (bytes ++ more) s,
        hr.more, Option.elim_some]

/-! ## One frame -/

theorem byteSum_eq_sum (bytes : List Byte) : byteSum bytes = bytes.sum := by
  have hfold (a : Byte) : bytes.foldl (· + ·) a = a + bytes.sum := by
    induction bytes generalizing a with
    | nil => exact (add_zero a).symm
    | cons b bs ih => rw [List.foldl_cons, ih, List.sum_cons, add_assoc]
  exact (hfold 0).trans (zero_add _)

theorem checkByte_sum (n : Byte) (body : List Byte) : n + body.sum + (0 - byteSum (n :: body)) = 0 := by
  rw [byteSum_eq_sum, List.sum_cons, zero_sub, add_neg_cancel]

/-- Bytes without a start byte leave nothing behind (R103). -/
theorem scan_noStart {bytes : List Byte} (s : State) (h : 0x7E ∉ bytes) : scan bytes s = { s with lineBytes := [] } := by
  induction bytes generalizing s with
  | nil => exact scanFrames_nil _ _
  | cons b bs ih =>
    obtain ⟨hb, hbs⟩ := not_or.1 (mt List.mem_cons.2 h)
    have hround : scanRound (b :: bs) = some (bs, id) := scanRound_outside bs (Ne.symm hb)
    rw [scan_eq, hround]
    exact ih s hbs

theorem scan_bad {n : Nat} {body : List Byte} (s : State) (hn : n < 256) (hstart : n ≠ 0x7E) (hlen : body.length = n + 1)
    (hbody : 0x7E ∉ body) (hbad : n < 2 ∨ 13 < n ∨ byteOf n + body.sum ≠ 0) :
    scan (0x7E :: byteOf n :: body) s = { s with lineBytes := [] } := by
  have htoNat := byteOf_toNat_of_lt hn
  have hround : scanRound (0x7E :: byteOf n :: body) = some (byteOf n :: body, id) := by
    refine scanRound_dropped (by omega) fun ⟨h2, h13, hsum⟩ => ?_
    rw [List.take_of_length_le (by omega), byteSum_eq_sum, List.sum_cons] at hsum
    rw [htoNat] at h2 h13
    exact hbad.elim (by omega) fun h => h.elim (by omega) fun h => h hsum
  have hn' : byteOf n ≠ 0x7E := fun h => hstart (by rw [← htoNat, h]; rfl)
  rw [scan_eq, hround]
  exact scan_noStart _ (mt List.mem_cons.1 (not_or.2 ⟨Ne.symm hn', hbody⟩))

theorem scan_good {fields : List Byte} {v kind check : Byte} (s : State) (hlen : fields.length ≤ 11)
    (hsum : byteOf (fields.length + 2) + v + kind + fields.sum + check = 0) :
    scan (0x7E :: byteOf (fields.length + 2) :: v :: kind :: (fields ++ [check])) s =
      { s.takeFrame v kind fields with lineBytes := [] } := by
  have htoNat := byteOf_toNat_of_lt (show fields.length + 2 < 256 by omega)
  have hbody : (v :: kind :: (fields ++ [check])).length = fields.length + 2 + 1 := by simp
  have hround : scanRound (0x7E :: byteOf (fields.length + 2) :: v :: kind :: (fields ++ [check])) =
      some ([], fun s => s.takeFrame v kind fields) := by
    refine (scanRound_frame rfl (by omega) ⟨by omega, by omega, ?_⟩).trans ?_
    · rw [List.take_of_length_le (by omega), byteSum_eq_sum, ← hsum]
      simp only [List.sum_cons, List.sum_append, List.sum_nil]
      abel
    · rw [htoNat, List.drop_of_length_le (by omega), Nat.add_sub_cancel, List.take_left]
  rw [scan_eq, hround]
  exact scanFrames_nil _ _

theorem takeFrame_eq (s : State) (v : VehicleNo) (kind : Byte) (fields : List Byte) :
    s.takeFrame (byteOf v.val) kind fields =
      if v.val < s.working.fleet.fitted ∧ s.received.length < 8 ∧ s.device = .ready then
        { s with received := s.received ++ [⟨v, kind, fields⟩] } else s := by
  rw [State.takeFrame, fin?_byteOf v (by decide)]
  rfl

/-! ## Instructions -/

theorem message_bytes_length (m : Message) : 1 ≤ m.bytes.length ∧ m.bytes.length ≤ 12 := by
  cases m <;> simp [Message.bytes]

theorem pairingVehicle_of_idle {s : State} (o : Order) (h : s.idle = []) : s.pairingVehicle o = none := by
  have hmem (w : VehicleNo) : w ∉ s.idle := by
    rw [h]
    exact List.not_mem_nil
  have hparked : s.parkedAtSource o = none := by
    unfold State.parkedAtSource
    split
    · dsimp only
      split
      · exact Option.filter_eq_none_iff.2 fun w _ hw => hmem w (of_decide_eq_true hw)
      · rfl
    · rfl
  rw [State.pairingVehicle, hparked, h]
  rfl

/-- R70: without an order or a vehicle that waits there is nothing to pair. -/
theorem pair_of_idle {s : State} (h : s.waiting = [] ∨ s.idle = []) : s.pair = s := by
  have hone : s.pairOne = none := by
    cases hp : s.pairOne with
    | none => rfl
    | some t =>
      obtain ⟨k, tail, o, v, hw, -, hv, -⟩ := pairOne_eq_some hp
      obtain h | h := h
      · rw [h] at hw
        contradiction
      · rw [pairingVehicle_of_idle o h] at hv
        contradiction
  unfold State.pair
  cases s.waiting.length with
  | zero => rfl
  | succ fuel => rw [pairUpTo, hone]

/-- Settles O37: the scan of a frame (`scan_good`, `scan_bad`), its pieces (`scan_append`), and the frames of instructions. -/
theorem fleetLinkFramesAndQueue : Obligations.FleetLinkFramesAndQueue := by
  refine ⟨fun s v kind check fields hline hlen hsum => ?_, fun s n body hline hn hstart hlen hbody hbad => ?_,
    fun s t bytes more h => ?_, fun i => ?_, fun s hnone => ?_, fun s i hsome => ?_⟩
  · intro frame
    rw [exec_fleetFrame, hline, List.nil_append, scan_good s hlen hsum, takeFrame_eq]
    refine ⟨fun hready hfitted hroom => ?_, fun hno => ?_⟩
    · rw [if_pos ⟨hfitted, hroom, hready⟩]
    · rw [if_neg]
      · rw [← hline]
      rintro ⟨hfitted, hroom, hready⟩
      obtain h | h | h := hno
      · exact h hready
      · omega
      · omega
  · rw [exec_fleetFrame, hline, List.nil_append, scan_bad s hn hstart hlen hbody hbad, ← hline]
  · obtain rfl := Host.Outcome.next.inj ((exec_fleetFrame _ _).symm.trans h)
    rw [exec_fleetFrame, exec_fleetFrame, scan_append, List.append_assoc]
  · refine ⟨byteOf i.vehicle.val :: i.message.bytes, _, rfl, checkByte_sum _ _, rfl, ?_⟩
    · have hlen := message_bytes_length i.message
      rw [List.length_cons]
      omega
  · have hexec : exec .instructionSent s = .next (State.pair { s with outbound := s.outbound.tail }) := by
      obtain ⟨i, hsome, -⟩ | ⟨-, h⟩ := instructionSent_cases s
      · rw [hnone] at hsome
        contradiction
      · exact h
    exact ⟨hexec, fun hidle => hexec.trans (congrArg Host.Outcome.next (pair_of_idle hidle))⟩
  · obtain ⟨_, -, h⟩ | ⟨hnone, -⟩ := instructionSent_cases s
    · exact h
    · rw [hsome] at hnone
      contradiction

end Sys2Proof.Machine

/-! PROOF. The mark checks of a running roll: what each finds to do, and what it leaves (R128 to R131, R133). -/

namespace Sys2Proof.Machine

/-! ## Stands under an examination -/

@[simp] theorem Stand.setArm_spliceMark (x : Stand) (a : Arm) (r : ArmRecord) :
    (x.setArm a r).spliceMark = x.spliceMark := by cases a <;> rfl

theorem modStand_self (s : State) (n : StandNo) (f : Stand → Stand) : (s.modStand n f).stands[n] = f s.stands[n] := by
  rw [State.modStand, getElem_set_fin, if_pos rfl]

/-- R65, R84: a served entry changes nothing of a stand but its arms. -/
theorem fed_stand {β : Type} (s : State) (m n : StandNo) (c : FeedChoice) (slot : OrderSlot) (f : Stand → β)
    (hf : ∀ x a r, f (x.setArm a r) = f x) : f (s.fed n c slot).stands[m] = f s.stands[m] := by
  by_cases h : m = n
  · subst h
    obtain ⟨_, heq⟩ := fed_eq s m c slot
    rw [heq]
    dsimp only
    rw [State.modArm, modStand_self, hf]
  · rw [fed_stands_other h]

theorem examine_stand {β : Type} (s : State) (m : StandNo) (f : Stand → β) (hf : ∀ x a r, f (x.setArm a r) = f x) :
    f s.examine.stands[m] = f s.stands[m] :=
  examine_induction (P := fun t => f t.stands[m] = f s.stands[m]) rfl
    fun t n c slot ht _ => (fed_stand t m n c slot f hf).trans ht

/-! ## The standby compared -/

section
variable {s : State} {n : StandNo}

theorem standbyReady_iff {a : Arm} (hrun : s.stands[n].running = some a) :
    s.stands[n].standbyReady = true ↔ (s.stands[n].arm a.other).status = .ready := by
  rw [Stand.standbyReady, Stand.standbyArm, hrun, Option.map_some]
  exact decide_eq_true_iff

theorem demote_matching {a : Arm} {j : RollSlot} {q : Roll} (notify : Bool) (hj : (s.stands[n].arm a).roll = some j)
    (hq : s.roll? j = some q) (h : s.requirement n = some q.kind) : s.demote n a notify = s := by
  unfold State.demote
  dsimp only
  split
  · next r _ hr =>
    rw [hj, Option.bind_some, hq] at hr
    cases hr
    exact if_pos (decide_eq_true h)
  · rfl

theorem demote_other {a : Arm} {j : RollSlot} {q : Roll} (hst : (s.stands[n].arm a).status = .ready)
    (hj : (s.stands[n].arm a).roll = some j) (hq : s.roll? j = some q) (h : s.requirement n ≠ some q.kind) :
    s.demote n a true = { s with
      stands := s.stands.set n (s.stands[n].setArm a { s.stands[n].arm a with status := .mismatch })
      notices := postInto s.notices (.standbyMismatch n) (.tag q.tag) } := by
  have hno : ¬ s.matchesPlan n q = true := by
    rw [State.matchesPlan, decide_eq_false h]
    exact nofun
  have hroll : (s.stands[n].arm a).roll.bind s.roll? = some q := by rw [hj, Option.bind_some, hq]
  unfold State.demote
  dsimp only
  rw [hst, hroll]
  dsimp only
  rw [if_neg hno, if_pos rfl]
  rfl

theorem compareStandby_eq {a : Arm} (notify : Bool) (hrun : s.stands[n].running = some a) :
    s.compareStandby n notify = s.demote n a.other notify := by
  rw [State.compareStandby, Stand.standbyArm, hrun, Option.map_some]

/-! ## Each check -/

theorem callUpCheck_quiet {r : Nat} (h : s.stands[n].CallUpQuiet r) : s.callUpCheck n r = s := by
  refine if_neg fun ⟨hmark, hraised, hr⟩ => ?_
  obtain h | h | h := h
  · exact hmark h
  · rw [h] at hraised
    contradiction
  · omega

/-- R129: the call-up posted, before the demand it may raise. -/
def State.calledUp (s : State) (n : StandNo) (r : Nat) : State := { s with
  stands := s.stands.set n { s.stands[n] with callUpRaised := true }
  notices := postInto s.notices (.callUp n) (.metres r) }

theorem calledUp_stand (r : Nat) : (s.calledUp n r).stands[n] = { s.stands[n] with callUpRaised := true } := by
  rw [State.calledUp, getElem_set_fin, if_pos rfl]

theorem calledUp_feedArmClear (r : Nat) : (s.calledUp n r).feedArmClear n = s.feedArmClear n := by
  unfold State.feedArmClear
  rw [calledUp_stand]
  rfl

theorem callUpCheck_called {r : Nat} (h : ¬ s.stands[n].CallUpQuiet r) : s.callUpCheck n r =
    if s.feedArmClear n then (s.calledUp n r).raiseDemand n else s.calledUp n r := by
  have hcalls : s.stands[n].callUpMark ≠ 0 ∧ s.stands[n].callUpRaised = false ∧ r ≤ s.stands[n].callUpMark := by
    obtain ⟨hmark, hraised, hr⟩ : s.stands[n].callUpMark ≠ 0 ∧ s.stands[n].callUpRaised ≠ true ∧
      ¬ s.stands[n].callUpMark < r := by
      rw [← not_or, ← not_or]
      exact h
    exact ⟨hmark, Bool.eq_false_iff.2 hraised, not_lt.1 hr⟩
  rw [← calledUp_feedArmClear r]
  exact if_pos hcalls

theorem raiseDemand_appends (hopen : s.openFeed n = none) (hout : n ∉ s.demand) :
    s.raiseDemand n = (State.examine { s with demand := s.demand ++ [n] }).postShort n := by
  have hno : ¬ ((s.openFeed n).isSome = true ∨ n ∈ s.demand) := by
    rw [hopen]
    exact not_or.2 ⟨nofun, hout⟩
  rw [State.raiseDemand, if_neg hno, State.appendDemand, if_neg hno]

theorem zeroCheck_idle {r : Nat} (tag : Nat) (h : 0 < r ∨ s.stands[n].state.canRunOut = false) :
    s.zeroCheck n r tag = s := by
  refine if_neg fun ⟨hr, hcan⟩ => ?_
  obtain h | h := h
  · omega
  · rw [h] at hcan
    contradiction

theorem canRunOut_eq_false {x : StandState} (h : x = .off ∨ x = .empty ∨ x = .webOut) : x.canRunOut = false := by
  obtain rfl | rfl | rfl := h <;> rfl

/-- R130: the web runs out. -/
def State.ranOut (s : State) (n : StandNo) (tag : Nat) : State := { s with
  stands := s.stands.set n { s.stands[n] with state := .webOut }
  notices := postInto s.notices (.webOut n) (.tag tag) }

theorem zeroCheck_runsOut (tag : Nat)
    (h : s.stands[n].state = .loaded ∨ s.stands[n].state = .spliceDue ∨ s.stands[n].state = .spliceHeld) :
    s.zeroCheck n 0 tag = s.ranOut n tag := by
  unfold State.zeroCheck
  obtain h | h | h := h <;> rw [h] <;> exact (if_pos ⟨rfl, rfl⟩).trans rfl

theorem zeroCheck_splicing (tag : Nat) (h : s.stands[n].state = .splicing) :
    s.zeroCheck n 0 tag = ((s.setStandState n .webOut).compareStandby n true).post (.webOut n) (.tag tag) := by
  unfold State.zeroCheck
  rw [h]
  exact (if_pos ⟨rfl, rfl⟩).trans rfl

theorem spliceMarkCheck_quiet {r : Nat} (h : s.stands[n].SpliceQuiet r) : s.spliceMarkCheck n r = s := by
  refine if_neg fun ⟨hst, hmark, hr⟩ => ?_
  obtain h | h | h := h
  · exact h hst
  · exact hmark h
  · omega

theorem spliceMarkCheck_due {r : Nat} {a : Arm} (hst : s.stands[n].state = .loaded) (hmark : s.stands[n].spliceMark ≠ 0)
    (hr : r ≤ s.stands[n].spliceMark) (hrun : s.stands[n].running = some a) : s.spliceMarkCheck n r =
      if (s.stands[n].arm a.other).status = .ready then s.enterSplicing n else s.setStandState n .spliceDue :=
  (if_pos ⟨hst, hmark, hr⟩).trans (if_congr (standbyReady_iff hrun) rfl rfl)

/-! ## The checks together -/

variable {r : Roll}

theorem markChecks_eq (h : s.runningRoll n = some r) : s.markChecks n =
    ((s.callUpCheck n r.remaining).zeroCheck n r.remaining r.tag).spliceMarkCheck n r.remaining := by
  rw [State.markChecks, h]

/-- R128: nothing to do at a remaining length. -/
theorem markChecks_quiet (h : s.runningRoll n = some r) (hcall : s.stands[n].CallUpQuiet r.remaining)
    (hzero : 0 < r.remaining ∨ s.stands[n].state.canRunOut = false) (hsplice : s.stands[n].SpliceQuiet r.remaining) :
    s.markChecks n = s := by
  rw [markChecks_eq h, callUpCheck_quiet hcall, zeroCheck_idle _ hzero, spliceMarkCheck_quiet hsplice]

theorem markChecks_runsOut (h : s.runningRoll n = some r) (hcall : s.stands[n].CallUpQuiet r.remaining)
    (hzero : r.remaining = 0)
    (hst : s.stands[n].state = .loaded ∨ s.stands[n].state = .spliceDue ∨ s.stands[n].state = .spliceHeld) :
    s.markChecks n = s.ranOut n r.tag := by
  rw [markChecks_eq h, callUpCheck_quiet hcall, hzero, zeroCheck_runsOut _ hst, spliceMarkCheck_quiet]
  refine .inl ?_
  rw [State.ranOut, getElem_set_fin, if_pos rfl]
  exact nofun

section
variable {a : Arm} {j : RollSlot} {q : Roll}

theorem markChecks_splicing (h : s.runningRoll n = some r) (hcall : s.stands[n].CallUpQuiet r.remaining)
    (hzero : r.remaining = 0) (hst : s.stands[n].state = .splicing) (hrun : s.stands[n].running = some a) :
    s.markChecks n = (((s.setStandState n .webOut).demote n a.other true).post (.webOut n)
      (.tag r.tag)).spliceMarkCheck n 0 := by
  have hrun' : (s.setStandState n .webOut).stands[n].running = some a := by
    rw [State.setStandState, modStand_self]
    exact hrun
  rw [markChecks_eq h, callUpCheck_quiet hcall, hzero, zeroCheck_splicing _ hst, compareStandby_eq _ hrun']

theorem setArm_of_state (x : Stand) (a : Arm) (r : ArmRecord) (st : StandState) :
    ({ x with state := st } : Stand).setArm a r = { x.setArm a r with state := st } := by cases a <;> rfl

theorem arm_of_state (x : Stand) (a : Arm) (st : StandState) : ({ x with state := st } : Stand).arm a = x.arm a := by
  cases a <;> rfl

theorem markChecks_splicing_matching (h : s.runningRoll n = some r) (hcall : s.stands[n].CallUpQuiet r.remaining)
    (hzero : r.remaining = 0) (hst : s.stands[n].state = .splicing) (hrun : s.stands[n].running = some a)
    (hj : (s.stands[n].arm a.other).roll = some j) (hq : s.roll? j = some q)
    (hreq : s.requirement n = some q.kind) : s.markChecks n = s.ranOut n r.tag := by
  have hstand : (s.setStandState n .webOut).stands[n] = { s.stands[n] with state := .webOut } := modStand_self _ _ _
  have hj' : ((s.setStandState n .webOut).stands[n].arm a.other).roll = some j := by rw [hstand, arm_of_state, hj]
  rw [markChecks_splicing h hcall hzero hst hrun, demote_matching true hj' hq hreq, spliceMarkCheck_quiet]
  · rfl
  · refine .inl ?_
    change (s.setStandState n .webOut).stands[n].state ≠ _
    rw [hstand]
    exact nofun

theorem markChecks_splicing_mismatch (h : s.runningRoll n = some r) (hcall : s.stands[n].CallUpQuiet r.remaining)
    (hzero : r.remaining = 0) (hst : s.stands[n].state = .splicing) (hrun : s.stands[n].running = some a)
    (hready : (s.stands[n].arm a.other).status = .ready) (hj : (s.stands[n].arm a.other).roll = some j)
    (hq : s.roll? j = some q) (hreq : s.requirement n ≠ some q.kind) : s.markChecks n = { s with
      stands := s.stands.set n
        { s.stands[n].setArm a.other { s.stands[n].arm a.other with status := .mismatch } with state := .webOut }
      notices := postInto (postInto s.notices (.standbyMismatch n) (.tag q.tag)) (.webOut n) (.tag r.tag) } := by
  have hstand : (s.setStandState n .webOut).stands[n] = { s.stands[n] with state := .webOut } := modStand_self _ _ _
  have hready' : ((s.setStandState n .webOut).stands[n].arm a.other).status = .ready := by
    rw [hstand, arm_of_state, hready]
  have hj' : ((s.setStandState n .webOut).stands[n].arm a.other).roll = some j := by rw [hstand, arm_of_state, hj]
  rw [markChecks_splicing h hcall hzero hst hrun, demote_other hready' hj' hq hreq, hstand, arm_of_state,
    setArm_of_state, spliceMarkCheck_quiet]
  · simp only [State.setStandState, State.modStand, State.post, Vector.set_set]
  · refine .inl ?_
    simp only [State.post, getElem_set_fin, if_true]
    exact nofun

theorem markChecks_due (h : s.runningRoll n = some r) (hcall : s.stands[n].CallUpQuiet r.remaining)
    (hpos : 0 < r.remaining) (hst : s.stands[n].state = .loaded) (hmark : s.stands[n].spliceMark ≠ 0)
    (hr : r.remaining ≤ s.stands[n].spliceMark) (hrun : s.stands[n].running = some a) : s.markChecks n =
      if (s.stands[n].arm a.other).status = .ready then s.enterSplicing n else s.setStandState n .spliceDue := by
  rw [markChecks_eq h, callUpCheck_quiet hcall, zeroCheck_idle _ (.inl hpos), spliceMarkCheck_due hst hmark hr hrun]

end

theorem postShort_stands (t : State) (n : StandNo) : (t.postShort n).stands = t.stands := by
  unfold State.postShort
  split <;> rfl

theorem markChecks_called (h : s.runningRoll n = some r) (hcall : ¬ s.stands[n].CallUpQuiet r.remaining)
    (hpos : 0 < r.remaining) (hsplice : s.stands[n].SpliceQuiet r.remaining) :
    (s.feedArmClear n = false → s.markChecks n = s.calledUp n r.remaining) ∧
    (s.feedArmClear n = true → s.openFeed n = none → n ∉ s.demand → s.markChecks n =
      (State.examine { s.calledUp n r.remaining with demand := s.demand ++ [n] }).postShort n) := by
  have hquiet {t : State} (hstate : t.stands[n].state = s.stands[n].state)
      (hmark : t.stands[n].spliceMark = s.stands[n].spliceMark) :
      (t.zeroCheck n r.remaining r.tag).spliceMarkCheck n r.remaining = t := by
    rw [zeroCheck_idle _ (.inl hpos), spliceMarkCheck_quiet]
    rw [Stand.SpliceQuiet, hstate, hmark]
    exact hsplice
  rw [markChecks_eq h, callUpCheck_called hcall]
  refine ⟨fun hclear => ?_, fun hclear hopen hout => ?_⟩
  · rw [hclear, if_neg Bool.false_ne_true, hquiet]
    · rw [calledUp_stand]
    · rw [calledUp_stand]
  · rw [hclear, if_pos rfl, raiseDemand_appends (s := s.calledUp n r.remaining) hopen hout, hquiet]
    · rfl
    · rw [postShort_stands, examine_stand _ n Stand.state Stand.setArm_state]
      change (s.calledUp n r.remaining).stands[n].state = _
      rw [calledUp_stand]
    · rw [postShort_stands, examine_stand _ n Stand.spliceMark Stand.setArm_spliceMark]
      change (s.calledUp n r.remaining).stands[n].spliceMark = _
      rw [calledUp_stand]

end

/-- Settles O48: each check's effect by the remaining length and the stand's state (`markChecks_quiet` and its companions). -/
theorem markChecksOfRunningRoll : Obligations.MarkChecksOfRunningRoll := by
  intro s n r h st told
  refine ⟨fun hcall => ⟨fun hidle hsplice => ?_, fun hzero hst => markChecks_runsOut h hcall hzero hst,
    fun a j q hzero hst hrun hready hj hq => ⟨fun hreq => ?_, fun hreq => ?_⟩,
    fun a hpos hst hmark hr hrun => ⟨fun hready => ?_, fun hready => ?_⟩⟩, fun hcall hpos hsplice => ?_⟩
  · exact markChecks_quiet h hcall (hidle.imp_right canRunOut_eq_false) hsplice
  · exact markChecks_splicing_matching h hcall hzero hst hrun hj hq hreq
  · exact markChecks_splicing_mismatch h hcall hzero hst hrun hready hj hq hreq
  · exact (markChecks_due h hcall hpos hst hmark hr hrun).trans (if_pos hready)
  · exact (markChecks_due h hcall hpos hst hmark hr hrun).trans (if_neg hready)
  · exact markChecks_called h hcall hpos hsplice

end Sys2Proof.Machine

/-! PROOF. The tracking hold, SPLICE NOW, and the metres up to the end of the splice window (R127, R132 to R134). -/

namespace Sys2Proof.Machine

/-! ## Requests that name a stand -/

theorem withStand_named (n : StandNo) (fields : List Byte) (body : StandNo → Reply) :
    withStand (byteAt (byteOf n.val :: fields) 0) body = body n := by
  rw [withStand, byteAt_zero, fin?_byteOf n (by decide)]

theorem exec_holdTracking (s : State) : exec .holdTracking s = .next (s.serve .holdTracking holdTracking) := rfl

theorem exec_releaseTracking (s : State) :
    exec .releaseTracking s = .next (s.serve .releaseTracking releaseTracking) := rfl

theorem exec_spliceNow (s : State) : exec .spliceNow s = .next (s.serve .spliceNow spliceNow) := rfl

section
variable {s : State} {n : StandNo}

theorem setHold_ok (hold : Bool) (h : s.stands[n].state ≠ .off) : s.setHold (byteAt [byteOf n.val] 0) hold =
    .ok { s with stands := s.stands.set n { s.stands[n] with trackingHold := hold } } [flagByte hold] :=
  (withStand_named n [] _).trans (if_neg h)

theorem setHold_off (hold : Bool) (h : s.stands[n].state = .off) :
    s.setHold (byteAt [byteOf n.val] 0) hold = .refuse .wrongState := (withStand_named n [] _).trans (if_pos h)

theorem spliceNow_eq : spliceNow [byteOf n.val] s =
    if s.stands[n].state.spliceable ∧ s.stands[n].standbyReady then
      .ok (s.enterSplicing n) [byteOf s.working.stands[n].spliceWindow]
    else .refuse .wrongState := withStand_named n [] _

theorem spliceable_iff {x : StandState} : x.spliceable = true ↔ x = .loaded ∨ x = .spliceDue ∨ x = .spliceHeld := by
  cases x <;> decide

/-- R134: what SPLICE NOW refuses. -/
theorem not_spliceable (h : s.stands[n].state = .off ∨ s.stands[n].state = .empty ∨ s.stands[n].state = .splicing ∨
    s.stands[n].state = .webOut ∨ s.stands[n].running = none ∨
    (∃ a, s.stands[n].running = some a ∧ (s.stands[n].arm a.other).status ≠ .ready)) :
    ¬ (s.stands[n].state.spliceable = true ∧ s.stands[n].standbyReady = true) := by
  rintro ⟨hable, hready⟩
  obtain h | h | h | h | h | ⟨a, hrun, hno⟩ := h
  · rw [h] at hable
    contradiction
  · rw [h] at hable
    contradiction
  · rw [h] at hable
    contradiction
  · rw [h] at hable
    contradiction
  · rw [Stand.standbyReady, Stand.standbyArm, h] at hready
    contradiction
  · exact hno ((standbyReady_iff hrun).1 hready)

/-! ## A metre step in SPLICING -/

theorem demote_cases (s : State) (n : StandNo) (a : Arm) : s.demote n a true = s ∨ ∃ q : Roll, s.demote n a true = { s with
    stands := s.stands.set n (s.stands[n].setArm a { s.stands[n].arm a with status := .mismatch })
    notices := postInto s.notices (.standbyMismatch n) (.tag q.tag) } := by
  unfold State.demote
  dsimp only
  split
  · next q _ _ =>
    split
    · exact .inl rfl
    · exact .inr ⟨q, rfl⟩
  · exact .inl rfl

@[simp] theorem Stand.setArm_window (x : Stand) (a : Arm) (r : ArmRecord) : (x.setArm a r).window = x.window := by
  cases a <;> rfl

/-- What a comparison of the standby keeps of its stand, the register and the notices (R133, R141). -/
theorem compareStandby_fields (s : State) (n : StandNo) :
    (s.compareStandby n true).stands[n].state = s.stands[n].state ∧
    (s.compareStandby n true).stands[n].window = s.stands[n].window ∧
    (s.compareStandby n true).rolls = s.rolls ∧
    ∀ e ∈ s.notices, e.key ≠ .standbyMismatch n → e ∈ (s.compareStandby n true).notices := by
  unfold State.compareStandby
  split
  · exact ⟨rfl, rfl, rfl, fun e he _ => he⟩
  · next a _ =>
    obtain heq | ⟨q, heq⟩ := demote_cases s n a
    · rw [heq]
      exact ⟨rfl, rfl, rfl, fun e he _ => he⟩
    · rw [heq]
      simp only [getElem_set_fin, if_true, Stand.setArm_state, Stand.setArm_window]
      exact ⟨trivial, trivial, trivial, fun e he hkey => mem_postInto_of_mem he hkey⟩

/-- A stand in SPLICING whose running roll outlasts the window, and whose call-up check has nothing to do. -/
structure State.Splicing (s : State) (n : StandNo) (a : Arm) (k : RollSlot) (r : Roll) : Prop where
  state : s.stands[n].state = .splicing
  running : s.stands[n].running = some a
  slot : (s.stands[n].arm a).roll = some k
  roll : s.roll? k = some r
  mark : s.stands[n].callUpMark = 0
  below : s.stands[n].window < r.remaining

theorem runningRoll_eq {a : Arm} {k : RollSlot} {r : Roll} (hrun : s.stands[n].running = some a)
    (hk : (s.stands[n].arm a).roll = some k) (hr : s.roll? k = some r) : s.runningRoll n = some r := by
  rw [State.runningRoll, State.runningSlot, hrun, Option.bind_some, hk, Option.bind_some, hr]

theorem runningSlot_eq {a : Arm} {k : RollSlot} (hrun : s.stands[n].running = some a)
    (hk : (s.stands[n].arm a).roll = some k) : s.runningSlot n = some k := by
  rw [State.runningSlot, hrun, Option.bind_some, hk]

variable {a : Arm} {k : RollSlot} {r : Roll}

theorem stepped_eq (h : 0 < r.remaining) : r.stepped = { r with remaining := r.remaining - 1 } := if_pos h

theorem State.Splicing.stepped (h : s.Splicing n a k r) (hw : 1 ≤ s.stands[n].window) :
    ((s.modRoll k Roll.stepped).markChecks n).countPaper n =
      { s.modRoll k Roll.stepped with jobs := ((s.modRoll k Roll.stepped).countPaper n).jobs } := by
  have hbelow := h.below
  have hroll : (s.modRoll k Roll.stepped).roll? k = some { r with remaining := r.remaining - 1 } := by
    rw [modRoll_roll_self, h.roll, Option.map_some, stepped_eq (by omega)]
  rw [markChecks_quiet (s := s.modRoll k Roll.stepped) (runningRoll_eq h.running h.slot hroll) (.inl h.mark)
    (.inl (by dsimp only; omega)) (.inl _), State.countPaper_changes]
  change s.stands[n].state ≠ .loaded
  rw [h.state]
  exact nofun

theorem metreStep_of_slot (h : s.runningSlot n = some k) :
    s.metreStep n = (((s.modRoll k Roll.stepped).markChecks n).countPaper n).countWindow n := by
  rw [State.metreStep, h]

/-- The window counted down (R133). -/
theorem countWindow_splicing (h : s.stands[n].state = .splicing) : s.countWindow n =
    if s.stands[n].window - 1 = 0 then
      (s.modStand n fun x => { x with window := x.window - 1 }).windowExpiry n
    else s.modStand n fun x => { x with window := x.window - 1 } := by
  rw [State.countWindow, if_pos h]
  dsimp only
  rw [modStand_self]

theorem countWindow_idle (h : s.stands[n].state ≠ .splicing) : s.countWindow n = s := if_neg h

/-- A metre that does not end the window (R133). -/
theorem State.Splicing.metreStep (h : s.Splicing n a k r) (hw : 2 ≤ s.stands[n].window) :
    (s.metreStep n).Splicing n a k { r with remaining := r.remaining - 1 } ∧
      (s.metreStep n).stands[n].window = s.stands[n].window - 1 := by
  have hroll : (s.modRoll k Roll.stepped).roll? k = some { r with remaining := r.remaining - 1 } := by
    rw [modRoll_roll_self, h.roll, Option.map_some, stepped_eq (by have := h.below; omega)]
  have hstep : s.metreStep n = ({ s.modRoll k Roll.stepped with
      jobs := ((s.modRoll k Roll.stepped).countPaper n).jobs } : State).modStand n fun x =>
        { x with window := x.window - 1 } := by
    rw [metreStep_of_slot (runningSlot_eq h.running h.slot), h.stepped (by omega), countWindow_splicing]
    · exact if_neg (show ¬ s.stands[n].window - 1 = 0 by omega)
    · exact h.state
  have hstand : (s.metreStep n).stands[n] = { s.stands[n] with window := s.stands[n].window - 1 } := by
    rw [hstep, modStand_self]
    rfl
  refine ⟨⟨?_, ?_, ?_, ?_, ?_, ?_⟩, ?_⟩
  · rw [hstand]
    exact h.state
  · rw [hstand]
    exact h.running
  · rw [hstand]
    have harm : ({ s.stands[n] with window := s.stands[n].window - 1 } : Stand).arm a = s.stands[n].arm a := by
      cases a <;> rfl
    rw [harm]
    exact h.slot
  · rw [hstep]
    exact hroll
  · rw [hstand]
    exact h.mark
  · rw [hstand]
    have := h.below
    dsimp only
    omega
  · rw [hstand]

/-- What the metres up to the end of the window leave (R133). -/
structure State.WindowEnded (t : State) (n : StandNo) (k : RollSlot) (r : Roll) : Prop where
  state : t.stands[n].state = .spliceHeld
  window : t.stands[n].window = 0
  roll : t.roll? k = some r
  notice : ∃ e ∈ t.notices, e.key = .spliceFailed n ∧ e.detail = .metres r.remaining

theorem windowExpiry_ended (h : s.runningRoll n = some r) (hk : s.roll? k = some r) (hw : s.stands[n].window = 0) :
    (s.windowExpiry n).WindowEnded n k r := by
  obtain ⟨hstate, hwindow, hrolls, hnotices⟩ := compareStandby_fields
    ((s.setStandState n .spliceHeld).post (.spliceFailed n) (.metres (s.runningMetres n))) n
  have hstand : ((s.setStandState n .spliceHeld).post (.spliceFailed n) (.metres (s.runningMetres n))).stands[n] =
      { s.stands[n] with state := .spliceHeld } := by
    change (s.modStand n fun x => { x with state := .spliceHeld }).stands[n] = _
    rw [modStand_self]
  have hmetres : s.runningMetres n = r.remaining := by rw [State.runningMetres, h]
  refine ⟨?_, ?_, ?_, ?_⟩
  · rw [State.windowExpiry, hstate, hstand]
  · rw [State.windowExpiry, hwindow, hstand]
    exact hw
  · rw [State.windowExpiry, State.roll?, hrolls]
    exact hk
  · obtain ⟨e, he, hkey, hdetail⟩ := mem_postInto_self s.notices (.spliceFailed n) (.metres (s.runningMetres n))
    exact ⟨e, hnotices e he (by rw [hkey]; exact nofun), hkey, by rw [hdetail, hmetres]⟩

/-- The metre that ends the window (R133). -/
theorem State.Splicing.metreStep_last (h : s.Splicing n a k r) (hw : s.stands[n].window = 1) :
    (s.metreStep n).WindowEnded n k { r with remaining := r.remaining - 1 } := by
  have hroll : (s.modRoll k Roll.stepped).roll? k = some { r with remaining := r.remaining - 1 } := by
    rw [modRoll_roll_self, h.roll, Option.map_some, stepped_eq (by have := h.below; omega)]
  have hslot := h.slot
  rw [metreStep_of_slot (runningSlot_eq h.running h.slot), h.stepped (by omega), countWindow_splicing]
  · refine (congrArg (State.WindowEnded · n k _) (if_pos (show s.stands[n].window - 1 = 0 by omega))).mpr ?_
    refine windowExpiry_ended (runningRoll_eq (a := a) (k := k) ?_ ?_ ?_) ?_ ?_
    · rw [modStand_self]
      exact h.running
    · rw [modStand_self]
      cases a <;> exact hslot
    · exact hroll
    · exact hroll
    · rw [modStand_self]
      change s.stands[n].window - 1 = 0
      omega
  · exact h.state

/-! ## The metres up to the end of the window -/

theorem splicingSteps_succ (fuel : Nat) (h : s.stands[n].state = .splicing) :
    splicingSteps n (fuel + 1) s = splicingSteps n fuel (s.metreStep n) := if_pos h

theorem State.Splicing.splicingSteps (h : s.Splicing n a k r) {w : Nat} (hw : s.stands[n].window = w + 1) :
    (splicingSteps n (w + 1) s).WindowEnded n k { r with remaining := r.remaining - (w + 1) } := by
  induction w generalizing s r with
  | zero =>
    rw [splicingSteps_succ 0 h.state]
    exact h.metreStep_last hw
  | succ w ih =>
    obtain ⟨hnext, hwindow⟩ := h.metreStep (by omega)
    rw [splicingSteps_succ _ h.state]
    have hended := ih hnext (by omega)
    rwa [show r.remaining - (w + 1 + 1) = r.remaining - 1 - (w + 1) by omega]

theorem exec_spliceWindowExpiry (hdevice : s.device = .ready) (hhold : s.stands[n].trackingHold = false) :
    exec (.spliceWindowExpiry n) s = .next (splicingSteps n (max 1 s.stands[n].window) s).pair :=
  congrArg Host.Outcome.next (if_pos ⟨hdevice, hhold⟩)

theorem exec_spliceWindowExpiry_idle (h : s.device ≠ .ready ∨ s.stands[n].trackingHold = true) :
    exec (.spliceWindowExpiry n) s = .next s := by
  refine congrArg Host.Outcome.next (if_neg fun ⟨hdevice, hhold⟩ => ?_)
  obtain h | h := h
  · exact h hdevice
  · rw [h] at hhold
    contradiction

end

/-- Settles O47: the requests by the stand's state, and the window's end by induction on the metres left of it (`State.Splicing.splicingSteps`). -/
theorem trackingHoldAndSpliceWindow : Obligations.TrackingHoldAndSpliceWindow := by
  refine ⟨fun s tag rest n => ?_, fun s n h => exec_spliceWindowExpiry_idle h,
    fun s n a k r hdevice hst hhold hrun hk hr hw hbelow hmark => ?_⟩
  · intro st window
    have hlen : ([byteOf n.val] : List Byte).length = 1 := rfl
    refine ⟨fun hserves => ⟨fun hst => ?_, fun hst => ?_⟩, fun hserves => ⟨fun hst => ?_, fun hst => ?_⟩,
      fun hserves => ⟨fun a hst hrun hready => ?_, fun hno => ?_⟩⟩
    · rw [exec_holdTracking, serve_ok hserves hlen (setHold_ok (s := s.unqueued rest) true hst)]
      rfl
    · rw [exec_holdTracking, serve_refused hserves hlen (setHold_off (s := s.unqueued rest) true hst)]
    · rw [exec_releaseTracking, serve_ok hserves hlen (setHold_ok (s := s.unqueued rest) false hst)]
      rfl
    · rw [exec_releaseTracking, serve_refused hserves hlen (setHold_off (s := s.unqueued rest) false hst)]
    · have hable := spliceable_iff.2 hst
      have hbody := (spliceNow_eq (s := s.unqueued rest) (n := n)).trans
        (if_pos ⟨hable, (standbyReady_iff (s := s.unqueued rest) hrun).2 hready⟩)
      rw [exec_spliceNow, serve_ok hserves hlen hbody]
      rfl
    · have hbody := (spliceNow_eq (s := s.unqueued rest) (n := n)).trans
        (if_neg (not_spliceable (s := s.unqueued rest) hno))
      rw [exec_spliceNow, serve_refused hserves hlen hbody]
  · have hsplicing : s.Splicing n a k r := ⟨hst, hrun, hk, hr, hmark, hbelow⟩
    have hended := hsplicing.splicingSteps (w := s.stands[n].window - 1) (by omega)
    rw [Nat.sub_add_cancel hw] at hended
    rw [exec_spliceWindowExpiry hdevice hhold, max_eq_right hw]
    refine ⟨_, rfl, ?_⟩
    rw [State.pair_changes]
    refine ⟨hended.state, hended.window, ?_, hended.roll, hended.notice⟩
    exact decide_eq_false (by
      dsimp only
      rw [hended.state]
      exact nofun)

end Sys2Proof.Machine

/-! PROOF. STRIP and SET MARKS (R13, R14, R142, R143). -/

namespace Sys2Proof.Machine

theorem exec_strip (s : State) : exec .strip s = .next (s.serve .strip strip) := rfl

theorem exec_setMarks (s : State) : exec .setMarks s = .next (s.serve .setMarks setMarks) := rfl

section
variable {s : State} {n : StandNo} {a : Arm} {m : Nat}

theorem strip_eq (hm : m ≤ 65535) : strip (byteOf n.val :: Arm.code a :: beBytes 2 m) s =
    if m = 0 then .refuse .badField
    else if s.stands[n].state = .off then .refuse .wrongState
    else ((s.stands[n].arm a).roll.bind fun k => (s.roll? k).map fun r => (k, r)).elim (.refuse .wrongState) fun x =>
      .ok (s.strip n a x.1 x.2 m) (beBytes 2 (min m x.2.remaining) ++ beBytes 2 (x.2.remaining - min m x.2.remaining)) := by
  have hnum : num (byteOf n.val :: Arm.code a :: beBytes 2 m) 2 2 = m := by
    rw [num_succ, num_succ, num_whole (by omega)]
  have harm : arm? (byteAt (byteOf n.val :: Arm.code a :: beBytes 2 m) 1) = some a := by
    rw [byteAt_succ, byteAt_zero, arm?_code]
  unfold strip
  dsimp only
  rw [withStand_named, harm, hnum]
  dsimp only
  refine if_congr Iff.rfl rfl (if_congr Iff.rfl rfl ?_)
  cases (s.stands[n].arm a).roll with
  | none => rfl
  | some k =>
    dsimp only
    cases hr : s.roll? k with
    | none => rw [Option.bind_some, hr]; rfl
    | some r => rw [Option.bind_some, hr]; rfl

theorem strip_badField : strip (byteOf n.val :: Arm.code a :: beBytes 2 0) s = .refuse .badField :=
  (strip_eq (by omega)).trans (if_pos rfl)

theorem strip_wrongState (hm : m ≤ 65535) (h1 : 1 ≤ m)
    (h : s.stands[n].state = .off ∨ (s.stands[n].arm a).roll = none) :
    strip (byteOf n.val :: Arm.code a :: beBytes 2 m) s = .refuse .wrongState := by
  rw [strip_eq hm, if_neg (by omega)]
  by_cases hoff : s.stands[n].state = .off
  · exact if_pos hoff
  · rw [if_neg hoff, h.resolve_left hoff]
    rfl

theorem strip_ok {k : RollSlot} {r : Roll} (hm : m ≤ 65535) (h1 : 1 ≤ m) (hoff : s.stands[n].state ≠ .off)
    (hk : (s.stands[n].arm a).roll = some k) (hr : s.roll? k = some r) :
    strip (byteOf n.val :: Arm.code a :: beBytes 2 m) s =
      .ok (s.strip n a k r m) (beBytes 2 (min m r.remaining) ++ beBytes 2 (r.remaining - min m r.remaining)) := by
  rw [strip_eq hm, if_neg (by omega), if_neg hoff, hk, Option.bind_some, hr]
  rfl

/-- R142: a taken STRIP, in the model's words of R13 and R14. -/
theorem strip_taken (k : RollSlot) (r : Roll) : s.strip n a k r m =
    if s.stands[n].running = some a then
      (((s.deduct k m).charge (Job.chargeStrip (min m r.remaining))).markChecks n).pair
    else (s.deduct k m).charge (Job.chargeStrip (min m r.remaining)) := rfl

variable {callUp splice : Nat}

theorem setMarks_eq (hc : callUp ≤ 65535) (hs : splice ≤ 65535) :
    setMarks (byteOf n.val :: (beBytes 2 callUp ++ beBytes 2 splice)) s =
      if marksAgree callUp splice = false then .refuse .badField
      else if s.stands[n].state = .off then .refuse .wrongState
      else .ok ((s.modStand n fun st => { st with callUpMark := callUp, spliceMark := splice }).markChecks n).pair
        [((s.modStand n fun st => { st with callUpMark := callUp, spliceMark := splice }).markChecks n).stands[n].state.code,
          flagByte ((s.modStand n fun st =>
            { st with callUpMark := callUp, spliceMark := splice }).markChecks n).stands[n].callUpRaised] := by
  have hcallUp : num (byteOf n.val :: (beBytes 2 callUp ++ beBytes 2 splice)) 1 2 = callUp := by
    rw [num_succ, num_head _ (by omega)]
  have hsplice : num (byteOf n.val :: (beBytes 2 callUp ++ beBytes 2 splice)) 3 2 = splice := by
    rw [num_succ, num_behind 2 callUp _ 0, num_whole (by omega)]
  unfold setMarks
  dsimp only
  rw [withStand_named, hcallUp, hsplice]

theorem marksAgree_iff : marksAgree callUp splice = true ↔ callUp = 0 ∨ splice ≤ callUp := by
  rw [marksAgree, decide_eq_true_iff]
  omega

end

/-- Settles O50: each request's checks in order (`strip_eq`, `setMarks_eq`), then what it does. -/
theorem stripAndSetMarks : Obligations.StripAndSetMarks := by
  refine ⟨fun s tag rest n a m hserves hm => ?_, fun s tag rest n callUp splice hserves hc hs => ?_⟩
  · have hlen : (byteOf n.val :: Arm.code a :: beBytes 2 m).length = 4 := rfl
    rw [exec_strip]
    refine ⟨fun hzero => ?_, fun h1 hno => ?_, fun h1 hoff k r hk hr => ?_⟩
    · subst hzero
      rw [serve_refused hserves hlen strip_badField]
    · rw [serve_refused hserves hlen (strip_wrongState (s := s.unqueued rest) hm h1 hno)]
    · rw [serve_ok hserves hlen (strip_ok (s := s.unqueued rest) hm h1 hoff hk hr)]
      intro cut t out
      refine ⟨fun hrun => ?_, fun hrun => ?_⟩
      · rw [strip_taken, if_pos (show (s.unqueued rest).stands[n].running = some a from hrun)]
        rfl
      · rw [strip_taken, if_neg (show ¬ (s.unqueued rest).stands[n].running = some a from hrun)]
        rfl
  · have hlen : (byteOf n.val :: (beBytes 2 callUp ++ beBytes 2 splice)).length = 5 := rfl
    have hbody := setMarks_eq (s := s.unqueued rest) (n := n) hc hs
    rw [exec_setMarks]
    refine ⟨fun hzero hover => ?_, fun hagree => ⟨fun hoff => ?_, fun hoff => ?_⟩⟩
    · have hno : marksAgree callUp splice = false := Bool.eq_false_iff.2 fun h => by
        have := marksAgree_iff.1 h
        omega
      rw [serve_refused hserves hlen (hbody.trans (if_pos hno))]
    · have hyes := Bool.eq_false_iff.not_left.2 (marksAgree_iff.2 hagree)
      rw [serve_refused hserves hlen (hbody.trans ((if_neg hyes).trans (if_pos hoff)))]
    · have hyes := Bool.eq_false_iff.not_left.2 (marksAgree_iff.2 hagree)
      rw [serve_ok hserves hlen (hbody.trans ((if_neg hyes).trans (if_neg hoff)))]
      rfl

end Sys2Proof.Machine

/-! PROOF. THREAD, with the promotion and the retirement it shares with a splice done (R24, R25, R138). -/

namespace Sys2Proof.Machine

/-! ## Charges and the register -/

/-- R14: the jobs behind a charge. -/
def chargedJobs (jobs : Vector Job 4) (active : Option JobSlot) (f : Job → Job) : Vector Job 4 :=
  active.elim jobs fun j => jobs.set j (f jobs[j])

theorem charge_eq (s : State) (f : Job → Job) : s.charge f = { s with jobs := chargedJobs s.jobs s.activeSlot f } := by
  unfold State.charge
  cases s.activeSlot <;> rfl

theorem charge_setStandState (s : State) (f : Job → Job) (n : StandNo) (st : StandState) :
    (s.charge f).setStandState n st = (s.setStandState n st).charge f := by
  rw [charge_eq, charge_eq]
  rfl

section
variable {s : State} {n : StandNo} {a : Arm} {k : RollSlot} {r : Roll}

/-- R24: the stand behind a promotion. -/
def Stand.promoted (x : Stand) (a : Arm) : Stand :=
  { x.setArm a { x.arm a with status := .running } with running := some a, fraction := 0, callUpRaised := false }

theorem promote_eq : s.promote n a k = { s with
    rolls := tableModify s.rolls k fun x => { x with state := .running }
    stands := s.stands.set n (s.stands[n].promoted a) } := rfl

/-- R25, R136: the register and the arm close behind the old roll, whose rest is charged. -/
theorem retireOld_eq : s.retireOld n a k r = State.charge { s with
    rolls := tableErase s.rolls k
    stands := s.stands.set n (s.stands[n].setArm a ⟨.empty, none, none⟩) } (Job.chargeStub r.remaining) := by
  rw [State.retireOld, charge_eq, charge_eq]
  rfl

/-! ## The stand threaded -/

theorem Stand.promoted_setArm (x : Stand) (a b : Arm) (y : ArmRecord) (st : StandState) :
    ({ (x.promoted a).setArm b y with state := st } : Stand) =
      { (x.setArm a { x.arm a with status := .running }).setArm b y with
        state := st, running := some a, fraction := 0, callUpRaised := false } := by
  cases b <;> rfl

theorem threadEmpty_eq {named : Option Arm} (harm : s.stands[n].threadArm named = some a)
    (hk : (s.stands[n].arm a).roll = some k) : s.threadEmpty n named =
      .ok (State.pair (State.markChecks { s with
        rolls := tableModify s.rolls k fun x => { x with state := .running }
        stands := s.stands.set n { s.stands[n].setArm a { s.stands[n].arm a with status := .running } with
          state := .loaded, running := some a, fraction := 0, callUpRaised := false } } n))
        (Arm.code a :: [0, 0, 0, 0, 0]) := by
  have hthreaded : (s.promote n a k).setStandState n .loaded = { s with
      rolls := tableModify s.rolls k fun x => { x with state := .running }
      stands := s.stands.set n { s.stands[n].setArm a { s.stands[n].arm a with status := .running } with
        state := .loaded, running := some a, fraction := 0, callUpRaised := false } } := by
    simp only [promote_eq, State.setStandState, State.modStand, getElem_set_fin, if_true, Vector.set_set,
      Stand.promoted]
  rw [State.threadEmpty, harm]
  dsimp only
  conv_lhs => rw [hk]
  dsimp only
  rw [hthreaded]
  rfl

theorem threadEmpty_none {named : Option Arm} (harm : s.stands[n].threadArm named = none) :
    s.threadEmpty n named = .refuse .wrongState := by
  rw [State.threadEmpty, harm]

theorem threadArm_named (h : (s.stands[n].arm a).status = .ready) : s.stands[n].threadArm (some a) = some a := if_pos h

theorem threadArm_named_none (h : (s.stands[n].arm a).status ≠ .ready) : s.stands[n].threadArm (some a) = none :=
  if_neg h

theorem threadArm_unnamed (h : (s.stands[n].arm a).status = .ready)
    (hfirst : a = .B → s.stands[n].armA.status ≠ .ready) : s.stands[n].threadArm none = some a := by
  cases a with
  | A => exact if_pos h
  | B => exact (if_neg (hfirst rfl)).trans (if_pos h)

theorem threadArm_unnamed_none (hA : s.stands[n].armA.status ≠ .ready) (hB : s.stands[n].armB.status ≠ .ready) :
    s.stands[n].threadArm none = none := (if_neg hA).trans (if_neg hB)

/-! ## Out of WEB_OUT -/

theorem runningArm_eq (hrun : s.stands[n].running = some a) (hk : (s.stands[n].arm a).roll = some k)
    (hr : s.roll? k = some r) : s.runningArm n = some ⟨a, k, r⟩ := by
  rw [State.runningArm, runningSlot_eq hrun hk, runningRoll_eq hrun hk hr, hrun]

theorem readyStandby_eq {j : RollSlot} {q : Roll} (hrun : s.stands[n].running = some a)
    (hready : (s.stands[n].arm a.other).status = .ready) (hj : (s.stands[n].arm a.other).roll = some j)
    (hq : s.roll? j = some q) : s.readyStandby n = some (j, q) := by
  refine (if_pos ((standbyReady_iff hrun).2 hready)).trans ?_
  rw [Stand.standbyArm, hrun, Option.map_some, Option.bind_some, hj, Option.bind_some, hq, Option.map_some]

theorem readyStandby_none (hrun : s.stands[n].running = some a)
    (hready : (s.stands[n].arm a.other).status ≠ .ready) : s.readyStandby n = none :=
  if_neg (mt (standbyReady_iff hrun).1 hready)

variable {old : Roll} {named : Option Arm}

theorem threadWebOut_standby {j : RollSlot} {q : Roll} (hold : s.runningArm n = some ⟨a, k, old⟩)
    (hnew : s.readyStandby n = some (j, q)) : s.threadWebOut n named =
      if named = none ∨ named = some a.other then
        .ok (s.threadStandby n a k old j).pair (threadAnswer (some a.other) old.tag)
      else .refuse .wrongState := by
  rw [State.threadWebOut, hold, hnew]

theorem threadWebOut_off (hold : s.runningArm n = some ⟨a, k, old⟩) (hnew : s.readyStandby n = none) :
    s.threadWebOut n none = .ok (s.threadOff n a k old).pair (threadAnswer none old.tag) := by
  rw [State.threadWebOut, hold, hnew]

theorem threadWebOut_named (hold : s.runningArm n = some ⟨a, k, old⟩) (hnew : s.readyStandby n = none)
    (b : Arm) : s.threadWebOut n (some b) = .refuse .wrongState := by
  rw [State.threadWebOut, hold, hnew]

theorem Arm.other_ne (a : Arm) : a.other ≠ a := by cases a <;> exact nofun

theorem threadWebOut_running (hold : s.runningArm n = some ⟨a, k, old⟩) :
    s.threadWebOut n (some a) = .refuse .wrongState := by
  cases hnew : s.readyStandby n with
  | none => exact threadWebOut_named hold hnew a
  | some x =>
    refine (threadWebOut_standby hold hnew).trans (if_neg ?_)
    rintro (h | h)
    · contradiction
    · exact a.other_ne (Option.some.inj h).symm

theorem threadStandby_eq {j : RollSlot} : s.threadStandby n a k old j = State.examine (State.markChecks (State.charge
    { s with
      rolls := tableErase (tableModify s.rolls j fun x => { x with state := .running }) k
      stands := s.stands.set n
        { (s.stands[n].setArm a.other { s.stands[n].arm a.other with status := .running }).setArm a
            ⟨.empty, none, none⟩ with
          state := .loaded, running := some a.other, fraction := 0, callUpRaised := false } }
    (Job.chargeStub old.remaining)) n) := by
  unfold State.threadStandby
  dsimp only
  rw [retireOld_eq, charge_setStandState]
  simp only [promote_eq, State.setStandState, State.modStand, getElem_set_fin, if_true, Vector.set_set,
    Stand.promoted_setArm]

theorem threadOff_eq : s.threadOff n a k old = State.examine (State.charge { s with
    rolls := tableErase s.rolls k
    stands := s.stands.set n { s.stands[n].setArm a ⟨.empty, none, none⟩ with
      state := .empty, running := none, fraction := 0, callUpRaised := false } } (Job.chargeStub old.remaining)) := by
  have hclears (t : State) (f : Job → Job) (g : Stand → Stand) :
      (t.charge f).modStand n g = (t.modStand n g).charge f := by
    rw [charge_eq, charge_eq]
    rfl
  rw [State.threadOff, retireOld_eq, hclears]
  simp only [State.modStand, getElem_set_fin, if_true, Vector.set_set]

end

/-! ## The request -/

theorem exec_thread (s : State) : exec .thread s = .next (s.serve .thread thread) := rfl

section
variable {s : State} {n : StandNo} {named : Option Arm}

theorem thread_empty (h : s.stands[n].state = .empty) :
    thread [byteOf n.val, optArm named] s = s.threadEmpty n named := by
  have hnamed : optArm? (byteAt [byteOf n.val, optArm named] 1) = some named := by
    rw [byteAt_succ, byteAt_zero, optArm?_optArm]
  rw [thread, withStand_named, hnamed]
  dsimp only
  rw [h]

theorem thread_webOut (h : s.stands[n].state = .webOut) :
    thread [byteOf n.val, optArm named] s = s.threadWebOut n named := by
  have hnamed : optArm? (byteAt [byteOf n.val, optArm named] 1) = some named := by
    rw [byteAt_succ, byteAt_zero, optArm?_optArm]
  rw [thread, withStand_named, hnamed]
  dsimp only
  rw [h]

theorem thread_wrongState (hempty : s.stands[n].state ≠ .empty) (hout : s.stands[n].state ≠ .webOut) :
    thread [byteOf n.val, optArm named] s = .refuse .wrongState := by
  have hnamed : optArm? (byteAt [byteOf n.val, optArm named] 1) = some named := by
    rw [byteAt_succ, byteAt_zero, optArm?_optArm]
  rw [thread, withStand_named, hnamed]
  dsimp only
  split
  · next h => exact absurd h hempty
  · next h => exact absurd h hout
  · rfl

end

/-- Settles O49: EMPTY by the arm THREAD finds (`threadEmpty_eq`), WEB_OUT by the standby (`threadStandby_eq`, `threadOff_eq`). -/
theorem threadPromotesOrClears : Obligations.ThreadPromotesOrClears := by
  intro s tag rest n named hserves st run scrap
  have hlen : ([byteOf n.val, optArm named] : List Byte).length = 2 := rfl
  rw [exec_thread]
  refine ⟨fun a k hst hready hk hnamed => ?_, fun a k old hst hrun hk hold => ?_, fun hno => ?_⟩
  · have harm : (s.unqueued rest).stands[n].threadArm named = some a := by
      obtain rfl | ⟨rfl, hfirst⟩ := hnamed
      · exact threadArm_named (s := s.unqueued rest) hready
      · exact threadArm_unnamed (s := s.unqueued rest) hready hfirst
    rw [serve_ok hserves hlen ((thread_empty (s := s.unqueued rest) hst).trans
      (threadEmpty_eq (s := s.unqueued rest) harm hk))]
    rfl
  · have hweb := thread_webOut (s := s.unqueued rest) (n := n) (named := named) hst
    have harm : (s.unqueued rest).runningArm n = some ⟨a, k, old⟩ := runningArm_eq (s := s.unqueued rest) hrun hk hold
    refine ⟨fun j r hready hj hr hnamed => ?_, fun hready hnamed => ?_, fun hnamed => ?_⟩
    · have hnew : (s.unqueued rest).readyStandby n = some (j, r) :=
        readyStandby_eq (s := s.unqueued rest) hrun hready hj hr
      rw [serve_ok hserves hlen (hweb.trans ((threadWebOut_standby harm hnew).trans (if_pos hnamed))), threadStandby_eq]
      rfl
    · subst hnamed
      have hnew : (s.unqueued rest).readyStandby n = none := readyStandby_none (s := s.unqueued rest) hrun hready
      rw [serve_ok hserves hlen (hweb.trans (threadWebOut_off harm hnew)), threadOff_eq]
      rfl
    · have hrefused : (s.unqueued rest).threadWebOut n named = .refuse .wrongState := by
        obtain rfl | ⟨hready, hnamed⟩ := hnamed
        · exact threadWebOut_running harm
        · obtain ⟨b, rfl⟩ := Option.ne_none_iff_exists'.1 hnamed
          exact threadWebOut_named harm (readyStandby_none (s := s.unqueued rest) hrun hready) b
      rw [serve_refused hserves hlen (hweb.trans hrefused)]
  · have hrefused : thread [byteOf n.val, optArm named] (s.unqueued rest) = .refuse .wrongState := by
      obtain ⟨hempty, hout⟩ | ⟨hempty, a, rfl, hready⟩ | ⟨hempty, rfl, hA, hB⟩ := hno
      · exact thread_wrongState (s := s.unqueued rest) hempty hout
      · exact (thread_empty (s := s.unqueued rest) hempty).trans
          (threadEmpty_none (threadArm_named_none (s := s.unqueued rest) hready))
      · exact (thread_empty (s := s.unqueued rest) hempty).trans
          (threadEmpty_none (threadArm_unnamed_none (s := s.unqueued rest) hA hB))
    rw [serve_refused hserves hlen hrefused]

end Sys2Proof.Machine

/-! PROOF. A splice done: what is accepted, the promotion and its charges, and what becomes of the old roll (R24, R135 to R137, R157). -/

namespace Sys2Proof.Machine

/-! ## Charges in a row -/

theorem activeSlot_congr {s t : State} (h : ∀ j : JobSlot, t.jobs[j].state = s.jobs[j].state) :
    t.activeSlot = s.activeSlot :=
  congrArg (fun p => (List.finRange 4).find? p) (funext fun j => by rw [h j])

theorem charge_activeSlot {s : State} {f : Job → Job} (hf : ∀ x, (f x).state = x.state) :
    (s.charge f).activeSlot = s.activeSlot := by
  refine activeSlot_congr fun j => ?_
  rw [charge_eq]
  unfold chargedJobs
  cases s.activeSlot with
  | none => rfl
  | some i =>
    dsimp only [Option.elim_some]
    rw [getElem_set_fin]
    split
    · next h => rw [hf, h]
    · rfl

theorem charge_charge {s : State} {f g : Job → Job} (hf : ∀ x, (f x).state = x.state) :
    (s.charge f).charge g = s.charge fun x => g (f x) := by
  rw [charge_eq _ g, charge_activeSlot hf, charge_eq, charge_eq]
  unfold chargedJobs
  cases s.activeSlot with
  | none => rfl
  | some i =>
    dsimp only [Option.elim_some]
    rw [getElem_set_fin, if_pos rfl, Vector.set_set]

section
variable {s : State} {n : StandNo} {a : Arm} {k j : RollSlot} {old new : Roll}

/-! ## The promotion -/

/-- R135: the standby promoted, its waste deducted and charged, and the splice counted. -/
def State.splicePromoted (s : State) (n : StandNo) (a : Arm) (j : RollSlot) (new : Roll) : State :=
  State.charge { s with
      rolls := tableModify s.rolls j fun x =>
        { x with state := .running, remaining := x.remaining - min s.working.stands[n].spliceWaste x.remaining }
      stands := s.stands.set n (s.stands[n].promoted a.other) }
    fun x => { x with
      spliceWaste := min 4294967295 (x.spliceWaste + min s.working.stands[n].spliceWaste new.remaining)
      rollsSpliced := min 65535 (x.rollsSpliced + 1) }

theorem splicePromoted_eq : (((s.promote n a.other j).deduct j s.working.stands[n].spliceWaste).charge
      (Job.chargeSplice (min s.working.stands[n].spliceWaste new.remaining))).charge
    (fun x => { x with rollsSpliced := satAdd Config.max16 x.rollsSpliced 1 }) = s.splicePromoted n a j new := by
  rw [charge_charge (f := Job.chargeSplice _) fun _ => rfl]
  simp only [promote_eq, State.deduct, State.modRoll, tableModify_tableModify]
  rfl

theorem arm_setArm_other (x : Stand) (a : Arm) (y : ArmRecord) : (x.setArm a.other y).arm a = x.arm a := by
  cases a <;> rfl

theorem splicePromoted_stand : (s.splicePromoted n a j new).stands[n] = s.stands[n].promoted a.other := by
  rw [State.splicePromoted, charge_eq, getElem_set_fin, if_pos rfl]

theorem splicePromoted_arm : (s.splicePromoted n a j new).stands[n].arm a = s.stands[n].arm a := by
  have hrest (x y : Stand) (hA : x.armA = y.armA) (hB : x.armB = y.armB) : x.arm a = y.arm a := by
    cases a
    · exact hA
    · exact hB
  rw [splicePromoted_stand, ← arm_setArm_other s.stands[n] a]
  exact hrest _ _ rfl rfl

/-! ## The old roll -/

/-- R136: the old roll becomes a STUB on its arm. -/
def State.stubKept (s : State) (n : StandNo) (a : Arm) (k : RollSlot) : State := { s with
  rolls := tableModify s.rolls k fun x => { x with state := .stub, partRoll := true }
  stands := s.stands.set n (s.stands[n].setArm a { s.stands[n].arm a with status := .stub }) }

theorem keepStub_returns {l : LaneNo} {c : OrderSlot} (hl : s.putAwayLane old.kind none = some l)
    (hc : s.freeOrderSlot = some c) : s.keepStub n a k old =
      (s.stubKept n a k).createOrder c .returnStub .automatic k old (.arm n a) (.lane l) := by
  have hl' : (s.stubKept n a k).putAwayLane old.kind none = some l := hl
  have hc' : (s.stubKept n a k).freeOrderSlot = some c := hc
  change (match (s.stubKept n a k).putAwayLane old.kind none, (s.stubKept n a k).freeOrderSlot with
    | some l, some slot => (s.stubKept n a k).createOrder slot .returnStub .automatic k old (.arm n a) (.lane l)
    | _, _ => (s.stubKept n a k).post (.stubStranded n) (.tag old.tag)) = _
  rw [hl', hc']

theorem keepStub_stranded (h : s.putAwayLane old.kind none = none ∨ s.freeOrderSlot = none) :
    s.keepStub n a k old = (s.stubKept n a k).post (.stubStranded n) (.tag old.tag) := by
  change (match (s.stubKept n a k).putAwayLane old.kind none, (s.stubKept n a k).freeOrderSlot with
    | some l, some slot => (s.stubKept n a k).createOrder slot .returnStub .automatic k old (.arm n a) (.lane l)
    | _, _ => (s.stubKept n a k).post (.stubStranded n) (.tag old.tag)) = _
  split
  · next l c hl hc =>
    obtain h | h := h
    · exact absurd (hl.symm.trans h) (Option.some_ne_none l)
    · exact absurd (hc.symm.trans h) (Option.some_ne_none c)
  · rfl

/-- R135: the end of a splice done. -/
def State.spliceEnds (s : State) (n : StandNo) (new : Roll) : State :=
  (((s.post (.spliceDone n) (.tag new.tag)).setStandState n .loaded).markChecks n).examine

theorem spliceDone_eq : s.spliceDone n a k j old new = State.spliceEnds
    (if s.stands[n].state = .splicing ∧ s.working.stands[n].stubThreshold < old.remaining then
      (s.splicePromoted n a j new).keepStub n a k old
    else (s.splicePromoted n a j new).retireOld n a k old) n new := by
  rw [← splicePromoted_eq]
  unfold State.spliceDone State.spliceEnds
  dsimp only
  refine congrArg (fun t : State => (((t.post (.spliceDone n) (.tag new.tag)).setStandState n .loaded).markChecks n).examine)
    (if_congr ?_ rfl rfl)
  rw [decide_eq_true_iff]

theorem spliceDone_retired (h : s.stands[n].state ≠ .splicing ∨ old.remaining ≤ s.working.stands[n].stubThreshold) :
    s.spliceDone n a k j old new = State.spliceEnds (State.charge { s.splicePromoted n a j new with
      rolls := tableErase (s.splicePromoted n a j new).rolls k
      stands := (s.splicePromoted n a j new).stands.set n
        ((s.splicePromoted n a j new).stands[n].setArm a ⟨.empty, none, none⟩) }
      (Job.chargeStub old.remaining)) n new := by
  rw [spliceDone_eq, if_neg, retireOld_eq]
  rintro ⟨hsplicing, hlong⟩
  exact h.elim (absurd hsplicing) fun hshort => by omega

/-- R136: what keeps an old roll as a STUB. -/
theorem spliceDone_kept (hst : s.stands[n].state = .splicing)
    (hlong : s.working.stands[n].stubThreshold < old.remaining) :
    s.spliceDone n a k j old new = ((s.splicePromoted n a j new).keepStub n a k old).spliceEnds n new := by
  rw [spliceDone_eq, if_pos ⟨hst, hlong⟩]

theorem splicePromoted_putAwayLane (kind : PaperKind) :
    (s.splicePromoted n a j new).putAwayLane kind none = s.putAwayLane kind none := by
  rw [State.splicePromoted, charge_eq]
  rfl

theorem splicePromoted_freeOrderSlot : (s.splicePromoted n a j new).freeOrderSlot = s.freeOrderSlot := by
  rw [State.splicePromoted, charge_eq]
  rfl

theorem splicePromoted_notices : (s.splicePromoted n a j new).notices = s.notices := by
  rw [State.splicePromoted, charge_eq]

/-! ## The pulse -/

theorem exec_splicedPulse (h : s.device = .ready) : exec (.splicedPulse n) s = .next (s.takeSplice n) :=
  congrArg Host.Outcome.next (if_pos h)

theorem exec_splicedPulse_idle (h : s.device ≠ .ready) : exec (.splicedPulse n) s = .next s :=
  congrArg Host.Outcome.next (if_neg h)

theorem takeSplice_unexpected (h : (s.stands[n].state ≠ .splicing ∧ s.stands[n].state ≠ .webOut) ∨
    s.readyStandby n = none) : s.takeSplice n = s.spliceUnexpected n := by
  unfold State.takeSplice
  split
  · next hst =>
    obtain ⟨hsplicing, hout⟩ | hnone := h
    · exact absurd hst (not_or.2 ⟨hsplicing, hout⟩)
    · split
      · next hsome => exact absurd (hsome.symm.trans hnone) (Option.some_ne_none _)
      · rfl
  · rfl

theorem takeSplice_done (hst : s.stands[n].state = .splicing ∨ s.stands[n].state = .webOut)
    (hold : s.runningArm n = some ⟨a, k, old⟩) (hnew : s.readyStandby n = some (j, new)) :
    s.takeSplice n = (s.spliceDone n a k j old new).pair := by
  rw [State.takeSplice, if_pos hst, hold, hnew]

end

/-- Settles O52: an accepted splice done by what becomes of the old roll (`spliceDone_eq`, `retireOld_eq`, `keepStub_returns`, `keepStub_stranded`). -/
theorem splicedPulseCompletesSplice : Obligations.SplicedPulseCompletesSplice := by
  intro s n st setting
  refine ⟨exec_splicedPulse_idle, fun hdevice hst => ?_,
    fun a k j old new hdevice hst hrun hk hold hready hj hnew _ => ?_⟩
  · rw [exec_splicedPulse hdevice, takeSplice_unexpected]
    · rfl
    · obtain h | h | h | h | h | ⟨-, a, hrun, hready⟩ := hst
      iterate 5 exact .inl ⟨by rw [h]; exact nofun, by rw [h]; exact nofun⟩
      exact .inr (readyStandby_none hrun hready)
  · have hdone : exec (.splicedPulse n) s = .next (s.spliceDone n a k j old new).pair := by
      rw [exec_splicedPulse hdevice,
        takeSplice_done hst (runningArm_eq hrun hk hold) (readyStandby_eq hrun hready hj hnew)]
    intro waste ran promoted finish
    have hfinish (u : State) : (u.spliceEnds n new).pair = finish u := rfl
    rw [hdone]
    refine ⟨fun hretired => ?_, fun hsplicing hlong => ?_⟩
    · rw [spliceDone_retired (hretired.imp_left fun hout => by rw [hout]; exact nofun), hfinish]
      rfl
    · intro kept
      have hkept : (s.splicePromoted n a j new).stubKept n a k = kept := by
        rw [State.stubKept, splicePromoted_arm]
        rfl
      rw [spliceDone_kept hsplicing hlong, hfinish]
      refine ⟨fun l c hl hfree hlow => ?_, fun hno => ?_⟩
      · rw [keepStub_returns ((splicePromoted_putAwayLane _).trans hl)
          (splicePromoted_freeOrderSlot.trans (freeOrderSlot_eq_some hfree hlow)), hkept]
      · rw [keepStub_stranded (hno.imp (splicePromoted_putAwayLane _).trans fun hfull =>
          splicePromoted_freeOrderSlot.trans (freeOrderSlot_eq_none.2 hfull)), hkept,
          ← splicePromoted_notices (n := n) (a := a) (j := j) (new := new)]
        rfl

end Sys2Proof.Machine

/-! PROOF. Length inputs: the metre step, its mark checks, the paper metres and the splice window (R7 to R9, R14, R126, R127, R133). -/

namespace Sys2Proof.Machine

/-! ## What the mark checks leave of rolls and arms -/

/-- A roll but for its claim. -/
def Roll.unclaimed (r : Roll) : Roll := { r with claim := none }

/-- What the length inputs of a stand depend on and change: its tracking hold and its fraction (R8, R127). -/
def Stand.tracked (x : Stand) : Bool × Nat := (x.trackingHold, x.fraction)

/-- The same rolls but for their claims, on the same arms, with the same running arms and fractions. -/
structure State.SamePlaces (s t : State) : Prop where
  roll : ∀ k, (t.roll? k).map Roll.unclaimed = (s.roll? k).map Roll.unclaimed
  arm : ∀ (n : StandNo) a, (t.stands[n].arm a).roll = (s.stands[n].arm a).roll
  running : ∀ n : StandNo, t.stands[n].running = s.stands[n].running
  tracked : ∀ n : StandNo, t.stands[n].tracked = s.stands[n].tracked

section
variable {s t u : State} {n : StandNo}

theorem State.SamePlaces.refl (s : State) : s.SamePlaces s :=
  ⟨fun _ => rfl, fun _ _ => rfl, fun _ => rfl, fun _ => rfl⟩

theorem State.SamePlaces.trans (h : s.SamePlaces t) (h' : t.SamePlaces u) : s.SamePlaces u :=
  ⟨fun k => (h'.roll k).trans (h.roll k), fun n a => (h'.arm n a).trans (h.arm n a),
    fun n => (h'.running n).trans (h.running n), fun n => (h'.tracked n).trans (h.tracked n)⟩

theorem samePlaces_of_eq (hrolls : t.rolls = s.rolls) (hstands : t.stands = s.stands) : s.SamePlaces t where
  roll k := by rw [State.roll?, hrolls]; rfl
  arm n a := by rw [hstands]
  running n := by rw [hstands]
  tracked n := by rw [hstands]

theorem samePlaces_modStand {f : Stand → Stand} (harm : ∀ x a, ((f x).arm a).roll = (x.arm a).roll)
    (hrun : ∀ x, (f x).running = x.running) (htracked : ∀ x, (f x).tracked = x.tracked) (n : StandNo) :
    s.SamePlaces (s.modStand n f) where
  roll _ := rfl
  arm m a := by
    rw [State.modStand, getElem_set_fin]
    split
    · next h => rw [harm, h]
    · rfl
  running m := by
    rw [State.modStand, getElem_set_fin]
    split
    · next h => rw [hrun, h]
    · rfl
  tracked m := by
    rw [State.modStand, getElem_set_fin]
    split
    · next h => rw [htracked, h]
    · rfl

theorem setArm_tracked (x : Stand) (a : Arm) (y : ArmRecord) : (x.setArm a y).tracked = x.tracked := by
  cases a <;> rfl

theorem arm_setArm_roll {x : Stand} {a b : Arm} {y : ArmRecord} (h : y.roll = (x.arm a).roll) :
    ((x.setArm a y).arm b).roll = (x.arm b).roll := by
  cases a with
  | A =>
    cases b with
    | A => exact h
    | B => rfl
  | B =>
    cases b with
    | A => rfl
    | B => exact h

theorem samePlaces_modArm {f : ArmRecord → ArmRecord} (hf : ∀ y, (f y).roll = y.roll) (n : StandNo) (a : Arm) :
    s.SamePlaces (s.modArm n a f) :=
  samePlaces_modStand (fun _ _ => arm_setArm_roll (hf _)) (fun x => x.setArm_running a _)
    (fun x => setArm_tracked x a _) n

theorem samePlaces_fed (s : State) (n : StandNo) (c : FeedChoice) (slot : OrderSlot) : s.SamePlaces (s.fed n c slot) := by
  obtain ⟨_, heq⟩ := fed_eq s n c slot
  have hplaces : (s.modArm n s.stands[n].feedArm fun r =>
      { r with reservation := some slot, status := if r.status = .empty then .reserved else r.status }).SamePlaces
        (s.fed n c slot) := by
    refine ⟨fun k => ?_, fun m a => by rw [heq], fun m => by rw [heq], fun m => by rw [heq]⟩
    rw [fed_roll?]
    split
    · rw [Option.map_map]
      rfl
    · rfl
  exact (samePlaces_modArm (f := fun r =>
    { r with reservation := some slot, status := if r.status = .empty then .reserved else r.status })
    (fun _ => rfl) _ _).trans hplaces

theorem samePlaces_raiseDemand (s : State) (n : StandNo) : s.SamePlaces (s.raiseDemand n) :=
  raiseDemand_induction (.refl s) (fun _ _ ht => ht.trans (samePlaces_of_eq rfl rfl))
    (fun t n c slot ht _ => ht.trans (samePlaces_fed t n c slot)) (fun _ _ _ ht => ht.trans (samePlaces_of_eq rfl rfl)) n

theorem arm_roll_of_arms {x y : Stand} (hA : x.armA = y.armA) (hB : x.armB = y.armB) (a : Arm) :
    (x.arm a).roll = (y.arm a).roll := by
  cases a
  · exact congrArg ArmRecord.roll hA
  · exact congrArg ArmRecord.roll hB

theorem samePlaces_callUpCheck (s : State) (n : StandNo) (r : Nat) : s.SamePlaces (s.callUpCheck n r) := by
  have hcalled : s.SamePlaces (s.calledUp n r) :=
    (samePlaces_modStand (f := fun x => { x with callUpRaised := true }) (fun _ => arm_roll_of_arms rfl rfl)
      (fun _ => rfl) (fun _ => rfl) n).trans (samePlaces_of_eq rfl rfl)
  by_cases h : s.stands[n].CallUpQuiet r
  · rw [callUpCheck_quiet h]
    exact .refl s
  · rw [callUpCheck_called h]
    split
    · exact hcalled.trans (samePlaces_raiseDemand _ n)
    · exact hcalled

theorem samePlaces_setStandState (s : State) (n : StandNo) (st : StandState) : s.SamePlaces (s.setStandState n st) :=
  samePlaces_modStand (f := fun x => { x with state := st }) (fun _ => arm_roll_of_arms rfl rfl) (fun _ => rfl) (fun _ => rfl) n

theorem samePlaces_compareStandby (s : State) (n : StandNo) : s.SamePlaces (s.compareStandby n true) := by
  unfold State.compareStandby
  split
  · exact .refl s
  · next a _ =>
    obtain heq | ⟨q, heq⟩ := demote_cases s n a
    · rw [heq]
      exact .refl s
    · rw [heq]
      exact (samePlaces_modArm (f := fun y => { y with status := .mismatch }) (fun _ => rfl) n a).trans
        (samePlaces_of_eq rfl rfl)

theorem samePlaces_zeroCheck (s : State) (n : StandNo) (r tag : Nat) : s.SamePlaces (s.zeroCheck n r tag) := by
  have hout := samePlaces_setStandState s n .webOut
  unfold State.zeroCheck
  dsimp only
  split
  · split
    · exact (hout.trans (samePlaces_compareStandby _ n)).trans (samePlaces_of_eq rfl rfl)
    · exact hout.trans (samePlaces_of_eq rfl rfl)
  · exact .refl s

theorem samePlaces_spliceMarkCheck (s : State) (n : StandNo) (r : Nat) : s.SamePlaces (s.spliceMarkCheck n r) := by
  unfold State.spliceMarkCheck
  dsimp only
  split
  · split
    · exact samePlaces_modStand
        (f := fun x => { x with state := .splicing, window := s.working.stands[n].spliceWindow })
        (fun _ => arm_roll_of_arms rfl rfl) (fun _ => rfl) (fun _ => rfl) n
    · exact samePlaces_setStandState s n .spliceDue
  · exact .refl s

theorem samePlaces_markChecks (s : State) (n : StandNo) : s.SamePlaces (s.markChecks n) := by
  unfold State.markChecks
  split
  · exact .refl s
  · exact ((samePlaces_callUpCheck s n _).trans (samePlaces_zeroCheck _ n _ _)).trans (samePlaces_spliceMarkCheck _ n _)

/-- A roll behind the mark checks: the same but for its claim. -/
theorem State.SamePlaces.roll_some (h : s.SamePlaces t) {k : RollSlot} {r : Roll} (hr : s.roll? k = some r) :
    ∃ c, t.roll? k = some { r with claim := c } := by
  have hk := h.roll k
  rw [hr, Option.map_some, Option.map_eq_some_iff] at hk
  obtain ⟨x, hx, hxr⟩ := hk
  refine ⟨x.claim, hx.trans (congrArg some ?_)⟩
  have hback : { x.unclaimed with claim := x.claim } = x := rfl
  rw [← hback, hxr]
  rfl

/-! ## The end of the window -/

variable {a : Arm} {i : RollSlot} {q : Roll}

/-- R133: the window's end but for the standby. -/
def State.windowClosed (s : State) (n : StandNo) : State := { s with
  stands := s.stands.set n { s.stands[n] with state := .spliceHeld, window := 0 }
  notices := postInto s.notices (.spliceFailed n) (.metres (s.runningMetres n)) }

theorem windowClosed_stand : (s.windowClosed n).stands[n] = { s.stands[n] with state := .spliceHeld, window := 0 } := by
  rw [State.windowClosed, getElem_set_fin, if_pos rfl]

theorem countWindow_open (hst : s.stands[n].state = .splicing) (hw : 2 ≤ s.stands[n].window) :
    s.countWindow n = { s with stands := s.stands.set n { s.stands[n] with window := s.stands[n].window - 1 } } :=
  (countWindow_splicing hst).trans (if_neg (by omega))

theorem runningMetres_eq {k : RollSlot} {r : Roll} (hrun : s.stands[n].running = some a)
    (hk : (s.stands[n].arm a).roll = some k) (hr : s.roll? k = some r) : s.runningMetres n = r.remaining := by
  rw [State.runningMetres, runningRoll_eq hrun hk hr]

theorem countWindow_closes (hst : s.stands[n].state = .splicing) (hw : s.stands[n].window = 1)
    (hrun : s.stands[n].running = some a) {k : RollSlot} {r : Roll} (hk : (s.stands[n].arm a).roll = some k)
    (hr : s.roll? k = some r) : s.countWindow n = (s.windowClosed n).demote n a.other true := by
  have hrun' : (s.windowClosed n).stands[n].running = some a := by
    rw [windowClosed_stand]
    exact hrun
  have hmetres : (s.modStand n fun x => { x with window := x.window - 1 }).runningMetres n = s.runningMetres n := by
    rw [runningMetres_eq hrun hk hr]
    refine runningMetres_eq (a := a) (k := k) ?_ ?_ hr
    · rw [modStand_self]
      exact hrun
    · rw [modStand_self]
      cases a <;> exact hk
  have hclosed : ((s.modStand n fun x => { x with window := x.window - 1 }).setStandState n .spliceHeld).post
      (.spliceFailed n) (.metres (s.runningMetres n)) = s.windowClosed n := by
    simp only [State.setStandState, State.modStand, State.post, getElem_set_fin, if_true, Vector.set_set,
      State.windowClosed, hw]
  rw [countWindow_splicing hst, if_pos (by omega), State.windowExpiry, hmetres, hclosed, compareStandby_eq _ hrun']

theorem windowClosed_arm (b : Arm) : (s.windowClosed n).stands[n].arm b = s.stands[n].arm b := by
  rw [windowClosed_stand]
  cases b <;> rfl

/-! ## A length input -/

theorem lengthInput_idle (m : Nat) (h : s.stands[n].trackingHold = true ∨ s.runningRoll n = none) :
    s.lengthInput n m = s := by
  refine if_pos ?_
  rwa [Option.isNone_iff_eq_none]

variable {k : RollSlot} {r : Roll}

theorem lengthInput_eq (m : Nat) (hhold : s.stands[n].trackingHold = false) (hr : s.runningRoll n = some r) :
    s.lengthInput n m = if 1000 ≤ s.stands[n].fraction + m then
        (s.modStand n fun x => { x with fraction := s.stands[n].fraction + m - 1000 }).metreStep n
      else s.modStand n fun x => { x with fraction := s.stands[n].fraction + m } := by
  refine if_neg ?_
  rw [hhold, hr]
  rintro (h | h) <;> contradiction

/-- The metre off the roll, before the mark checks (R9). -/
def State.metreTaken (s : State) (n : StandNo) (k : RollSlot) (fraction : Nat) : State := { s with
  rolls := tableModify s.rolls k Roll.stepped
  stands := s.stands.set n { s.stands[n] with fraction := fraction } }

theorem metreTaken_stand (f : Nat) : (s.metreTaken n k f).stands[n] = { s.stands[n] with fraction := f } := by
  rw [State.metreTaken, getElem_set_fin, if_pos rfl]

theorem metreTaken_roll (f : Nat) (hr : s.roll? k = some r) : (s.metreTaken n k f).roll? k = some r.stepped := by
  refine (tableGet_tableModify_self _ _ _).trans ?_
  rw [show tableGet s.rolls k = some r from hr]
  rfl

theorem metreTaken_running (f : Nat) (hrun : s.stands[n].running = some a) :
    (s.metreTaken n k f).stands[n].running = some a := by
  rw [metreTaken_stand]
  exact hrun

theorem metreTaken_arm (f : Nat) (hk : (s.stands[n].arm a).roll = some k) :
    ((s.metreTaken n k f).stands[n].arm a).roll = some k := by
  rw [metreTaken_stand]
  cases a <;> exact hk

/-- R9: a full metre, step by step. -/
theorem lengthInput_metre {m : Nat} (hhold : s.stands[n].trackingHold = false) (hrun : s.stands[n].running = some a)
    (hk : (s.stands[n].arm a).roll = some k) (hr : s.roll? k = some r) (hsum : 1000 ≤ s.stands[n].fraction + m) :
    s.lengthInput n m =
      ((((s.metreTaken n k (s.stands[n].fraction + m - 1000)).markChecks n).countPaper n).countWindow n) := by
  have hrun' (f : Nat) : (s.modStand n fun x => { x with fraction := f }).runningSlot n = some k := by
    refine runningSlot_eq (a := a) ?_ ?_
    · rw [modStand_self]
      exact hrun
    · rw [modStand_self]
      cases a <;> exact hk
  rw [lengthInput_eq m hhold (runningRoll_eq hrun hk hr), if_pos hsum, metreStep_of_slot (hrun' _)]
  rfl

theorem stepped_remaining (r : Roll) : r.stepped.remaining = r.remaining - 1 := by
  unfold Roll.stepped
  split
  · rfl
  · dsimp only
    omega

theorem stepped_kind_tag (r : Roll) : r.stepped.kind = r.kind ∧ r.stepped.tag = r.tag := by
  unfold Roll.stepped
  split <;> exact ⟨rfl, rfl⟩

/-! ## The paper metres -/

theorem markChecks_jobs (s : State) (n : StandNo) : (s.markChecks n).jobs = s.jobs := by rw [State.markChecks_changes]

theorem requirement_congr (h : t.jobs = s.jobs) (n : StandNo) : t.requirement n = s.requirement n := by
  rw [State.requirement, State.requirement, State.activeSlot, State.activeSlot, h]

theorem activeSlot_of_jobs (h : t.jobs = s.jobs) : t.activeSlot = s.activeSlot := by
  rw [State.activeSlot, State.activeSlot, h]

/-- One metre more of paper (R9). -/
def Job.paperCounted (x : Job) : Job := { x with paper := satAdd Config.max32 x.paper 1 }

theorem countPaper_eq (s : State) (n : StandNo) :
    s.countPaper n = if (s.requirement n).isSome then s.charge Job.paperCounted else s := rfl

theorem charge_requirement {f : Job → Job} (hstate : ∀ x, (f x).state = x.state) (hplan : ∀ x, (f x).plan = x.plan)
    (m : StandNo) : (s.charge f).requirement m = s.requirement m := by
  rw [State.requirement, charge_activeSlot hstate, charge_eq, State.requirement]
  cases s.activeSlot with
  | none => rfl
  | some j =>
    rw [Option.bind_some, Option.bind_some]
    change (s.jobs.set j _)[j].plan[m] = _
    rw [getElem_set_fin, if_pos rfl, hplan]

theorem countPaper_requirement (s : State) (n m : StandNo) : (s.countPaper n).requirement m = s.requirement m := by
  rw [countPaper_eq]
  split
  · exact charge_requirement (f := Job.paperCounted) (fun _ => rfl) (fun _ => rfl) m
  · rfl

theorem countPaper_stands (s : State) (n : StandNo) : (s.countPaper n).stands = s.stands := by
  rw [State.countPaper_changes]

theorem countPaper_roll (s : State) (n : StandNo) (k : RollSlot) : (s.countPaper n).roll? k = s.roll? k := by
  rw [State.countPaper_changes]
  rfl

end

/-! ## The pulse -/

theorem exec_rollerPulse {s : State} {n : StandNo} (hdevice : s.device = .ready)
    (hsource : s.working.stands[n].source = .roller) :
    exec (.rollerPulse n) s = .next (s.lengthInput n s.working.stands[n].rollerIncrement).pair :=
  congrArg Host.Outcome.next (if_pos ⟨hdevice, hsource⟩)

theorem exec_rollerPulse_idle {s : State} {n : StandNo}
    (h : s.device ≠ .ready ∨ s.working.stands[n].source = .copy) : exec (.rollerPulse n) s = .next s := by
  refine congrArg Host.Outcome.next (if_neg fun ⟨hdevice, hsource⟩ => ?_)
  obtain h | h := h
  · exact h hdevice
  · rw [h] at hsource
    contradiction

/-- R9: the last metre of the window, behind the mark checks. -/
theorem lengthInput_closes {s : State} {n : StandNo} {m : Nat} {a : Arm} {k i : RollSlot} {r q : Roll}
    (hhold : s.stands[n].trackingHold = false) (hrun : s.stands[n].running = some a)
    (hk : (s.stands[n].arm a).roll = some k) (hr : s.roll? k = some r) (hsum : 1000 ≤ s.stands[n].fraction + m)
    {checked paid : State} (hchecked : (s.metreTaken n k (s.stands[n].fraction + m - 1000)).markChecks n = checked)
    (hpaid : checked.countPaper n = paid) (hst : checked.stands[n].state = .splicing)
    (hw : checked.stands[n].window = 1) (hready : (checked.stands[n].arm a.other).status = .ready)
    (hi : (checked.stands[n].arm a.other).roll = some i) (hq : s.roll? i = some q) :
    (s.requirement n = some q.kind → s.lengthInput n m = { paid with
      stands := checked.stands.set n { checked.stands[n] with state := .spliceHeld, window := 0 }
      notices := postInto checked.notices (.spliceFailed n) (.metres (r.remaining - 1)) }) ∧
    (s.requirement n ≠ some q.kind → s.lengthInput n m = { paid with
      stands := checked.stands.set n (({ checked.stands[n] with state := .spliceHeld, window := 0 } : Stand).setArm
        a.other { ({ checked.stands[n] with state := .spliceHeld, window := 0 } : Stand).arm a.other with
          status := .mismatch })
      notices := postInto (postInto checked.notices (.spliceFailed n) (.metres (r.remaining - 1)))
        (.standbyMismatch n) (.tag q.tag) }) := by
  have hplaces : (s.metreTaken n k (s.stands[n].fraction + m - 1000)).SamePlaces checked :=
    hchecked ▸ samePlaces_markChecks _ n
  have hstands : paid.stands = checked.stands := by rw [← hpaid, countPaper_stands]
  have hnotices : paid.notices = checked.notices := by rw [← hpaid, State.countPaper_changes]
  have hpaidRoll (x : RollSlot) : paid.roll? x = checked.roll? x := by rw [← hpaid, countPaper_roll]
  have hreq : paid.requirement n = s.requirement n := by
    rw [← hpaid, countPaper_requirement, ← hchecked, requirement_congr (markChecks_jobs _ n)]
    rfl
  obtain ⟨c, hrc⟩ := hplaces.roll_some (metreTaken_roll _ hr)
  have hrunPaid : paid.stands[n].running = some a := by
    rw [hstands, hplaces.running, metreTaken_running _ hrun]
  have hkPaid : (paid.stands[n].arm a).roll = some k := by
    rw [hstands, hplaces.arm, metreTaken_arm _ hk]
  have hrPaid : paid.roll? k = some { r.stepped with claim := c } := (hpaidRoll k).trans hrc
  have hmetres : paid.runningMetres n = r.remaining - 1 := by
    rw [runningMetres_eq hrunPaid hkPaid hrPaid]
    exact stepped_remaining r
  have hstandby : ∃ q', paid.roll? i = some q' ∧ q'.kind = q.kind ∧ q'.tag = q.tag := by
    by_cases hik : i = k
    · subst hik
      obtain rfl := Option.some.inj (hq.symm.trans hr)
      exact ⟨_, hrPaid, stepped_kind_tag _⟩
    · have hq' : (s.metreTaken n k (s.stands[n].fraction + m - 1000)).roll? i = some q :=
        (tableGet_tableModify_other _ _ hik).trans hq
      obtain ⟨c', hqc⟩ := hplaces.roll_some hq'
      exact ⟨_, (hpaidRoll i).trans hqc, rfl, rfl⟩
  obtain ⟨q', hq', hkind, htag⟩ := hstandby
  have harm : (paid.windowClosed n).stands[n].arm a.other = checked.stands[n].arm a.other := by
    rw [windowClosed_arm, hstands]
  have hclosed : s.lengthInput n m = (paid.windowClosed n).demote n a.other true := by
    rw [lengthInput_metre hhold hrun hk hr hsum, hchecked, hpaid]
    exact countWindow_closes (by rw [hstands]; exact hst) (by rw [hstands]; exact hw) hrunPaid hkPaid hrPaid
  have hi' : ((paid.windowClosed n).stands[n].arm a.other).roll = some i := by rw [harm, hi]
  rw [hclosed, ← htag, ← hreq, ← hkind, ← hmetres, ← hnotices]
  refine ⟨fun hmatch => ?_, fun hmatch => ?_⟩
  · rw [demote_matching (s := paid.windowClosed n) true hi' hq' hmatch, State.windowClosed, hstands]
  · have hready' : ((paid.windowClosed n).stands[n].arm a.other).status = .ready := by rw [harm, hready]
    rw [demote_other (s := paid.windowClosed n) hready' hi' hq' hmatch, windowClosed_stand, State.windowClosed]
    simp only [hstands, Vector.set_set]

/-- Settles O51: the metre step by what the mark checks leave (`lengthInput_metre`, `countWindow_open`, `lengthInput_closes`). -/
theorem rollerPulseStepsStand : Obligations.RollerPulseStepsStand := by
  refine ⟨fun s n => ⟨exec_rollerPulse_idle, exec_rollerPulse⟩, fun s n increment => ?_⟩
  intro st sum
  refine ⟨lengthInput_idle increment, fun a k r hhold hrun hk hr => ⟨fun hshort => ?_, fun hsum => ?_⟩⟩
  · exact (lengthInput_eq increment hhold (runningRoll_eq hrun hk hr)).trans (if_neg (not_le.2 hshort))
  · intro stepped checked paid
    have hchecked : (s.metreTaken n k (s.stands[n].fraction + increment - 1000)).markChecks n = checked := rfl
    have hjobs : checked.jobs = s.jobs := markChecks_jobs stepped n
    have hreq : checked.requirement n = s.requirement n := requirement_congr hjobs n
    have hpaid : checked.countPaper n = paid := by
      rw [countPaper_eq, hreq, charge_eq, hjobs, activeSlot_of_jobs hjobs]
      change _ = match s.activeSlot with
        | none => checked
        | some j => if s.requirement n = none then checked else { checked with
            jobs := s.jobs.set j { s.jobs[j] with paper := min 4294967295 (s.jobs[j].paper + 1) } }
      cases hactive : s.activeSlot with
      | none =>
        have hnone : s.requirement n = none := by rw [State.requirement, hactive, Option.bind_none]
        rw [hnone]
        rfl
      | some j =>
        dsimp only
        cases hr : s.requirement n with
        | none => rfl
        | some kind => rfl
    have hstand : stepped.stands[n] = { st with fraction := sum - 1000 } := metreTaken_stand _
    have hmetre : s.lengthInput n increment = paid.countWindow n := by
      rw [lengthInput_metre hhold hrun hk hr hsum, hchecked, hpaid]
    have hstands : paid.stands = checked.stands := by rw [← hpaid, countPaper_stands]
    refine ⟨fun hlong hcall hsplice => ?_, fun hst => ?_, fun hst => ⟨fun hw => ?_, fun i q hw hready hi hq => ?_⟩⟩
    · refine markChecks_quiet (s := stepped) (r := r.stepped) (runningRoll_eq (a := a) (k := k)
        (metreTaken_running _ hrun) (metreTaken_arm _ hk) (metreTaken_roll _ hr)) ?_ ?_ ?_
      · rw [stepped_remaining, hstand]
        exact hcall
      · rw [stepped_remaining, hstand]
        exact hlong.imp (fun h => by omega) fun h => canRunOut_eq_false (.inr (.inr h.2))
      · rw [stepped_remaining, hstand]
        exact hsplice
    · rw [hmetre, countWindow_idle (by rw [hstands]; exact hst)]
    · rw [hmetre, countWindow_open (by rw [hstands]; exact hst) (by rw [hstands]; exact hw), hstands]
    · exact lengthInput_closes hhold hrun hk hr hsum hchecked hpaid hst hw hready hi hq

end Sys2Proof.Machine

/-! PROOF. SET BUDGET, RETIRE JOB and the edges of SALEABLE (R156, R158, R160, R162). -/

namespace Sys2Proof.Machine

theorem modJob_self (s : State) (j : JobSlot) (f : Job → Job) : (s.modJob j f).jobs[j] = f s.jobs[j] := by
  rw [State.modJob, getElem_set_fin, if_pos rfl]

theorem withJob_named (j : JobSlot) (fields : List Byte) (body : JobSlot → Reply) :
    withJob (byteAt (byteOf j.val :: fields) 0) body = body j := by
  rw [withJob, byteAt_zero, fin?_byteOf j (by decide)]

theorem exec_setBudget (s : State) : exec .setBudget s = .next (s.serve .setBudget setBudget) := rfl

theorem exec_retireJob (s : State) : exec .retireJob s = .next (s.serve .retireJob retireJob) := rfl

section
variable {s : State} {j : JobSlot} {budget : Nat}

/-! ## The budget check -/

theorem budgetCheck_idle (h : s.jobs[j].budget = 0 ∨ s.jobs[j].budgetReached = true ∨ s.jobs[j].reject < s.jobs[j].budget) :
    s.budgetCheck j = s := by
  refine if_neg fun ⟨hbudget, hreached, hle⟩ => ?_
  obtain h | h | h := h
  · exact hbudget h
  · rw [h] at hreached
    contradiction
  · omega

theorem budgetCheck_reached (hbudget : s.jobs[j].budget ≠ 0) (hreached : s.jobs[j].budgetReached = false)
    (hle : s.jobs[j].budget ≤ s.jobs[j].reject) : s.budgetCheck j = { s with
      jobs := s.jobs.set j { s.jobs[j] with budgetReached := true }
      notices := postInto s.notices (.budgetReached j) (.job s.jobs[j].number) } :=
  if_pos ⟨hbudget, hreached, hle⟩

/-! ## SET BUDGET -/

theorem newBudget_clears (h : budget = 0 ∨ s.jobs[j].reject < budget) : s.newBudget j budget = { s with
    jobs := s.jobs.set j { s.jobs[j] with budget := budget, budgetReached := false } } := by
  have hflag : (s.jobs[j].budgetReached && decide (budget ≠ 0 ∧ budget ≤ s.jobs[j].reject)) = false := by
    rw [decide_eq_false, Bool.and_false]
    omega
  rw [State.newBudget, budgetCheck_idle]
  · simp only [State.modJob, hflag]
  · rw [modJob_self]
    exact h.imp_right .inr

theorem newBudget_keeps (hbudget : budget ≠ 0) (hle : budget ≤ s.jobs[j].reject)
    (hreached : s.jobs[j].budgetReached = true) : s.newBudget j budget = { s with
      jobs := s.jobs.set j { s.jobs[j] with budget := budget } } := by
  have hflag : (s.jobs[j].budgetReached && decide (budget ≠ 0 ∧ budget ≤ s.jobs[j].reject)) =
      s.jobs[j].budgetReached := by rw [decide_eq_true ⟨hbudget, hle⟩, Bool.and_true]
  rw [State.newBudget, budgetCheck_idle]
  · simp only [State.modJob, hflag]
  · rw [modJob_self]
    exact .inr (.inl (hflag.trans hreached))

theorem newBudget_reaches (hbudget : budget ≠ 0) (hle : budget ≤ s.jobs[j].reject)
    (hreached : s.jobs[j].budgetReached = false) : s.newBudget j budget = { s with
      jobs := s.jobs.set j { s.jobs[j] with budget := budget, budgetReached := true }
      notices := postInto s.notices (.budgetReached j) (.job s.jobs[j].number) } := by
  rw [State.newBudget, budgetCheck_reached]
  · simp only [State.modJob, getElem_set_fin, if_true, Vector.set_set]
  · rw [modJob_self]
    exact hbudget
  · rw [modJob_self]
    exact (congrArg (· && _) hreached).trans (Bool.false_and _)
  · rw [modJob_self]
    exact hle

theorem num_budget (hb : budget ≤ 4294967295) : num (byteOf j.val :: beBytes 4 budget) 1 4 = budget := by
  rw [num_succ, num_whole]
  omega

theorem setBudget_wrongState (h : s.jobs[j].state = .free ∨ s.jobs[j].state = .closed) :
    setBudget (byteOf j.val :: beBytes 4 budget) s = .refuse .wrongState := by
  rw [setBudget, withJob_named]
  dsimp only
  obtain h | h := h <;> rw [h]

theorem budgetAnswer_eq {x : Job} {st : JobState} (h : x.state = st) : x.budgetAnswer =
    st.code :: (beBytes 4 x.budget ++ (beBytes 4 x.reject ++ [flagByte x.budgetReached])) := by
  rw [Job.budgetAnswer, h]
  rfl

theorem setBudget_staged (hb : budget ≤ 4294967295) (h : s.jobs[j].state = .staged) :
    setBudget (byteOf j.val :: beBytes 4 budget) s =
      .ok { s with jobs := s.jobs.set j { s.jobs[j] with budget := budget } }
        (1 :: (beBytes 4 budget ++ (beBytes 4 s.jobs[j].reject ++ [flagByte s.jobs[j].budgetReached]))) := by
  have hself : (s.modJob j fun x => { x with budget := budget }).jobs[j].budgetAnswer =
      1 :: (beBytes 4 budget ++ (beBytes 4 s.jobs[j].reject ++ [flagByte s.jobs[j].budgetReached])) := by
    rw [modJob_self]
    exact budgetAnswer_eq (st := .staged) h
  rw [setBudget, withJob_named]
  dsimp only
  rw [num_budget hb]
  split
  · rw [hself]
    rfl
  · next h' => exact JobState.noConfusion (h.symm.trans h')
  · next h' => exact JobState.noConfusion (h.symm.trans h')
  · next h' => exact JobState.noConfusion (h.symm.trans h')

theorem setBudget_active {x : Job} {es : List Notice} (hb : budget ≤ 4294967295) (h : s.jobs[j].state = .active)
    (hnew : s.newBudget j budget = { s with jobs := s.jobs.set j x, notices := es }) (hx : x.state = .active) :
    setBudget (byteOf j.val :: beBytes 4 budget) s = .ok { s with jobs := s.jobs.set j x, notices := es }
      (2 :: (beBytes 4 x.budget ++ (beBytes 4 x.reject ++ [flagByte x.budgetReached]))) := by
  have hself : (s.newBudget j budget).jobs[j].budgetAnswer =
      2 :: (beBytes 4 x.budget ++ (beBytes 4 x.reject ++ [flagByte x.budgetReached])) := by
    rw [hnew, getElem_set_fin, if_pos rfl]
    exact budgetAnswer_eq hx
  rw [setBudget, withJob_named]
  dsimp only
  rw [num_budget hb, h]
  dsimp only
  rw [hself, hnew]

/-! ## RETIRE JOB -/

theorem retireJob_eq : retireJob [byteOf j.val] s =
    if s.jobs[j].state = .closed ∧ s.closeUnfetched j = false then
      .ok (s.modJob j fun _ => Job.freed) (beBytes 2 s.jobs[j].number ++ beBytes 4 s.jobs[j].gross ++
        beBytes 4 s.jobs[j].good ++ beBytes 4 s.jobs[j].reject)
    else .refuse .wrongState := withJob_named j [] _

theorem closeUnfetched_iff : s.closeUnfetched j = true ↔ ∃ e ∈ s.notices, e.key = .jobClosed j := by
  simp only [State.closeUnfetched, List.any_eq_true, decide_eq_true_iff]

/-! ## The edges of SALEABLE -/

theorem Job.edge_eq (rising : Bool) (x : Job) : x.edge rising = { x with
    phase := if rising then .saleable else .startup
    restarts := if x.phase = .saleable ∧ rising = false then min 65535 (x.restarts + 1) else x.restarts } := by
  unfold Job.edge
  cases hphase : x.phase with
  | startup =>
    cases rising with
    | true => rfl
    | false =>
      change x = _
      rw [if_neg Bool.false_ne_true, if_neg (fun h => nomatch h.1), ← hphase]
  | saleable =>
    cases rising with
    | true =>
      change x = _
      rw [if_pos rfl, if_neg (fun h => nomatch h.2), ← hphase]
    | false => rfl

end

/-- Settles O56: the budget by the job's state and flag (`newBudget_clears` and its companions), the retirement and the edge (`Job.edge_eq`). -/
theorem budgetRetirementAndPhase : Obligations.BudgetRetirementAndPhase := by
  refine ⟨fun s tag rest j budget hserves hb => ?_, fun s tag rest j hserves => ⟨fun hclosed hfetched => ?_, fun hno => ?_⟩,
    fun s rising => ⟨fun hidle => ?_, fun j hdevice hactive => ?_⟩⟩
  · intro job out
    have hlen : (byteOf j.val :: beBytes 4 budget).length = 5 := rfl
    rw [exec_setBudget]
    refine ⟨fun hst => ?_, fun hst => ?_, fun hst => ⟨fun hclear => ?_, fun hne hle hreached => ?_,
      fun hne hle hreached => ?_⟩⟩
    · rw [serve_refused hserves hlen (setBudget_wrongState (s := s.unqueued rest) hst)]
    · rw [serve_ok hserves hlen (setBudget_staged (s := s.unqueued rest) hb hst)]
      rfl
    · rw [serve_ok hserves hlen (setBudget_active hb hst (newBudget_clears (s := s.unqueued rest) hclear) hst)]
      rfl
    · rw [serve_ok hserves hlen (setBudget_active hb hst (newBudget_keeps (s := s.unqueued rest) hne hle hreached) hst),
        ← show flagByte job.budgetReached = 1 from congrArg flagByte hreached]
      rfl
    · rw [serve_ok hserves hlen (setBudget_active hb hst (newBudget_reaches (s := s.unqueued rest) hne hle hreached) hst)]
      rfl
  · have hfetched' : (s.unqueued rest).closeUnfetched j = false :=
      Bool.eq_false_iff.2 fun h => by
        obtain ⟨e, he, hkey⟩ := closeUnfetched_iff.1 h
        exact hfetched e he hkey
    refine ⟨Job.freed, rfl, ?_⟩
    rw [exec_retireJob, serve_ok hserves rfl ((retireJob_eq (s := s.unqueued rest)).trans (if_pos ⟨hclosed, hfetched'⟩)),
      List.append_assoc, List.append_assoc]
    rfl
  · rw [exec_retireJob, serve_refused hserves rfl ((retireJob_eq (s := s.unqueued rest)).trans (if_neg ?_))]
    rintro ⟨hclosed, hfetched⟩
    obtain h | h := hno
    · exact h hclosed
    · exact Bool.eq_false_iff.1 hfetched (closeUnfetched_iff.2 h)
  · refine congrArg Host.Outcome.next ?_
    obtain h | h := hidle
    · exact if_neg h
    · split
      · have hnone : ({ s with saleable := rising } : State).activeSlot = none := h
        rw [charge_eq, hnone]
        rfl
      · rfl
  · refine congrArg Host.Outcome.next ((if_pos hdevice).trans ?_)
    have hactive' : ({ s with saleable := rising } : State).activeSlot = some j := hactive
    rw [charge_eq, hactive', chargedJobs, Option.elim_some, Job.edge_eq]

end Sys2Proof.Machine

/-! PROOF. STAGE JOB: its web plan, its checks in order, and the slot it takes (R149, R150). -/

namespace Sys2Proof.Machine

/-! ## The web plan of a request -/

/-- A web-plan entry as a request carries it (R181). -/
def planEntryBytes (e : StandNo × GradeCode × Nat) : List Byte :=
  byteOf e.1.val :: byteOf e.2.1.val :: beBytes 2 e.2.2

/-- The web plan that entries make over another (`planEntries?_eq`). -/
def planWith : List (StandNo × GradeCode × Nat) → WebPlan → WebPlan
  | [], plan => plan
  | e :: es, plan => planWith es (plan.set e.1 (some ⟨e.2.1, e.2.2⟩))

section
variable {s : State}

theorem planEntry?_eq {e : StandNo × GradeCode × Nat} (more : List Byte)
    (hg : s.working.grades[e.2.1].defined = true) (hw : 300 ≤ e.2.2) (hw' : e.2.2 ≤ 2600) :
    s.planEntry? ((planEntryBytes e ++ more).take 4) = some (e.1, ⟨e.2.1, e.2.2⟩) := by
  have htake : (planEntryBytes e ++ more).take 4 = planEntryBytes e := List.take_left' rfl
  have hstand : fin? 8 (byteAt (planEntryBytes e) 0) = some e.1 := by
    rw [planEntryBytes, byteAt_zero, fin?_byteOf e.1 (by decide)]
  have hgrade : fin? 16 (byteAt (planEntryBytes e) 1) = some e.2.1 := by
    rw [planEntryBytes, byteAt_succ, byteAt_zero, fin?_byteOf e.2.1 (by decide)]
  have hwidth : num (planEntryBytes e) 2 2 = e.2.2 := by
    rw [planEntryBytes, num_succ, num_succ, num_whole]
    omega
  rw [htake, State.planEntry?, hstand, hgrade]
  dsimp only
  rw [hwidth]
  exact if_pos ⟨decide_eq_true ⟨hw, hw'⟩, hg⟩

theorem planEntries?_eq {es : List (StandNo × GradeCode × Nat)} {plan : WebPlan} (hnodup : (es.map Prod.fst).Nodup)
    (hvalid : ∀ e ∈ es, s.working.grades[e.2.1].defined = true ∧ 300 ≤ e.2.2 ∧ e.2.2 ≤ 2600)
    (hfree : ∀ e ∈ es, plan[e.1] = none) :
    s.planEntries? es.length (es.flatMap planEntryBytes) plan = some (planWith es plan) := by
  induction es generalizing plan with
  | nil => rfl
  | cons e es ih =>
    rw [List.map_cons, List.nodup_cons] at hnodup
    obtain ⟨hnot, hnodup⟩ := hnodup
    obtain ⟨hg, hw, hw'⟩ := hvalid e List.mem_cons_self
    have hnone : plan[e.1].isSome = false := by
      rw [hfree e List.mem_cons_self]
      rfl
    rw [List.length_cons, List.flatMap_cons, State.planEntries?, planEntry?_eq _ hg hw hw']
    dsimp only
    rw [hnone, if_neg Bool.false_ne_true,
      show (planEntryBytes e ++ es.flatMap planEntryBytes).drop 4 = es.flatMap planEntryBytes from List.drop_left' rfl]
    refine ih hnodup (fun x hx => hvalid x (List.mem_cons_of_mem _ hx)) fun x hx => ?_
    rw [getElem_set_fin, if_neg, hfree x (List.mem_cons_of_mem _ hx)]
    exact fun h => hnot (h ▸ List.mem_map_of_mem hx)

theorem planWith_other {es : List (StandNo × GradeCode × Nat)} {plan : WebPlan} {n : StandNo}
    (h : n ∉ es.map Prod.fst) : (planWith es plan)[n] = plan[n] := by
  induction es generalizing plan with
  | nil => rfl
  | cons e es ih =>
    rw [List.map_cons, List.mem_cons, not_or] at h
    rw [planWith, ih h.2, getElem_set_fin, if_neg h.1]

theorem planWith_entry {es : List (StandNo × GradeCode × Nat)} {plan : WebPlan} (hnodup : (es.map Prod.fst).Nodup)
    {n : StandNo} {g : GradeCode} {w : Nat} (h : (n, g, w) ∈ es) : (planWith es plan)[n] = some ⟨g, w⟩ := by
  induction es generalizing plan with
  | nil => contradiction
  | cons e es ih =>
    rw [List.map_cons, List.nodup_cons] at hnodup
    obtain ⟨hnot, hnodup⟩ := hnodup
    obtain rfl | h := List.mem_cons.1 h
    · rw [planWith, planWith_other hnot, getElem_set_fin, if_pos rfl]
    · exact ih hnodup h

/-- R149: a stand of the plan is one of the entries'. -/
theorem planWith_isSome {es : List (StandNo × GradeCode × Nat)} (hnodup : (es.map Prod.fst).Nodup) {n : StandNo} :
    (planWith es (Vector.replicate 8 none))[n].isSome = true ↔ n ∈ es.map Prod.fst := by
  refine ⟨fun h => ?_, fun h => ?_⟩
  · by_contra hnot
    rw [planWith_other hnot] at h
    simp at h
  · obtain ⟨⟨_, g, w⟩, he, rfl⟩ := List.mem_map.1 h
    rw [planWith_entry hnodup he]
    rfl

/-! ## The checks -/

theorem planNamesOff_iff {es : List (StandNo × GradeCode × Nat)} (hnodup : (es.map Prod.fst).Nodup) :
    s.planNamesOff (planWith es (Vector.replicate 8 none)) = true ↔ ∃ e ∈ es, s.stands[e.1].state = .off := by
  rw [State.planNamesOff, List.any_eq_true]
  refine ⟨fun ⟨n, _, h⟩ => ?_, fun ⟨e, he, hoff⟩ => ⟨e.1, List.mem_finRange _, ?_⟩⟩
  · rw [Bool.and_eq_true, planWith_isSome hnodup, decide_eq_true_iff] at h
    obtain ⟨e, he, rfl⟩ := List.mem_map.1 h.1
    exact ⟨e, he, h.2⟩
  · rw [Bool.and_eq_true, planWith_isSome hnodup, decide_eq_true_iff]
    exact ⟨List.mem_map_of_mem he, hoff⟩

theorem jobNumberUsed_iff {number : Nat} : s.jobNumberUsed number = true ↔
    ∃ i : JobSlot, (s.jobs[i].state = .active ∨ s.jobs[i].state = .closed) ∧ s.jobs[i].number = number := by
  rw [State.jobNumberUsed, List.any_eq_true]
  refine exists_congr fun i => ?_
  rw [decide_eq_true_iff]
  exact and_iff_right (List.mem_finRange i)

theorem stagedSlot_eq {j : JobSlot} (h : s.jobs[j].state = .staged) (hlow : ∀ i, i < j → s.jobs[i].state ≠ .staged) :
    s.stagedSlot = some j :=
  find?_finRange_eq_some.2 ⟨decide_eq_true h, fun i hi => decide_eq_false (hlow i hi)⟩

theorem stagedSlot_none (h : ∀ i : JobSlot, s.jobs[i].state ≠ .staged) : s.stagedSlot = none :=
  find?_finRange_eq_none.2 fun i => decide_eq_false (h i)

theorem freeJobSlot_eq {j : JobSlot} (h : s.jobs[j].state = .free) (hlow : ∀ i, i < j → s.jobs[i].state ≠ .free) :
    s.freeJobSlot = some j :=
  find?_finRange_eq_some.2 ⟨decide_eq_true h, fun i hi => decide_eq_false (hlow i hi)⟩

theorem freeJobSlot_none (h : ∀ i : JobSlot, s.jobs[i].state ≠ .free) : s.freeJobSlot = none :=
  find?_finRange_eq_none.2 fun i => decide_eq_false (h i)

variable {number cutoff budget : Nat} {plan : WebPlan}

theorem stage_wrongState (h : s.planNamesOff plan = true) : s.stage number cutoff budget plan = .refuse .wrongState :=
  if_pos h

theorem stage_duplicate (hoff : s.planNamesOff plan = false) (h : s.jobNumberUsed number = true) :
    s.stage number cutoff budget plan = .refuse .duplicate := by
  rw [State.stage, hoff, if_neg Bool.false_ne_true]
  exact if_pos h

theorem stage_full (hoff : s.planNamesOff plan = false) (hused : s.jobNumberUsed number = false)
    (hstaged : s.stagedSlot = none) (hfree : s.freeJobSlot = none) :
    s.stage number cutoff budget plan = .refuse .full := by
  rw [State.stage, hoff, if_neg Bool.false_ne_true, hused, if_neg Bool.false_ne_true, hstaged, hfree]

theorem stage_staged {j : JobSlot} (hoff : s.planNamesOff plan = false) (hused : s.jobNumberUsed number = false)
    (hstaged : s.stagedSlot = some j) : s.stage number cutoff budget plan =
      .ok (s.modJob j fun x => x.staged number cutoff budget plan) [byteOf j, 1] := by
  rw [State.stage, hoff, if_neg Bool.false_ne_true, hused, if_neg Bool.false_ne_true, hstaged]

theorem stage_free {j : JobSlot} (hoff : s.planNamesOff plan = false) (hused : s.jobNumberUsed number = false)
    (hstaged : s.stagedSlot = none) (hfree : s.freeJobSlot = some j) : s.stage number cutoff budget plan =
      .ok (s.modJob j fun _ => Job.freed.staged number cutoff budget plan) [byteOf j, 0] := by
  rw [State.stage, hoff, if_neg Bool.false_ne_true, hused, if_neg Bool.false_ne_true, hstaged, hfree]

/-! ## The request -/

/-- The fields of a STAGE JOB (R149). -/
def stageFields (number cutoff budget : Nat) (es : List (StandNo × GradeCode × Nat)) : List Byte :=
  beBytes 2 number ++ (beBytes 2 cutoff ++ (beBytes 4 budget ++ (byteOf es.length :: es.flatMap planEntryBytes)))

theorem exec_stageJob (s : State) : exec .stageJob s = .next (s.serve .stageJob stageJob) := rfl

variable {es : List (StandNo × GradeCode × Nat)}

theorem entries_length_le (h : (es.map Prod.fst).Nodup) : es.length ≤ 8 := by
  have := h.length_le_card
  rwa [List.length_map, Fintype.card_fin] at this

theorem stageFields_count (h : es.length ≤ 8) : byteAt (stageFields number cutoff budget es) 8 = es.length := by
  have hcount : byteAt (stageFields number cutoff budget es) 8 =
      byteAt (byteOf es.length :: es.flatMap planEntryBytes) 0 := by
    rw [stageFields, byteAt_behind 2 number _ 6, byteAt_behind 2 cutoff _ 4, byteAt_behind 4 budget _ 0]
  rw [hcount, byteAt_zero, byteOf_toNat_of_lt (by omega)]

theorem flatMap_planEntryBytes_length (es : List (StandNo × GradeCode × Nat)) : (es.flatMap planEntryBytes).length = 4 * es.length := by
  induction es with
  | nil => rfl
  | cons e es ih =>
    have he : (planEntryBytes e).length = 4 := rfl
    rw [List.flatMap_cons, List.length_append, ih, he, List.length_cons]
    omega

theorem stageFields_length :
    (stageFields number cutoff budget es).length = 9 + 4 * es.length := by
  simp only [stageFields, List.length_append, beBytes_length, List.length_cons, flatMap_planEntryBytes_length]
  omega

theorem stageJob_eq (hnumber : number ≤ 65535) (hcutoff : cutoff ≤ 65535) (hbudget : budget ≤ 4294967295)
    (hnodup : (es.map Prod.fst).Nodup)
    (hvalid : ∀ e ∈ es, s.working.grades[e.2.1].defined = true ∧ 300 ≤ e.2.2 ∧ e.2.2 ≤ 2600) :
    stageJob (stageFields number cutoff budget es) s =
      if number = 0 ∨ within 300 999 cutoff = false ∨ 8 < es.length then .refuse .badField
      else s.stage number cutoff budget (planWith es (Vector.replicate 8 none)) := by
  have hnum : num (stageFields number cutoff budget es) 0 2 = number := num_head _ (by omega)
  have hcut : num (stageFields number cutoff budget es) 2 2 = cutoff := by
    rw [stageFields, num_behind 2 number _ 0, num_head _ (by omega)]
  have hbud : num (stageFields number cutoff budget es) 4 4 = budget := by
    rw [stageFields, num_behind 2 number _ 2, num_behind 2 cutoff _ 0, num_head _ (by omega)]
  have hdrop : (stageFields number cutoff budget es).drop 9 = es.flatMap planEntryBytes := by
    have hfront : stageFields number cutoff budget es =
        (beBytes 2 number ++ beBytes 2 cutoff ++ beBytes 4 budget ++ [byteOf es.length]) ++
          es.flatMap planEntryBytes := by
      simp only [stageFields, List.append_assoc, List.cons_append, List.nil_append]
    rw [hfront]
    exact List.drop_left' rfl
  have hplan : s.planEntries? es.length (es.flatMap planEntryBytes) (Vector.replicate 8 none) =
      some (planWith es (Vector.replicate 8 none)) :=
    planEntries?_eq hnodup hvalid fun e _ => Vector.getElem_replicate _
  unfold stageJob
  dsimp only
  rw [hnum, hcut, hbud, hdrop, stageFields_count (entries_length_le hnodup), hplan]

end

/-- Settles O54: the checks in order (`stageJob_eq`, `stage_wrongState` and its companions), with the web plan of `planWith`. -/
theorem stageJobFillsSlot : Obligations.StageJobFillsSlot := by
  intro s tag rest number cutoff budget es hserves hnumber hcutoff hbudget hnodup hvalid
  have hfields : s.Serves .stageJob tag (stageFields number cutoff budget es) rest := hserves
  have hcount := entries_length_le hnodup
  have hlen : (stageFields number cutoff budget es).length =
      RequestKind.stageJob.fieldBytes (stageFields number cutoff budget es) := by
    rw [stageFields_length, ← stageFields_count (number := number) (cutoff := cutoff) (budget := budget) hcount]
    rfl
  have hbody := stageJob_eq (s := s.unqueued rest) hnumber hcutoff hbudget hnodup hvalid
  rw [exec_stageJob]
  refine ⟨fun hbad => ?_, fun h1 hlow hhigh => ?_⟩
  · rw [serve_refused hfields hlen (hbody.trans (if_pos ?_))]
    obtain h | h | h := hbad
    · exact .inl h
    · exact .inr (.inl (decide_eq_false (by omega)))
    · exact .inr (.inl (decide_eq_false (by omega)))
  · have hgood : ¬ (number = 0 ∨ within 300 999 cutoff = false ∨ 8 < es.length) := by
      rintro (h | h | h)
      · omega
      · exact of_decide_eq_false h ⟨hlow, hhigh⟩
      · omega
    rw [if_neg hgood] at hbody
    refine ⟨fun hoff => ?_, fun hon => ?_⟩
    · rw [serve_refused hfields hlen (hbody.trans
        (stage_wrongState ((planNamesOff_iff (s := s.unqueued rest) hnodup).2 hoff)))]
    · have hnames : (s.unqueued rest).planNamesOff (planWith es (Vector.replicate 8 none)) = false :=
        Bool.eq_false_iff.2 fun h => by
          obtain ⟨e, he, hoff⟩ := (planNamesOff_iff hnodup).1 h
          exact hon e he hoff
      intro used
      have hunused (h : ¬ used) : (s.unqueued rest).jobNumberUsed number = false :=
        Bool.eq_false_iff.2 fun h' => h (jobNumberUsed_iff.1 h')
      refine ⟨fun h => ?_, fun h hfull => ?_, fun h => ⟨planWith es (Vector.replicate 8 none),
        fun n g w he => planWith_entry hnodup he,
        fun n hn => ?_, fun j hj hlow => ?_, fun j hstaged hj hlow => ?_⟩⟩
      · rw [serve_refused hfields hlen (hbody.trans
          (stage_duplicate hnames ((jobNumberUsed_iff (s := s.unqueued rest)).2 h)))]
      · have hstaged : (s.unqueued rest).stagedSlot = none := stagedSlot_none fun i hi => by
          obtain h | h := hfull i <;> exact JobState.noConfusion (h.symm.trans hi)
        have hfree : (s.unqueued rest).freeJobSlot = none := freeJobSlot_none fun i hi => by
          obtain h | h := hfull i <;> exact JobState.noConfusion (h.symm.trans hi)
        rw [serve_refused hfields hlen (hbody.trans (stage_full hnames (hunused h) hstaged hfree))]
      · exact (planWith_other hn).trans (Vector.getElem_replicate _)
      · have hslot : (s.unqueued rest).stagedSlot = some j := stagedSlot_eq (s := s.unqueued rest) hj hlow
        have hsame : (s.unqueued rest).jobs[j].state = .staged := hj
        rw [serve_ok hfields hlen (hbody.trans (stage_staged hnames (hunused h) hslot)), State.modJob, Job.staged,
          ← hsame]
        rfl
      · have hnone : (s.unqueued rest).stagedSlot = none := stagedSlot_none (s := s.unqueued rest) hstaged
        have hslot : (s.unqueued rest).freeJobSlot = some j := freeJobSlot_eq (s := s.unqueued rest) hj hlow
        rw [serve_ok hfields hlen (hbody.trans (stage_free hnames (hunused h) hnone hslot))]
        rfl

end Sys2Proof.Machine

/-! PROOF. The copy event: the count, then the length inputs of the COPY-source stands in a row (R7, R12, R16, R155, R158). -/

namespace Sys2Proof.Machine

/-! ## One length input, by what the next ones depend on -/

/-- A copy input reaches the stand and moves it on (R7, R8). -/
def State.moves (s : State) (n : StandNo) : Bool :=
  decide (s.working.stands[n].source = .copy) && !s.stands[n].trackingHold && (s.runningRoll n).isSome

/-- A copy input of `c` millimetres to the stand completes a metre that the ACTIVE job counts (R9). -/
def State.paysMetre (s : State) (c : Nat) (n : StandNo) : Bool :=
  s.moves n && (s.requirement n).isSome && decide (1000 ≤ s.stands[n].fraction + c)

/-- What length inputs leave of the facts they depend on. -/
structure State.SameInputs (s t : State) : Prop where
  moves : ∀ n, t.moves n = s.moves n
  requirement : ∀ n, t.requirement n = s.requirement n
  active : t.activeSlot = s.activeSlot
  working : t.working = s.working
  waste : t.wasteFraction = s.wasteFraction

theorem State.SameInputs.refl (s : State) : s.SameInputs s := ⟨fun _ => rfl, fun _ => rfl, rfl, rfl, rfl⟩

theorem State.SameInputs.trans {s t u : State} (h : s.SameInputs t) (h' : t.SameInputs u) : s.SameInputs u :=
  ⟨fun n => (h'.moves n).trans (h.moves n), fun n => (h'.requirement n).trans (h.requirement n),
    h'.active.trans h.active, h'.working.trans h.working, h'.waste.trans h.waste⟩

/-- One length input of `c` millimetres, when it comes to the stand. -/
def State.copyInput (s : State) (c : Nat) (n : StandNo) : State :=
  if s.working.stands[n].source = .copy then s.lengthInput n c else s

/-- The jobs behind one metre of a stand of the web plan (R9). -/
def paidJobs (active : Option JobSlot) (jobs : Vector Job 4) : Vector Job 4 := chargedJobs jobs active Job.paperCounted

section
variable {s t : State} {n m : StandNo} {c : Nat}

theorem runningRoll_isSome {a : Arm} {k : RollSlot} (hrun : s.stands[m].running = some a)
    (hk : (s.stands[m].arm a).roll = some k) : (s.runningRoll m).isSome = (s.roll? k).isSome := by
  rw [State.runningRoll, runningSlot_eq hrun hk, Option.bind_some]

/-- The running rolls stay where the rolls and arms do. -/
theorem runningRoll_isSome_congr (hroll : ∀ k, (t.roll? k).isSome = (s.roll? k).isSome)
    (harm : ∀ a, (t.stands[m].arm a).roll = (s.stands[m].arm a).roll)
    (hrun : t.stands[m].running = s.stands[m].running) : (t.runningRoll m).isSome = (s.runningRoll m).isSome := by
  have hslot : t.runningSlot m = s.runningSlot m := by
    rw [State.runningSlot, State.runningSlot, hrun]
    exact congrArg _ (funext harm)
  rw [State.runningRoll, State.runningRoll, hslot]
  cases s.runningSlot m with
  | none => rfl
  | some k => exact hroll k

theorem State.SamePlaces.runningRoll_isSome (h : s.SamePlaces t) :
    (t.runningRoll m).isSome = (s.runningRoll m).isSome := by
  refine runningRoll_isSome_congr (fun k => ?_) (h.arm m) (h.running m)
  rw [← Option.isSome_map (f := Roll.unclaimed), h.roll, Option.isSome_map]

theorem samePlaces_post (s : State) (key : NoticeKey) (detail : NoticeDetail) : s.SamePlaces (s.post key detail) :=
  samePlaces_of_eq rfl rfl

theorem samePlaces_countWindow (s : State) (n : StandNo) : s.SamePlaces (s.countWindow n) := by
  have hcounted : s.SamePlaces (s.modStand n fun x => { x with window := x.window - 1 }) :=
    samePlaces_modStand (f := fun x => { x with window := x.window - 1 }) (fun _ => arm_roll_of_arms rfl rfl)
      (fun _ => rfl) (fun _ => rfl) n
  unfold State.countWindow
  dsimp only
  split
  · split
    · exact ((hcounted.trans (samePlaces_setStandState _ n .spliceHeld)).trans (samePlaces_post _ _ _)).trans
        (samePlaces_compareStandby _ n)
    · exact hcounted
  · exact .refl s

theorem samePlaces_metre (s : State) (n : StandNo) :
    s.SamePlaces (((s.markChecks n).countPaper n).countWindow n) :=
  ((samePlaces_markChecks s n).trans
    (samePlaces_of_eq (by rw [State.countPaper_changes]) (countPaper_stands _ n))).trans (samePlaces_countWindow _ n)

theorem metre_jobs (s : State) (n : StandNo) : (((s.markChecks n).countPaper n).countWindow n).jobs =
    if (s.requirement n).isSome then paidJobs s.activeSlot s.jobs else s.jobs := by
  rw [State.countWindow_changes, countPaper_eq, requirement_congr (markChecks_jobs s n)]
  split
  · rw [charge_eq, markChecks_jobs, activeSlot_of_jobs (markChecks_jobs s n)]
    rfl
  · exact markChecks_jobs s n

theorem paidJobs_state (active : Option JobSlot) (jobs : Vector Job 4) (j : JobSlot) :
    (paidJobs active jobs)[j].state = jobs[j].state ∧ (paidJobs active jobs)[j].plan = jobs[j].plan := by
  unfold paidJobs chargedJobs
  cases active with
  | none => exact ⟨rfl, rfl⟩
  | some i =>
    dsimp only [Option.elim_some]
    rw [getElem_set_fin]
    split
    · next h => rw [h]; exact ⟨rfl, rfl⟩
    · exact ⟨rfl, rfl⟩

theorem requirement_of_jobs (hstate : ∀ j : JobSlot, t.jobs[j].state = s.jobs[j].state)
    (hplan : ∀ j : JobSlot, t.jobs[j].plan = s.jobs[j].plan) : t.requirement n = s.requirement n := by
  rw [State.requirement, State.requirement, activeSlot_congr hstate]
  exact congrArg _ (funext fun j => by rw [hplan])

theorem stepped_isSome (k j : RollSlot) (f : Nat) :
    ((s.metreTaken n k f).roll? j).isSome = (s.roll? j).isSome := by
  by_cases h : j = k
  · subst h
    refine (congrArg Option.isSome (tableGet_tableModify_self _ _ _)).trans ?_
    exact Option.isSome_map
  · exact congrArg Option.isSome (tableGet_tableModify_other _ _ h)

theorem metreTaken_arms (k : RollSlot) (f : Nat) (a : Arm) :
    ((s.metreTaken n k f).stands[m].arm a).roll = (s.stands[m].arm a).roll := by
  by_cases h : m = n
  · subst h
    rw [metreTaken_stand]
    exact arm_roll_of_arms rfl rfl a
  · rw [State.metreTaken, getElem_set_fin, if_neg h]

theorem metreTaken_runs (k : RollSlot) (f : Nat) :
    (s.metreTaken n k f).stands[m].running = s.stands[m].running ∧
      (s.metreTaken n k f).stands[m].trackingHold = s.stands[m].trackingHold := by
  by_cases h : m = n
  · subst h
    rw [metreTaken_stand]
    exact ⟨rfl, rfl⟩
  · rw [State.metreTaken, getElem_set_fin, if_neg h]
    exact ⟨rfl, rfl⟩

/-- The effects of one copy input (R7 to R9). -/
structure State.CopyInput (s : State) (c : Nat) (n : StandNo) (t : State) : Prop where
  same : s.SameInputs t
  other : ∀ m, m ≠ n → t.stands[m].fraction = s.stands[m].fraction
  fraction : t.stands[n].fraction = if s.moves n then (s.stands[n].fraction + c) % 1000 else s.stands[n].fraction
  jobs : t.jobs = if s.paysMetre c n then paidJobs s.activeSlot s.jobs else s.jobs

theorem moves_eq_false (h : s.working.stands[n].source ≠ .copy ∨ s.stands[n].trackingHold = true ∨
    s.runningRoll n = none) : s.moves n = false := by
  unfold State.moves
  obtain h | h | h := h
  · rw [decide_eq_false h, Bool.false_and, Bool.false_and]
  · rw [h, Bool.not_true, Bool.and_false, Bool.false_and]
  · rw [h, Option.isSome_none, Bool.and_false]

theorem copyInput_idle (h : s.moves n = false) (ht : t = s) : s.CopyInput c n t where
  same := ht ▸ .refl s
  other _ _ := by rw [ht]
  fraction := by rw [h, ht]; rfl
  jobs := by rw [State.paysMetre, h, ht]; rfl

theorem moves_congr (hworking : t.working = s.working) (hhold : t.stands[m].trackingHold = s.stands[m].trackingHold)
    (hroll : (t.runningRoll m).isSome = (s.runningRoll m).isSome) : t.moves m = s.moves m := by
  rw [State.moves, State.moves, hworking, hhold, hroll]

/-- A copy input short of a metre. -/
theorem copyInput_short (hmoves : s.moves n = true) (h : s.stands[n].fraction + c < 1000) :
    s.CopyInput c n { s with stands := s.stands.set n { s.stands[n] with fraction := s.stands[n].fraction + c } } := by
  have hread (m : StandNo) : (s.stands.set n { s.stands[n] with fraction := s.stands[n].fraction + c })[m] =
      if m = n then { s.stands[n] with fraction := s.stands[n].fraction + c } else s.stands[m] := getElem_set_fin _ _ _ _
  refine ⟨⟨fun m => moves_congr rfl ?_ (runningRoll_isSome_congr (fun _ => rfl) (fun a => ?_) ?_), fun _ => rfl, rfl, rfl,
    rfl⟩, fun m hm => ?_, ?_, ?_⟩
  · rw [hread]
    split
    · next h => rw [h]
    · rfl
  · rw [hread]
    split
    · next h => rw [h]; exact arm_roll_of_arms rfl rfl a
    · rfl
  · rw [hread]
    split
    · next h => rw [h]
    · rfl
  · rw [hread, if_neg hm]
  · rw [hread, if_pos rfl, hmoves, if_pos rfl, Nat.mod_eq_of_lt h]
  · rw [State.paysMetre, decide_eq_false (not_le.2 h), Bool.and_false]
    rfl

/-- A copy input that completes a metre. -/
theorem copyInput_metre {k : RollSlot} {f : Nat} (hmoves : s.moves n = true) (hsum : 1000 ≤ s.stands[n].fraction + c)
    (hf : f = (s.stands[n].fraction + c) % 1000)
    (ht : t = (((s.metreTaken n k f).markChecks n).countPaper n).countWindow n) : s.CopyInput c n t := by
  have hplaces : (s.metreTaken n k f).SamePlaces t := ht ▸ samePlaces_metre _ n
  have hjobs : t.jobs = if (s.requirement n).isSome then paidJobs s.activeSlot s.jobs else s.jobs :=
    (congrArg State.jobs ht).trans (metre_jobs _ n)
  have hstate (j : JobSlot) : t.jobs[j].state = s.jobs[j].state ∧ t.jobs[j].plan = s.jobs[j].plan := by
    rw [hjobs]
    split
    · exact paidJobs_state _ _ j
    · exact ⟨rfl, rfl⟩
  have hfixed : t = { s with
      rolls := t.rolls, orders := t.orders, nextNumber := t.nextNumber, waiting := t.waiting, demand := t.demand
      stands := t.stands, jobs := t.jobs, notices := t.notices } := by
    rw [ht, State.countWindow_changes, State.countPaper_changes, State.markChecks_changes]
    rfl
  have hworking : t.working = s.working := by rw [hfixed]
  have htracked (m : StandNo) : t.stands[m].trackingHold = s.stands[m].trackingHold ∧
      t.stands[m].fraction = (s.metreTaken n k f).stands[m].fraction :=
    ⟨(congrArg Prod.fst (hplaces.tracked m)).trans (metreTaken_runs k f).2, congrArg Prod.snd (hplaces.tracked m)⟩
  refine ⟨⟨fun m => moves_congr hworking (htracked m).1 (hplaces.runningRoll_isSome.trans
    (runningRoll_isSome_congr (fun j => stepped_isSome k j f) (metreTaken_arms k f) (metreTaken_runs k f).1)),
    fun m => requirement_of_jobs (fun j => (hstate j).1) fun j => (hstate j).2,
    activeSlot_congr fun j => (hstate j).1, hworking, by rw [hfixed]⟩, fun m hm => ?_, ?_, ?_⟩
  · rw [(htracked m).2, State.metreTaken, getElem_set_fin, if_neg hm]
  · rw [(htracked n).2, metreTaken_stand, hmoves, if_pos rfl, ← hf]
  · rw [hjobs, State.paysMetre, hmoves, decide_eq_true hsum, Bool.true_and, Bool.and_true]

theorem copyInput_spec (hc : c ≤ 999) (hf : s.stands[n].fraction < 1000) : s.CopyInput c n (s.copyInput c n) := by
  unfold State.copyInput
  split
  · next hsource =>
    by_cases hidle : s.stands[n].trackingHold = true ∨ s.runningRoll n = none
    · exact copyInput_idle (moves_eq_false (.inr hidle)) (lengthInput_idle c hidle)
    · obtain ⟨hhold, hroll⟩ := not_or.1 hidle
      rw [Bool.not_eq_true] at hhold
      obtain ⟨r, hr⟩ := Option.ne_none_iff_exists'.1 hroll
      have hmoves : s.moves n = true := by
        rw [State.moves, decide_eq_true hsource, hhold, hr]
        rfl
      by_cases hsum : 1000 ≤ s.stands[n].fraction + c
      · obtain ⟨k, hk, hkr⟩ := Option.bind_eq_some_iff.1 hr
        obtain ⟨a, hrun, ha⟩ := Option.bind_eq_some_iff.1 hk
        refine copyInput_metre (k := k) hmoves hsum ?_ (lengthInput_metre hhold hrun ha hkr hsum)
        rw [Nat.mod_eq_sub_mod hsum, Nat.mod_eq_of_lt]
        omega
      · rw [lengthInput_eq c hhold hr, if_neg hsum]
        exact copyInput_short hmoves (not_le.1 hsum)
  · next hsource => exact copyInput_idle (moves_eq_false (.inl hsource)) rfl

end

/-! ## The inputs in a row -/

/-- The length inputs of a copy event, stand after stand (R7). -/
def State.copyInputs (s : State) (c : Nat) (stands : List StandNo) : State :=
  stands.foldl (fun t n => t.copyInput c n) s

/-- The effects of the copy inputs to some stands. -/
structure State.CopyInputs (s : State) (c : Nat) (stands : List StandNo) (t : State) : Prop where
  same : s.SameInputs t
  fraction : ∀ n : StandNo, t.stands[n].fraction =
    if n ∈ stands ∧ s.moves n = true then (s.stands[n].fraction + c) % 1000 else s.stands[n].fraction
  jobs : t.jobs = (paidJobs s.activeSlot)^[stands.countP (s.paysMetre c)] s.jobs

theorem copyInputs_spec {s : State} {c : Nat} {stands : List StandNo} (hc : c ≤ 999)
    (hf : ∀ n : StandNo, s.stands[n].fraction < 1000) (hnodup : stands.Nodup) :
    s.CopyInputs c stands (s.copyInputs c stands) := by
  induction stands generalizing s with
  | nil => exact ⟨.refl s, fun n => by rw [if_neg fun h => List.not_mem_nil h.1]; rfl, rfl⟩
  | cons n ns ih =>
    obtain ⟨hnot, hnodup⟩ := List.nodup_cons.1 hnodup
    have hone : s.CopyInput c n (s.copyInput c n) := copyInput_spec hc (hf n)
    have hf' (m : StandNo) : (s.copyInput c n).stands[m].fraction < 1000 := by
      by_cases h : m = n
      · subst h
        rw [hone.fraction]
        split
        · exact Nat.mod_lt _ (by decide)
        · exact hf m
      · rw [hone.other m h]
        exact hf m
    have hrest := ih hf' hnodup
    refine ⟨hone.same.trans hrest.same, fun m => ?_, ?_⟩
    · rw [State.copyInputs, List.foldl_cons]
      refine (hrest.fraction m).trans ?_
      rw [hone.same.moves]
      by_cases h : m = n
      · subst h
        rw [if_neg fun h' => hnot h'.1, hone.fraction]
        exact if_congr ⟨fun h' => ⟨List.mem_cons_self, h'⟩, fun h' => h'.2⟩ rfl rfl
      · rw [hone.other m h]
        exact if_congr (and_congr_left' ⟨List.mem_cons_of_mem n, fun h' => (List.mem_cons.1 h').resolve_left h⟩) rfl rfl
    · rw [State.copyInputs, List.foldl_cons]
      refine hrest.jobs.trans ?_
      have hpays (m : StandNo) (hm : m ∈ ns) : (s.copyInput c n).paysMetre c m = s.paysMetre c m := by
        have hne : m ≠ n := fun h => hnot (h ▸ hm)
        rw [State.paysMetre, hone.same.moves, hone.same.requirement, hone.other m hne]
        rfl
      rw [hone.same.active, List.countP_congr fun m hm => by rw [hpays m hm], List.countP_cons, hone.jobs]
      split
      · exact (Function.iterate_succ_apply _ _ _).symm
      · rfl

theorem paidJobs_iterate (j : JobSlot) (jobs : Vector Job 4) (k : Nat) :
    (paidJobs (some j))^[k] jobs = jobs.set j (Job.paperCounted^[k] jobs[j]) := by
  induction k generalizing jobs with
  | zero => exact (Vector.set_getElem_self _).symm
  | succ k ih =>
    have hself : (paidJobs (some j) jobs)[j] = jobs[j].paperCounted := by
      change (jobs.set j _)[j] = _
      rw [getElem_set_fin, if_pos rfl]
    rw [Function.iterate_succ_apply, ih, Function.iterate_succ_apply, hself]
    change (jobs.set j jobs[j].paperCounted).set j _ = _
    rw [Vector.set_set]

theorem paperCounted_iterate (x : Job) (k : Nat) : Job.paperCounted^[k] x =
    { x with paper := if k = 0 then x.paper else min 4294967295 (x.paper + k) } := by
  induction k generalizing x with
  | zero => rfl
  | succ k ih =>
    rw [Function.iterate_succ_apply, ih]
    have hpaper : x.paperCounted.paper = min 4294967295 (x.paper + 1) := rfl
    have hsum : (if k = 0 then x.paperCounted.paper else min 4294967295 (x.paperCounted.paper + k)) =
        if k + 1 = 0 then x.paper else min 4294967295 (x.paper + (k + 1)) := by
      rw [hpaper, if_neg (Nat.succ_ne_zero k)]
      split <;> omega
    rw [hsum]
    rfl

/-! ## The count -/

section
variable {s : State} {j : JobSlot} {reject : Bool}

theorem wasteStands_eq (s : State) : s.wasteStands = (List.finRange 8).countP fun n =>
    (s.requirement n).isSome && (s.runningRoll n).isSome && !s.stands[n].trackingHold :=
  (List.countP_eq_length_filter ..).symm

theorem countCopy_full (h : s.activeSlot = some j) (hfull : s.jobs[j].countFull = true ∨ 4294967295 ≤ s.jobs[j].gross) :
    s.countCopy reject = { s with jobs := s.jobs.set j { s.jobs[j] with countFull := true } } := by
  rw [State.countCopy, h]
  exact if_pos hfull

theorem countCopy_open (h : s.activeSlot = some j) (hfull : s.jobs[j].countFull = false)
    (hgross : s.jobs[j].gross < 4294967295) : s.countCopy reject =
      if reject ∨ s.jobs[j].phase = .startup then ((s.chargeRun j).modJob j (Job.countCopy reject)).budgetCheck j
      else s.modJob j (Job.countCopy reject) := by
  rw [State.countCopy, h]
  refine if_neg (not_or.2 ⟨?_, not_le.2 hgross⟩)
  rw [hfull]
  exact Bool.false_ne_true

theorem countCopy_good (h : s.activeSlot = some j) (hfull : s.jobs[j].countFull = false)
    (hgross : s.jobs[j].gross < 4294967295) (hreject : reject = false) (hphase : s.jobs[j].phase = .saleable) :
    s.countCopy reject = { s with
      jobs := s.jobs.set j { s.jobs[j] with gross := s.jobs[j].gross + 1, good := s.jobs[j].good + 1 } } := by
  have hno : ¬ (reject = true ∨ s.jobs[j].phase = .startup) := by
    rw [hreject, hphase]
    rintro (h | h) <;> contradiction
  have hcount : s.jobs[j].countCopy reject =
      { s.jobs[j] with gross := s.jobs[j].gross + 1, good := s.jobs[j].good + 1 } :=
    if_neg fun h => hno (h.imp_right of_decide_eq_true)
  rw [countCopy_open h hfull hgross, if_neg hno, State.modJob, hcount]

/-- R12, R155: the job behind a spoilt copy, but for the budget check. -/
def State.spoiltJob (s : State) (j : JobSlot) : Job := { s.jobs[j] with
  gross := s.jobs[j].gross + 1
  reject := s.jobs[j].reject + 1
  startupReject := if s.jobs[j].phase = .startup then s.jobs[j].startupReject + 1 else s.jobs[j].startupReject
  runWaste := min 4294967295 (s.jobs[j].runWaste + (s.wasteFraction + s.jobs[j].cutoff * s.wasteStands) / 1000) }

theorem countCopy_spoilt (h : s.activeSlot = some j) (hfull : s.jobs[j].countFull = false)
    (hgross : s.jobs[j].gross < 4294967295) (hspoils : reject = true ∨ s.jobs[j].phase = .startup) :
    s.countCopy reject = State.budgetCheck { s with
      wasteFraction := (s.wasteFraction + s.jobs[j].cutoff * s.wasteStands) % 1000
      jobs := s.jobs.set j (s.spoiltJob j) } j := by
  have hcount (x : Job) (hx : x.phase = s.jobs[j].phase) : x.countCopy reject = { x with
      gross := x.gross + 1, reject := x.reject + 1
      startupReject := if x.phase = .startup then x.startupReject + 1 else x.startupReject } := by
    refine (if_pos (hspoils.imp_right fun hp => decide_eq_true (hx.trans hp))).trans ?_
    simp only [decide_eq_true_iff]
  rw [countCopy_open h hfull hgross, if_pos hspoils]
  refine congrArg (State.budgetCheck · j) ?_
  simp only [State.chargeRun, State.modJob, getElem_set_fin, if_true, Vector.set_set]
  rw [hcount]
  · rfl
  · rfl

end

/-! ## The event -/

theorem exec_copyEvent {s : State} (reject : Bool) (h : s.device = .ready) :
    exec (.copyEvent reject) s = .next ((s.countCopy reject).copyStands).pair :=
  congrArg Host.Outcome.next (if_pos h)

theorem copyStands_eq {s : State} {j : JobSlot} (h : s.activeSlot = some j) : s.copyStands =
    (List.finRange 8).foldl
      (fun t n => if s.working.stands[n].source = .copy then t.lengthInput n s.jobs[j].cutoff else t) s := by
  rw [State.copyStands, h]

theorem foldl_lengthInput_eq (stands : List StandNo) (c : Nat) {s u : State} (h : u.working = s.working) :
    stands.foldl (fun t n => if s.working.stands[n].source = .copy then t.lengthInput n c else t) u =
      u.copyInputs c stands := by
  induction stands generalizing u with
  | nil => rfl
  | cons n ns ih =>
    have hone : (if s.working.stands[n].source = .copy then u.lengthInput n c else u) = u.copyInput c n := by
      rw [State.copyInput, h]
    rw [List.foldl_cons, hone, State.copyInputs, List.foldl_cons]
    refine ih ?_
    unfold State.copyInput
    split
    · rw [State.lengthInput_changes]
      exact h
    · exact h

theorem foldl_lengthInput_idle {s u : State} {c : Nat}
    (h : ∀ n : StandNo, s.working.stands[n].source = .copy → u.stands[n].trackingHold = true ∨ u.runningRoll n = none)
    (stands : List StandNo) :
    stands.foldl (fun t n => if s.working.stands[n].source = .copy then t.lengthInput n c else t) u = u := by
  induction stands with
  | nil => rfl
  | cons n ns ih =>
    rw [List.foldl_cons]
    split
    · next hsource => rw [lengthInput_idle c (h n hsource), ih]
    · exact ih

theorem pair_wasteFraction (s : State) : s.pair.wasteFraction = s.wasteFraction := by rw [State.pair_changes]

theorem pair_jobs (s : State) : s.pair.jobs = s.jobs := by rw [State.pair_changes]

theorem pair_stands (s : State) : s.pair.stands = s.stands := by rw [State.pair_changes]

/-- R7, R155: the event of an ACTIVE job, with what it leaves of the fractions and the paper metres. -/
theorem copyEvent_result {s u : State} {reject : Bool} {j : JobSlot} {counted : Job} (hdevice : s.device = .ready)
    (hactive : s.activeSlot = some j) (hu : s.countCopy reject = u) (hjobs : u.jobs = s.jobs.set j counted)
    (hstands : u.stands = s.stands) (hrolls : u.rolls = s.rolls) (hworking : u.working = s.working)
    (hstate : counted.state = s.jobs[j].state) (hplan : counted.plan = s.jobs[j].plan)
    (hcutoff : counted.cutoff = s.jobs[j].cutoff) (hpaper : counted.paper = s.jobs[j].paper) :
    exec (.copyEvent reject) s = .next (((List.finRange 8).foldl (fun t n =>
      if s.working.stands[n].source = .copy then t.lengthInput n s.jobs[j].cutoff else t) u).pair) ∧
    (s.jobs[j].cutoff ≤ 999 → (∀ n : StandNo, s.stands[n].fraction < 1000) →
      ∃ t, exec (.copyEvent reject) s = .next t ∧ t.wasteFraction = u.wasteFraction ∧
        t.jobs = s.jobs.set j { counted with
          paper := if (List.finRange 8).countP (s.paysMetre s.jobs[j].cutoff) = 0 then s.jobs[j].paper
            else min 4294967295 (s.jobs[j].paper + (List.finRange 8).countP (s.paysMetre s.jobs[j].cutoff)) } ∧
        ∀ n : StandNo, t.stands[n].fraction =
          if s.moves n = true then (s.stands[n].fraction + s.jobs[j].cutoff) % 1000 else s.stands[n].fraction) := by
  have hread (i : JobSlot) : u.jobs[i] = if i = j then counted else s.jobs[i] := by rw [hjobs, getElem_set_fin]
  have hsame (i : JobSlot) : u.jobs[i].state = s.jobs[i].state ∧ u.jobs[i].plan = s.jobs[i].plan := by
    rw [hread]
    split
    · next h => rw [h]; exact ⟨hstate, hplan⟩
    · exact ⟨rfl, rfl⟩
  have hactive' : u.activeSlot = some j := (activeSlot_congr fun i => (hsame i).1).trans hactive
  have hcut : u.jobs[j].cutoff = s.jobs[j].cutoff := by rw [hread, if_pos rfl, hcutoff]
  have hexec : exec (.copyEvent reject) s = .next (((List.finRange 8).foldl (fun t n =>
      if s.working.stands[n].source = .copy then t.lengthInput n s.jobs[j].cutoff else t) u).pair) := by
    rw [exec_copyEvent reject hdevice, hu, copyStands_eq hactive', hcut, hworking]
  refine ⟨hexec, fun hc hf => ?_⟩
  have hspec : u.CopyInputs s.jobs[j].cutoff (List.finRange 8) (u.copyInputs s.jobs[j].cutoff (List.finRange 8)) :=
    copyInputs_spec hc (fun n => by rw [hstands]; exact hf n) (List.nodup_finRange 8)
  have hmoves (n : StandNo) : u.moves n = s.moves n := by
    refine moves_congr hworking (by rw [hstands]) (runningRoll_isSome_congr (fun k => ?_) (fun a => ?_) ?_)
    · rw [State.roll?, hrolls]
      rfl
    · rw [hstands]
    · rw [hstands]
  have hpays : u.paysMetre s.jobs[j].cutoff = s.paysMetre s.jobs[j].cutoff := funext fun n => by
    rw [State.paysMetre, hmoves, hstands, requirement_of_jobs (fun i => (hsame i).1) fun i => (hsame i).2]
    rfl
  rw [foldl_lengthInput_eq _ _ hworking] at hexec
  refine ⟨_, hexec, (pair_wasteFraction _).trans hspec.same.waste, ?_, fun n => ?_⟩
  · rw [pair_jobs, hspec.jobs, hactive', paidJobs_iterate, paperCounted_iterate, hpays, hread, if_pos rfl, hjobs,
      Vector.set_set, hpaper]
  · rw [pair_stands, hspec.fraction n, hmoves, hstands]
    exact if_congr (and_iff_right (List.mem_finRange n)) rfl rfl

/-- Settles O53: the count by the job's counters and phase (`countCopy_full` and its companions), and the inputs in a row (`copyEvent_result`). -/
theorem copyEventCounts : Obligations.CopyEventCounts := by
  refine ⟨fun s reject hdevice => congrArg Host.Outcome.next (if_neg hdevice), fun s reject hdevice hnone => ?_,
    fun s reject j hdevice hactive => ?_⟩
  · rw [exec_copyEvent reject hdevice]
    have hcount : s.countCopy reject = s := by rw [State.countCopy, hnone]
    rw [hcount, State.copyStands, hnone]
  · intro job stands sum spoilt reached steps result
    have hspoilt : s.spoiltJob j = spoilt := by rw [State.spoiltJob, wasteStands_eq]
    refine ⟨fun u hu => foldl_lengthInput_idle hu _, fun hfull => ?_, fun hfull hgross => ⟨fun hreject hphase => ?_,
      fun hspoils => ?_⟩⟩
    · exact copyEvent_result hdevice hactive (countCopy_full hactive hfull) rfl rfl rfl rfl rfl rfl rfl rfl
    · exact copyEvent_result hdevice hactive (countCopy_good hactive hfull hgross hreject hphase)
        rfl rfl rfl rfl rfl rfl rfl rfl
    · have hcount := countCopy_spoilt hactive hfull hgross hspoils
      rw [hspoilt, wasteStands_eq] at hcount
      have hself : (s.jobs.set j spoilt)[j] = spoilt := by rw [getElem_set_fin, if_pos rfl]
      refine ⟨fun hno => ?_, fun hyes => ?_⟩
      · rw [budgetCheck_idle] at hcount
        · exact copyEvent_result hdevice hactive hcount rfl rfl rfl rfl rfl rfl rfl rfl
        · dsimp only
          rw [hself]
          by_contra h
          obtain ⟨hbudget, hflag, hle⟩ : job.budget ≠ 0 ∧ job.budgetReached ≠ true ∧ ¬ job.reject + 1 < job.budget := by
            rw [← not_or, ← not_or]
            exact h
          exact hno ⟨hbudget, Bool.eq_false_iff.2 hflag, not_lt.1 hle⟩
      · obtain ⟨hbudget, hflag, hle⟩ := hyes
        rw [budgetCheck_reached] at hcount
        · simp only [hself, Vector.set_set] at hcount
          exact copyEvent_result hdevice hactive hcount rfl rfl rfl rfl rfl rfl rfl rfl
        · dsimp only
          rw [hself]
          exact hbudget
        · dsimp only
          rw [hself]
          exact hflag
        · dsimp only
          rw [hself]
          exact hle

end Sys2Proof.Machine

/-! PROOF. The settings image: its entries, its tables, and what reads it back (R186, R187, R189). -/

namespace Sys2Proof.Machine

/-! ## Ranges -/

theorem within_iff {lo hi n : Nat} : within lo hi n = true ↔ lo ≤ n ∧ n ≤ hi := decide_eq_true_iff

theorem GradeEntry.inRange_iff {g : GradeEntry} : g.inRange = true ↔
    g.defined = false ∨ ((20 ≤ g.grammage ∧ g.grammage ≤ 400) ∧ 40 ≤ g.caliper ∧ g.caliper ≤ 400) := by
  simp only [GradeEntry.inRange, Bool.or_eq_true, Bool.and_eq_true, within_iff, Bool.not_eq_true']

theorem LaneSetting.inRange_iff {l : LaneSetting} : l.inRange = true ↔ l.depth ≤ 20 := by
  rw [LaneSetting.inRange, within_iff]
  exact and_iff_right (Nat.zero_le _)

/-- R186: the stand fields in their ranges. -/
theorem StandSetting.inRange_iff {e : StandSetting} : e.inRange = true ↔
    (1 ≤ e.rollerIncrement ∧ e.rollerIncrement ≤ 999) ∧ e.callUpMark ≤ 65535 ∧ e.spliceMark ≤ 65535 ∧
      (1 ≤ e.spliceWindow ∧ e.spliceWindow ≤ 255) ∧ e.spliceWaste ≤ 255 ∧ e.stubThreshold ≤ 5000 := by
  have hmax : Config.max16 = 65535 := rfl
  simp only [StandSetting.inRange, Bool.and_eq_true, within_iff, Nat.zero_le, true_and, and_assoc, hmax]

theorem FleetSetting.inRange_iff {f : FleetSetting} : f.inRange = true ↔
    (1 ≤ f.fitted ∧ f.fitted ≤ 6) ∧ (f.orderLimit = 0 ∨ (30 ≤ f.orderLimit ∧ f.orderLimit ≤ 3600)) ∧
      (f.tenureLimit = 0 ∨ (10 ≤ f.tenureLimit ∧ f.tenureLimit ≤ 600)) ∧
      1 ≤ f.increment ∧ f.increment ≤ 4294967295 := by
  have hmax : Config.max32 = 4294967295 := rfl
  simp only [FleetSetting.inRange, Bool.and_eq_true, Bool.or_eq_true, within_iff, decide_eq_true_iff, and_assoc, hmax]

/-- R187: the entries of a valid set of settings. -/
theorem Settings.valid_iff {t : Settings} : t.valid = true ↔
    (∀ g ∈ t.grades.toList, g.inRange = true) ∧ (∀ l ∈ t.lanes.toList, l.inRange = true ∧ l.deepEnough = true) ∧
      (∀ e ∈ t.stands.toList, e.inRange = true ∧ marksAgree e.callUpMark e.spliceMark = true) ∧
      t.fleet.inRange = true := by
  simp only [Settings.valid, Bool.and_eq_true, List.all_eq_true, and_assoc]

/-! ## Entries -/

/-- A grade entry with a flag byte that is a flag (R190). -/
theorem gradeEntry?_fields {defined : Bool} {grammage caliper : Nat} (hg : grammage ≤ 65535) (hc : caliper ≤ 65535) :
    gradeEntry? (flagByte defined :: (beBytes 2 grammage ++ beBytes 2 caliper)) =
      some (if defined then ⟨true, grammage, caliper⟩ else ⟨false, 0, 0⟩) := by
  have hgrammage : num (flagByte defined :: (beBytes 2 grammage ++ beBytes 2 caliper)) 1 2 = grammage := by
    rw [num_succ, num_head _ (by omega)]
  have hcaliper : num (flagByte defined :: (beBytes 2 grammage ++ beBytes 2 caliper)) 3 2 = caliper := by
    rw [num_succ, num_behind 2 grammage _ 0, num_whole (by omega)]
  rw [gradeEntry?, byteAt_zero, flag?_flagByte, Option.map_some, hgrammage, hcaliper]

theorem gradeEntry?_bytes {g : GradeEntry} (h : g.inRange = true) (hzero : g.defined = false → g = ⟨false, 0, 0⟩) :
    gradeEntry? g.bytes = some g := by
  obtain ⟨defined, grammage, caliper⟩ := g
  cases defined with
  | false => rw [hzero rfl]; rfl
  | true =>
    obtain h | ⟨⟨-, hg⟩, -, hc⟩ := GradeEntry.inRange_iff.1 h
    · contradiction
    · exact gradeEntry?_fields (defined := true) (Nat.le_trans hg (by decide)) (Nat.le_trans hc (by decide))

theorem laneEntry?_bytes {l : LaneSetting} (h : l.depth < 256) : laneEntry? l.bytes = some l := by
  rw [laneEntry?, LaneSetting.bytes, byteAt_zero, flag?_flagByte, byteAt_succ, byteAt_zero, fin?_byteOf l.aisle (by decide)]
  dsimp only
  rw [byteAt_succ, byteAt_succ, byteAt_zero, byteOf_toNat_of_lt h]

/-- The fields of a stand entry (R189, R190). -/
theorem standEntry?_fields {e : StandSetting} (hr : e.rollerIncrement ≤ 65535) (hc : e.callUpMark ≤ 65535)
    (hm : e.spliceMark ≤ 65535) (hw : e.spliceWindow ≤ 255) (hs : e.spliceWaste ≤ 255) (ht : e.stubThreshold ≤ 65535) :
    standEntry? (flagByte e.enabled :: e.source.code :: (beBytes 2 e.rollerIncrement ++ (beBytes 2 e.callUpMark ++
      (beBytes 2 e.spliceMark ++ (byteOf e.spliceWindow :: byteOf e.spliceWaste :: beBytes 2 e.stubThreshold))))) =
      some e := by
  unfold standEntry?
  rw [byteAt_zero, flag?_flagByte, byteAt_succ, byteAt_zero, source?_code]
  dsimp only
  have hskip (i len : Nat) : num (flagByte e.enabled :: e.source.code :: (beBytes 2 e.rollerIncrement ++
      (beBytes 2 e.callUpMark ++ (beBytes 2 e.spliceMark ++
        (byteOf e.spliceWindow :: byteOf e.spliceWaste :: beBytes 2 e.stubThreshold))))) (i + 2) len =
      num (beBytes 2 e.rollerIncrement ++ (beBytes 2 e.callUpMark ++ (beBytes 2 e.spliceMark ++
        (byteOf e.spliceWindow :: byteOf e.spliceWaste :: beBytes 2 e.stubThreshold)))) i len := by
    rw [num_succ, num_succ]
  have hroller := hskip 0 2
  rw [num_head _ (by omega)] at hroller
  have hcall := hskip 2 2
  rw [num_behind 2 e.rollerIncrement _ 0, num_head _ (by omega)] at hcall
  have hmark := hskip 4 2
  rw [num_behind 2 e.rollerIncrement _ 2, num_behind 2 e.callUpMark _ 0, num_head _ (by omega)] at hmark
  have hwindow := hskip 6 1
  rw [num_behind 2 e.rollerIncrement _ 4, num_behind 2 e.callUpMark _ 2, num_behind 2 e.spliceMark _ 0] at hwindow
  have hwaste := hskip 7 1
  rw [num_behind 2 e.rollerIncrement _ 5, num_behind 2 e.callUpMark _ 3, num_behind 2 e.spliceMark _ 1] at hwaste
  have hstub := hskip 8 2
  rw [num_behind 2 e.rollerIncrement _ 6, num_behind 2 e.callUpMark _ 4, num_behind 2 e.spliceMark _ 2] at hstub
  have hstub' : num (byteOf e.spliceWindow :: byteOf e.spliceWaste :: beBytes 2 e.stubThreshold) 2 2 =
      e.stubThreshold := by rw [num_succ, num_succ, num_whole (by omega)]
  have hwindow' : num (byteOf e.spliceWindow :: byteOf e.spliceWaste :: beBytes 2 e.stubThreshold) 0 1 =
      e.spliceWindow := (byteAt_zero _ _).trans (byteOf_toNat_of_lt (by omega))
  have hwaste' : num (byteOf e.spliceWindow :: byteOf e.spliceWaste :: beBytes 2 e.stubThreshold) 1 1 =
      e.spliceWaste := (num_succ _ _ 0 1).trans ((byteAt_zero _ _).trans (byteOf_toNat_of_lt (by omega)))
  rw [hroller, hcall, hmark, byteAt, hwindow, hwindow', byteAt, hwaste, hwaste', hstub, hstub']

theorem standEntry?_bytes {e : StandSetting} (h : e.inRange = true) : standEntry? e.bytes = some e := by
  obtain ⟨⟨-, hr⟩, hc, hm, ⟨-, hw⟩, hs, ht⟩ := StandSetting.inRange_iff.1 h
  have hbytes : e.bytes = flagByte e.enabled :: e.source.code :: (beBytes 2 e.rollerIncrement ++
      (beBytes 2 e.callUpMark ++ (beBytes 2 e.spliceMark ++
        (byteOf e.spliceWindow :: byteOf e.spliceWaste :: beBytes 2 e.stubThreshold)))) := by
    simp only [StandSetting.bytes, List.append_assoc, List.cons_append]
  rw [hbytes]
  exact standEntry?_fields (by omega) hc hm hw hs (by omega)

theorem fleetEntry_fields {f : FleetSetting} (hf : f.fitted ≤ 255) (ho : f.orderLimit ≤ 65535)
    (ht : f.tenureLimit ≤ 65535) (hi : f.increment ≤ 4294967295) :
    fleetEntry (byteOf f.fitted :: (beBytes 2 f.orderLimit ++ (beBytes 2 f.tenureLimit ++ beBytes 4 f.increment))) =
      f := by
  rw [fleetEntry, byteAt_zero, byteOf_toNat_of_lt (by omega), num_succ, num_head _ (by omega), num_succ,
    num_behind 2 f.orderLimit _ 0, num_head _ (by omega), num_succ, num_behind 2 f.orderLimit _ 2,
    num_behind 2 f.tenureLimit _ 0, num_whole (by omega)]

theorem fleetEntry_bytes {f : FleetSetting} (h : f.inRange = true) : fleetEntry f.bytes = f := by
  obtain ⟨⟨-, hf⟩, ho, ht, -, hi⟩ := FleetSetting.inRange_iff.1 h
  have hbytes : f.bytes =
      byteOf f.fitted :: (beBytes 2 f.orderLimit ++ (beBytes 2 f.tenureLimit ++ beBytes 4 f.increment)) := by
    simp only [FleetSetting.bytes, List.append_assoc, List.cons_append]
  rw [hbytes]
  exact fleetEntry_fields (by omega) (by omega) (by omega) hi

/-! ## Tables -/

section
variable {α : Type} {size n : Nat} {read : List Byte → Option α}

theorem entries?_flatMap {bytes : α → List Byte} (hlen : ∀ x, (bytes x).length = size) {l : List α}
    (hread : ∀ x ∈ l, read (bytes x) = some x) (more : List Byte) :
    entries? size read l.length (l.flatMap bytes ++ more) = some l := by
  induction l with
  | nil => rfl
  | cons x xs ih =>
    rw [List.flatMap_cons, List.append_assoc, List.length_cons, entries?, List.take_left' (hlen x),
      List.drop_left' (hlen x), hread x List.mem_cons_self, ih fun y hy => hread y (List.mem_cons_of_mem _ hy)]

theorem vector?_toList (v : Vector α n) : vector? n v.toList = some v := by
  rw [vector?, dif_pos v.length_toList]
  rfl

theorem table?_flatMap {bytes : α → List Byte} (hlen : ∀ x, (bytes x).length = size) {v : Vector α n}
    (hread : ∀ x ∈ v.toList, read (bytes x) = some x) (more : List Byte) :
    table? n size read (v.toList.flatMap bytes ++ more) = some v := by
  have hentries := entries?_flatMap hlen hread more
  rw [v.length_toList] at hentries
  rw [table?, hentries, Option.bind_some, vector?_toList]

end

/-! ## The image -/

section
variable (t : Settings)

theorem grades_bytes_length : (t.grades.toList.flatMap GradeEntry.bytes).length = 80 := by
  rw [length_flatMap_const _ _ _ GradeEntry.bytes_length, t.grades.length_toList]

theorem lanes_bytes_length : (t.lanes.toList.flatMap LaneSetting.bytes).length = 96 := by
  rw [length_flatMap_const _ _ _ LaneSetting.bytes_length, t.lanes.length_toList]

theorem stands_bytes_length : (t.stands.toList.flatMap StandSetting.bytes).length = 96 := by
  rw [length_flatMap_const _ _ _ StandSetting.bytes_length, t.stands.length_toList]

theorem image_head : t.image.take 4 = imageHead := by
  simp only [Settings.image, List.append_assoc]
  exact List.take_left' rfl

theorem image_drop_grades : t.image.drop 4 = t.grades.toList.flatMap GradeEntry.bytes ++
    (t.lanes.toList.flatMap LaneSetting.bytes ++ (t.stands.toList.flatMap StandSetting.bytes ++ t.fleet.bytes)) := by
  simp only [Settings.image, List.append_assoc]
  exact List.drop_left' rfl

theorem image_drop_lanes : t.image.drop 84 = t.lanes.toList.flatMap LaneSetting.bytes ++
    (t.stands.toList.flatMap StandSetting.bytes ++ t.fleet.bytes) := by
  have hdrop : t.image.drop 84 = (t.image.drop 4).drop 80 := by rw [List.drop_drop]
  rw [hdrop, image_drop_grades]
  exact List.drop_left' (grades_bytes_length t)

theorem image_drop_stands : t.image.drop 180 = t.stands.toList.flatMap StandSetting.bytes ++ t.fleet.bytes := by
  have hdrop : t.image.drop 180 = (t.image.drop 84).drop 96 := by rw [List.drop_drop]
  rw [hdrop, image_drop_lanes]
  exact List.drop_left' (lanes_bytes_length t)

theorem image_drop_fleet : t.image.drop 276 = t.fleet.bytes := by
  have hdrop : t.image.drop 276 = (t.image.drop 180).drop 96 := by rw [List.drop_drop]
  rw [hdrop, image_drop_stands]
  exact List.drop_left' (stands_bytes_length t)

end

/-- R187, R189: the image of valid settings is read back. -/
theorem image?_image {t : Settings} (h : t.valid = true)
    (hzero : ∀ g ∈ t.grades.toList, g.defined = false → g = ⟨false, 0, 0⟩) : image? t.image = some t := by
  obtain ⟨hgrades, hlanes, hstands, hfleet⟩ := Settings.valid_iff.1 h
  have hg : table? 16 5 gradeEntry? (t.image.drop 4) = some t.grades := by
    rw [image_drop_grades]
    exact table?_flatMap GradeEntry.bytes_length (fun g hin => gradeEntry?_bytes (hgrades g hin) (hzero g hin)) _
  have hl : table? 32 3 laneEntry? (t.image.drop 84) = some t.lanes := by
    rw [image_drop_lanes]
    refine table?_flatMap LaneSetting.bytes_length (fun l hin => laneEntry?_bytes ?_) _
    have := LaneSetting.inRange_iff.1 (hlanes l hin).1
    omega
  have hn : table? 8 12 standEntry? (t.image.drop 180) = some t.stands := by
    rw [image_drop_stands]
    exact table?_flatMap StandSetting.bytes_length (fun e hin => standEntry?_bytes (hstands e hin).1) _
  rw [image?, if_pos ⟨t.image_length, image_head t⟩, hg, hl, hn]
  dsimp only
  rw [image_drop_fleet, fleetEntry_bytes hfleet]
  exact if_pos h

/-- Settles O59: each table of the image reads back (`table?_flatMap`). -/
theorem settingsImageRoundTrip : Obligations.SettingsImageRoundTrip := by
  intro t hvalid hzero
  refine ⟨t.image_length, image_head t, image?_image hvalid fun g hin hdefined => ?_⟩
  obtain ⟨i, hi, rfl⟩ := Vector.mem_iff_getElem.1 (Vector.mem_toList_iff.1 hin)
  exact hzero ⟨i, hi⟩ hdefined

end Sys2Proof.Machine

/-! PROOF. The SET requests and COMMIT SETTINGS (R190, R191). -/

namespace Sys2Proof.Machine

theorem exec_setGrade (s : State) : exec .setGrade s = .next (s.serve .setGrade setGrade) := rfl
theorem exec_setLane (s : State) : exec .setLane s = .next (s.serve .setLane setLane) := rfl
theorem exec_setStand (s : State) : exec .setStand s = .next (s.serve .setStand setStand) := rfl
theorem exec_setFleet (s : State) : exec .setFleet s = .next (s.serve .setFleet setFleet) := rfl
theorem exec_commitSettings (s : State) :
    exec .commitSettings s = .next (s.serve .commitSettings commitSettings) := rfl

/-- R181: the number at the head of the fields. -/
theorem fin?_byteAt_head {n : Nat} (k : Fin n) (h : n ≤ 256) (f : List Byte) :
    fin? n (byteAt (byteOf k.val :: f) 0) = some k := by
  rw [byteAt_zero, fin?_byteOf k h]

/-! ## SET GRADE -/

section
variable {s : State} {f : List Byte} {g : GradeCode} {e : GradeEntry}

theorem setGrade_inRange (hg : fin? 16 (byteAt f 0) = some g) (he : gradeEntry? (f.drop 1) = some e)
    (hr : e.inRange = true) :
    setGrade f s = .ok { s with working := { s.working with grades := s.working.grades.set g e } } [] := by
  unfold setGrade
  rw [hg, he]
  exact if_pos hr

theorem setGrade_outOfRange (hg : fin? 16 (byteAt f 0) = some g) (he : gradeEntry? (f.drop 1) = some e)
    (hr : ¬ e.inRange = true) : setGrade f s = .refuse .badField := by
  unfold setGrade
  rw [hg, he]
  exact if_neg hr

theorem setGrade_illFormed (he : gradeEntry? (f.drop 1) = none) : setGrade f s = .refuse .badField := by
  unfold setGrade
  rw [he]
  cases fin? 16 (byteAt f 0) <;> rfl

end

/-- R181: a byte above 01h is no flag. -/
theorem flag?_eq_none {b : Nat} (h : 1 < b) : flag? b = none := by
  rw [flag?, if_neg (by omega), if_neg (by omega)]

theorem gradeEntry?_eq_none {flag : Byte} (h : 1 < flag.toNat) (bytes : List Byte) :
    gradeEntry? (flag :: bytes) = none := by
  rw [gradeEntry?, byteAt_zero, flag?_eq_none h, Option.map_none]

/-! ## SET LANE -/

section
variable {s : State} {f : List Byte} {l : LaneNo} {e : LaneSetting}

theorem setLane_inRange (hl : fin? 32 (byteAt f 0) = some l) (he : laneEntry? (f.drop 1) = some e)
    (hr : e.inRange = true) :
    setLane f s = .ok { s with working := { s.working with lanes := s.working.lanes.set l e } } [] := by
  unfold setLane
  rw [hl, he]
  exact if_pos hr

theorem setLane_refused (h : fin? 32 (byteAt f 0) = none ∨ laneEntry? (f.drop 1) = none ∨
    ∃ e, laneEntry? (f.drop 1) = some e ∧ ¬ e.inRange = true) : setLane f s = .refuse .badField := by
  unfold setLane
  obtain hl | he | ⟨e, he, hr⟩ := h
  · rw [hl]
  · rw [he]
    cases fin? 32 (byteAt f 0) <;> rfl
  · rw [he]
    cases fin? 32 (byteAt f 0) with
    | none => rfl
    | some l => exact if_neg hr

end

/-- R190: the lane entry of four bytes whose aisle is one. -/
theorem laneEntry?_fields {aisle depth : Nat} (ha : aisle < 256) (hd : depth < 256) (enabled : Bool) :
    laneEntry? [flagByte enabled, byteOf aisle, byteOf depth] =
      (fin? 8 aisle).map fun g => ⟨enabled, g, depth⟩ := by
  rw [laneEntry?, byteAt_zero, flag?_flagByte, byteAt_succ, byteAt_zero, byteOf_toNat_of_lt ha, byteAt_succ,
    byteAt_succ, byteAt_zero, byteOf_toNat_of_lt hd]
  cases fin? 8 aisle <;> rfl

/-- R190: SET LANE of fields in their ranges, and of others. -/
theorem setLane_fields (s : State) {l aisle depth : Nat} (hl : l < 256) (ha : aisle < 256) (hd : depth < 256)
    (enabled : Bool) :
    (∀ (k : LaneNo) (g : AisleNo), k.val = l → g.val = aisle → depth ≤ 20 →
      setLane [byteOf l, flagByte enabled, byteOf aisle, byteOf depth] s =
        .ok { s with working := { s.working with lanes := s.working.lanes.set k ⟨enabled, g, depth⟩ } } []) ∧
    (31 < l ∨ 7 < aisle ∨ 20 < depth →
      setLane [byteOf l, flagByte enabled, byteOf aisle, byteOf depth] s = .refuse .badField) := by
  have hentry := laneEntry?_fields ha hd enabled
  refine ⟨fun k g hk hg hdepth => ?_, fun hbad => setLane_refused ?_⟩
  · subst hk hg
    rw [fin?_val, Option.map_some] at hentry
    exact setLane_inRange (fin?_byteAt_head k (by decide) _) hentry (LaneSetting.inRange_iff.2 hdepth)
  · obtain hl' | ha' | hd' := hbad
    · rw [byteAt_zero, byteOf_toNat_of_lt hl]
      exact .inl (fin?_eq_none hl')
    · rw [fin?_eq_none (show 8 ≤ aisle from ha'), Option.map_none] at hentry
      exact .inr (.inl hentry)
    · cases hg : fin? 8 aisle with
      | none =>
        rw [hg, Option.map_none] at hentry
        exact .inr (.inl hentry)
      | some g =>
        rw [hg, Option.map_some] at hentry
        exact .inr (.inr ⟨_, hentry, fun hr => absurd (LaneSetting.inRange_iff.1 hr) (not_le.2 hd')⟩)

/-! ## SET STAND and SET FLEET -/

section
variable {s : State} {f : List Byte} {n : StandNo} {e : StandSetting}

theorem setStand_inRange (hn : fin? 8 (byteAt f 0) = some n) (he : standEntry? (f.drop 1) = some e)
    (hr : e.inRange = true) :
    setStand f s = .ok { s with
      working := { s.working with stands := s.working.stands.set n e }
      stands := s.stands.set n { s.stands[n] with state := if e.enabled then .empty else .off } } [] := by
  unfold setStand
  rw [hn, he]
  exact if_pos hr

theorem setStand_outOfRange (hn : fin? 8 (byteAt f 0) = some n) (he : standEntry? (f.drop 1) = some e)
    (hr : ¬ e.inRange = true) : setStand f s = .refuse .badField := by
  unfold setStand
  rw [hn, he]
  exact if_neg hr

end

/-! ## COMMIT SETTINGS -/

/-- A pass over the stands changes each of them once. -/
theorem foldl_modStand_stand (s : State) (g : StandNo → Stand → Stand) (n : StandNo) :
    ((List.finRange 8).foldl (fun t k => t.modStand k (g k)) s).stands[n] = g n s.stands[n] := by
  refine foldl_at (P := fun t : State => t.stands[n] = s.stands[n])
    (Q := fun t : State => t.stands[n] = g n s.stands[n]) (List.nodup_finRange 8) (List.mem_finRange n) rfl
    (fun t j hj ht => ?_) (fun t ht => ?_) (fun t j hj ht => ?_)
  · rw [State.modStand, getElem_set_fin, if_neg hj.symm, ht]
  · rw [modStand_self, ht]
  · rw [State.modStand, getElem_set_fin, if_neg hj.symm, ht]

/-- R191: a stand takes its working marks when it is enabled. -/
theorem commit_stand (s : State) (n : StandNo) : s.commit.stands[n] = s.stands[n].commit s.working.stands[n] :=
  foldl_modStand_stand s (fun n st => st.commit s.working.stands[n]) n

theorem commit_eq (s : State) : s.commit = { s with
    stands := s.commit.stands
    loaded := s.working
    hallIncrement := s.working.fleet.increment
    device := .ready } := by
  have hstands := foldl_modStand_changes (fun n st => st.commit s.working.stands[n]) (List.finRange 8) s
  rw [State.commit, hstands]

/-- Settles O58: each SET request by the entry it reads (`gradeEntry?_fields`, `laneEntry?_fields`, `standEntry?_fields`, `fleetEntry_fields`), COMMIT SETTINGS stand by stand (`commit_stand`). -/
theorem setAndCommitSettings : Obligations.SetAndCommitSettings := by
  refine ⟨fun s tag flag rest g grammage caliper hserves hg hc => ?_,
    fun s tag rest l aisle depth enabled hserves hl ha hd => ?_,
    fun s tag rest n e hserves hroll hcall hmark hwindow hwaste hstub => ?_,
    fun s tag rest f hserves hfit horder htenure hinc => ?_, fun s tag rest hserves => ⟨fun hbad => ?_, fun hvalid => ?_⟩⟩
  · have hgrade := fin?_byteAt_head g (by decide) (flag :: (beBytes 2 grammage ++ beBytes 2 caliper))
    rw [exec_setGrade]
    refine ⟨fun hflag => ?_, fun hflag hglo hghi hclo hchi => ?_, fun hbad => ?_⟩
    · subst hflag
      have hentry : gradeEntry? (0 :: (beBytes 2 grammage ++ beBytes 2 caliper)) = some ⟨false, 0, 0⟩ :=
        gradeEntry?_fields (defined := false) hg hc
      rw [serve_ok hserves rfl (setGrade_inRange hgrade hentry rfl)]
      rfl
    · subst hflag
      have hentry : gradeEntry? (1 :: (beBytes 2 grammage ++ beBytes 2 caliper)) = some ⟨true, grammage, caliper⟩ :=
        gradeEntry?_fields (defined := true) hg hc
      rw [serve_ok hserves rfl (setGrade_inRange hgrade hentry
        (GradeEntry.inRange_iff.2 (.inr ⟨⟨hglo, hghi⟩, hclo, hchi⟩)))]
      rfl
    · obtain hflag | ⟨hflag, hrange⟩ := hbad
      · rw [serve_refused hserves rfl (setGrade_illFormed (gradeEntry?_eq_none hflag _))]
      · subst hflag
        have hentry : gradeEntry? (1 :: (beBytes 2 grammage ++ beBytes 2 caliper)) = some ⟨true, grammage, caliper⟩ :=
          gradeEntry?_fields (defined := true) hg hc
        have hout : ¬ (GradeEntry.mk true grammage caliper).inRange = true := fun hr => by
          obtain hundefined | ⟨⟨hglo, hghi⟩, hclo, hchi⟩ := GradeEntry.inRange_iff.1 hr
          · contradiction
          · dsimp only at hglo hghi hclo hchi
            omega
        rw [serve_refused hserves rfl (setGrade_outOfRange hgrade hentry hout)]
  · rw [exec_setLane]
    obtain ⟨hok, hbad⟩ := setLane_fields (s.unqueued rest) hl ha hd enabled
    refine ⟨fun k g hk hg hdepth => ?_, fun h => ?_⟩
    · rw [serve_ok hserves rfl (hok k g hk hg hdepth)]
      rfl
    · rw [serve_refused hserves rfl (hbad h)]
  · rw [exec_setStand]
    have hstand (f : List Byte) := fin?_byteAt_head n (by decide) f
    have hentry := standEntry?_fields hroll hcall hmark hwindow hwaste hstub
    refine ⟨fun hlo hhi hw ht => ?_, fun hbad => ?_⟩
    · have hrange : e.inRange = true :=
        StandSetting.inRange_iff.2 ⟨⟨hlo, hhi⟩, hcall, hmark, ⟨hw, hwindow⟩, hwaste, ht⟩
      rw [serve_ok hserves rfl (setStand_inRange (hstand _) hentry hrange)]
      rfl
    · have hrange : ¬ e.inRange = true := by
        rw [StandSetting.inRange_iff]
        omega
      rw [serve_refused hserves rfl (setStand_outOfRange (hstand _) hentry hrange)]
  · rw [exec_setFleet]
    have hentry := fleetEntry_fields hfit horder htenure hinc
    have hrange : f.inRange = true ↔ 1 ≤ f.fitted ∧ f.fitted ≤ 6 ∧
        (f.orderLimit = 0 ∨ (30 ≤ f.orderLimit ∧ f.orderLimit ≤ 3600)) ∧
        (f.tenureLimit = 0 ∨ (10 ≤ f.tenureLimit ∧ f.tenureLimit ≤ 600)) ∧ 1 ≤ f.increment := by
      rw [FleetSetting.inRange_iff]
      omega
    refine ⟨fun hgood => ?_, fun hbad => ?_⟩
    · have hset : setFleet (byteOf f.fitted :: (beBytes 2 f.orderLimit ++ (beBytes 2 f.tenureLimit ++
          beBytes 4 f.increment))) (s.unqueued rest) =
          .ok { s.unqueued rest with working := { (s.unqueued rest).working with fleet := f } } [] := by
        unfold setFleet
        rw [hentry]
        exact if_pos (hrange.2 hgood)
      rw [serve_ok hserves rfl hset]
      rfl
    · have hset : setFleet (byteOf f.fitted :: (beBytes 2 f.orderLimit ++ (beBytes 2 f.tenureLimit ++
          beBytes 4 f.increment))) (s.unqueued rest) = .refuse .badField := by
        unfold setFleet
        rw [hentry]
        exact if_neg (mt hrange.1 hbad)
      rw [serve_refused hserves rfl hset]
  · have hcommit : commitSettings [] (s.unqueued rest) = .refuse .badField := if_neg (Bool.eq_false_iff.1 hbad)
    rw [exec_commitSettings, serve_refused hserves rfl hcommit]
  · have hcommit : commitSettings [] (s.unqueued rest) = .ok (s.unqueued rest).commit [] := if_pos hvalid
    have heq := commit_eq (s.unqueued rest)
    refine ⟨(s.unqueued rest).commit, by rw [exec_commitSettings, serve_ok hserves rfl hcommit], rfl, rfl, ?_, rfl,
      fun n => commit_stand (s.unqueued rest) n, ?_⟩
    · rw [heq]
      rfl
    · rw [heq]
      rfl

end Sys2Proof.Machine

/-! PROOF. The settings memory: the load, RELOAD and STORE SETTINGS, the writes of a store and its end (R189, R192, R193). -/

namespace Sys2Proof.Machine

/-! ## Images that are not read -/

/-- A field inside a piece of a list of bytes. -/
theorem num_take_drop (b : List Byte) {a size i len : Nat} (h : i + len ≤ size) :
    num ((b.drop a).take size) i len = num b (a + i) len := by
  rw [num, num, List.drop_take, List.take_take, List.drop_drop, min_eq_left (by omega)]

theorem byteAt_take_drop (b : List Byte) {a size i : Nat} (h : i < size) :
    byteAt ((b.drop a).take size) i = num b (a + i) 1 := num_take_drop b h

section
variable {α : Type} {size : Nat} {read : List Byte → Option α}

/-- A table is not read when one of its entries is not. -/
theorem entries?_eq_none {n i : Nat} {b : List Byte} (hi : i < n) (h : read ((b.drop (size * i)).take size) = none) :
    entries? size read n b = none := by
  induction n generalizing b i with
  | zero => omega
  | succ n ih =>
    cases i with
    | zero =>
      rw [Nat.mul_zero, List.drop_zero] at h
      rw [entries?, h]
    | succ i =>
      have hrest : entries? size read n (b.drop size) = none := by
        refine ih (Nat.lt_of_succ_lt_succ hi) ?_
        rw [List.drop_drop, ← h]
        congr 3
        rw [Nat.mul_succ, Nat.add_comm]
      rw [entries?, hrest]
      cases read (b.take size) <;> rfl

theorem table?_eq_none {n i a : Nat} {b : List Byte} (hi : i < n)
    (h : read ((b.drop (a + size * i)).take size) = none) : table? n size read (b.drop a) = none := by
  rw [← List.drop_drop] at h
  rw [table?, entries?_eq_none hi h, Option.bind_none]

end

theorem image?_of_head {b : List Byte} (h : b.take 4 ≠ imageHead) : image? b = none := if_neg fun hb => h hb.2

/-- R189: the tables that an image must hold. -/
theorem image?_of_table {b : List Byte} (h : table? 16 5 gradeEntry? (b.drop 4) = none ∨
    table? 32 3 laneEntry? (b.drop 84) = none ∨ table? 8 12 standEntry? (b.drop 180) = none) : image? b = none := by
  unfold image?
  split
  · split
    · next hg hl hn =>
      rw [hg, hl, hn] at h
      simp only [reduceCtorEq, or_self] at h
    · rfl
  · rfl

theorem laneEntry?_eq_none {b : List Byte} (h : 1 < byteAt b 0 ∨ 7 < byteAt b 1) : laneEntry? b = none := by
  unfold laneEntry?
  obtain h | h := h
  · rw [flag?_eq_none h]
  · rw [fin?_eq_none (n := 8) h]
    cases flag? (byteAt b 0) <;> rfl

/-- R181: a byte above 01h is no length source. -/
theorem source?_eq_none {b : Nat} (h : 1 < b) : source? b = none := by
  rw [source?, if_neg (by omega), if_neg (by omega)]

theorem standEntry?_eq_none {b : List Byte} (h : 1 < byteAt b 0 ∨ 1 < byteAt b 1) : standEntry? b = none := by
  unfold standEntry?
  obtain h | h := h
  · rw [flag?_eq_none h]
  · rw [source?_eq_none h]
    cases flag? (byteAt b 0) <;> rfl

/-- R189: what keeps an image from being read. -/
theorem image?_illFormed {b : List Byte} (h : b.take 4 ≠ [0xA7, 0x5C, 0x01, 0x19] ∨ image? b = none ∨
    (∃ i < 16, 1 < num b (4 + 5 * i) 1) ∨ (∃ i < 32, 1 < num b (84 + 3 * i) 1 ∨ 7 < num b (85 + 3 * i) 1) ∨
    ∃ i < 8, 1 < num b (180 + 12 * i) 1 ∨ 1 < num b (181 + 12 * i) 1) : image? b = none := by
  obtain hhead | hnone | ⟨i, hi, hflag⟩ | ⟨i, hi, hbytes⟩ | ⟨i, hi, hbytes⟩ := h
  · exact image?_of_head hhead
  · exact hnone
  · refine image?_of_table (.inl (table?_eq_none hi ?_))
    rw [gradeEntry?, byteAt_take_drop b (by decide), Nat.add_zero, flag?_eq_none hflag, Option.map_none]
  · refine image?_of_table (.inr (.inl (table?_eq_none hi (laneEntry?_eq_none ?_))))
    rwa [byteAt_take_drop b (by decide), byteAt_take_drop b (by decide), Nat.add_right_comm 84 (3 * i) 1]
  · refine image?_of_table (.inr (.inr (table?_eq_none hi (standEntry?_eq_none ?_))))
    rwa [byteAt_take_drop b (by decide), byteAt_take_drop b (by decide), Nat.add_right_comm 180 (12 * i) 1]

/-! ## The load -/

section
variable {s : State} {read : MemoryRead}

theorem exec_settingsLoad_failed (hs : s.device = .loading) (h : readSettings? read = none) :
    exec (.settingsLoad read) s = .next { s with device := .unconfigured } := by
  change execSettingsLoad read s = _
  rw [execSettingsLoad, if_pos hs, h]

theorem exec_settingsLoad_read {u : Settings} (hs : s.device = .loading) (h : readSettings? read = some u) :
    exec (.settingsLoad read) s = .next (s.putInForce u) := by
  change execSettingsLoad read s = _
  rw [execSettingsLoad, if_pos hs, h]

end

/-- R189: each stand starts by its setting. -/
theorem putInForce_stand (s : State) (u : Settings) (n : StandNo) :
    (s.putInForce u).stands[n] = s.stands[n].start u.stands[n] :=
  foldl_modStand_stand s (fun n st => st.start u.stands[n]) n

theorem putInForce_eq (s : State) (u : Settings) : s.putInForce u = { s with
    stands := (s.putInForce u).stands
    working := u
    loaded := u
    hallIncrement := u.fleet.increment
    device := .ready } := by
  have hstands := foldl_modStand_changes (fun n st => st.start u.stands[n]) (List.finRange 8) s
  rw [State.putInForce, hstands]

/-! ## RELOAD and STORE SETTINGS -/

theorem exec_reloadSettings (s : State) :
    exec .reloadSettings s = .next (s.serve .reloadSettings reloadSettings) := rfl
theorem exec_storeSettings (s : State) : exec .storeSettings s = .next (s.serve .storeSettings storeSettings) := rfl

section
variable {s : State}

theorem memoryRefusal_noMemory (h : s.setmem = false) : s.memoryRefusal = some .wrongState := if_pos h

theorem memoryRefusal_storing (h : s.setmem = true) (hstore : s.store ≠ none) : s.memoryRefusal = some .busy := by
  rw [State.memoryRefusal, if_neg (by simp only [h, reduceCtorEq, not_false_eq_true]),
    if_pos (Option.isSome_iff_ne_none.2 hstore)]

theorem memoryRefusal_none (h : s.setmem = true) (hstore : s.store = none) : s.memoryRefusal = none := by
  rw [State.memoryRefusal, if_neg (by simp only [h, reduceCtorEq, not_false_eq_true]), hstore]
  rfl

theorem storeSettings_refused {f : List Byte} {e : Result} (h : s.memoryRefusal = some e) :
    storeSettings f s = .refuse e := by rw [storeSettings, h]

theorem storeSettings_begun {f : List Byte} (h : s.memoryRefusal = none) :
    storeSettings f s = .ok { s with store := some s.working } [] := by rw [storeSettings, h]

theorem reloadSettings_refused {f : List Byte} {e : Result} (h : s.memoryRefusal = some e) :
    reloadSettings f s = .refuse e := by rw [reloadSettings, h]

theorem reloadSettings_begun {f : List Byte} (h : s.memoryRefusal = none) :
    reloadSettings f s = .ok { s with device := .loading } [] := by rw [reloadSettings, h]

end

theorem endStore_of_some {s : State} {u : Settings} (h : s.store = some u) (o : StoreOutcome) :
    s.endStore o = { s with store := none, notices := postInto s.notices .settingsStored (.outcome o) } := by
  rw [State.endStore, h]
  rfl

/-! ## The writes of a store -/

/-- R193: the image as its page writes carry it, with 00h 00h in place of the signature. -/
def Settings.unsigned (u : Settings) : List Byte := [0x00, 0x00] ++ u.image.drop 2

section
variable (u : Settings)

theorem unsigned_length : u.unsigned.length = 285 := by
  rw [Settings.unsigned, List.length_append, List.length_drop, u.image_length]
  rfl

theorem image_signature : u.image.take 2 = [0xA7, 0x5C] := by
  have h : u.image.take 2 = (u.image.take 4).take 2 := by rw [List.take_take]; rfl
  rw [h, image_head]
  rfl

theorem storeWrites_eq : u.storeWrites = pageWrites 18 0 u.unsigned ++ [⟨0, [0xA7, 0x5C]⟩] := by
  rw [Settings.storeWrites, image_signature, Settings.unsigned]

end

/-- R193: the last of the 18 pages of 285 bytes takes 13 of them. -/
theorem page_of_unsigned {u : Settings} {i : Nat} {w : BusWrite} (h : (pageWrites 18 0 u.unsigned)[i]? = some w) :
    w.address = 16 * i ∧ w.data.length = if i = 17 then 13 else 16 := by
  have hi : i < 18 := by
    have := (List.getElem?_eq_some_iff.1 h).1
    rwa [pageWrites_length] at this
  rw [pageWrites_getElem? 18 0 _ hi, Option.some_inj] at h
  subst h
  refine ⟨Nat.zero_add _, ?_⟩
  rw [List.length_take, List.length_drop, unsigned_length]
  split <;> omega

/-- A write behind the bytes written so far. -/
theorem into_behind (a memory data : List Byte) :
    BusWrite.into (a ++ memory) ⟨a.length, data⟩ = a ++ data ++ memory.drop data.length := by
  rw [BusWrite.into, List.take_left, List.drop_length_add_append]

/-- The first `k` pages written: the memory begins with their bytes and is otherwise as it was. -/
theorem pageWrites_into {n : Nat} {bytes : List Byte} (memory : List Byte) {k : Nat} (hk : k ≤ n)
    (hlen : 16 * k ≤ bytes.length + 16) :
    ((pageWrites n 0 bytes).take k).foldl BusWrite.into memory =
      bytes.take (16 * k) ++ memory.drop (bytes.take (16 * k)).length := by
  induction k with
  | zero => rfl
  | succ k ih =>
    have hfull : (bytes.take (16 * k)).length = 16 * k := by rw [List.length_take]; omega
    have hpage := pageWrites_getElem? n 0 bytes (i := k) (by omega)
    have hnext : bytes.take (16 * (k + 1)) = bytes.take (16 * k) ++ (bytes.drop (16 * k)).take 16 := by
      rw [Nat.mul_succ, List.take_add]
    rw [List.take_add_one, hpage, Option.toList_some, List.foldl_append, ih (by omega) (by omega), List.foldl_cons,
      List.foldl_nil, Nat.zero_add, hnext, List.length_append]
    conv_lhs => arg 2; rw [← hfull]
    rw [into_behind, List.drop_drop, hfull]

/-- R193: a store cut short before its last write leaves 00h 00h as the signature. -/
theorem storeWrites_unsigned {u : Settings} (memory : List Byte) {k : Nat} (h1 : 1 ≤ k) (h18 : k ≤ 18) :
    ((u.storeWrites.take k).foldl BusWrite.into memory).take 2 = [0x00, 0x00] := by
  have hlen := unsigned_length u
  have htwo : 2 ≤ (u.unsigned.take (16 * k)).length := by rw [List.length_take]; omega
  rw [storeWrites_eq, List.take_append_of_le_length (by rw [pageWrites_length]; exact h18),
    pageWrites_into memory h18 (by omega), List.take_append_of_le_length htwo, List.take_take,
    min_eq_left (by omega)]
  rfl

/-- R193: a store that ends with OK has written the image. -/
theorem storeWrites_into (u : Settings) (memory : List Byte) :
    u.storeWrites.foldl BusWrite.into memory = u.image ++ memory.drop 285 := by
  have hlen := unsigned_length u
  have hpages := pageWrites_into (n := 18) memory (le_refl 18) (by omega : 16 * 18 ≤ u.unsigned.length + 16)
  rw [List.take_of_length_le (by rw [pageWrites_length]), List.take_of_length_le (by omega), hlen] at hpages
  have himage : u.image = [0xA7, 0x5C] ++ u.image.drop 2 := by
    rw [← image_signature, List.take_append_drop]
  rw [storeWrites_eq, List.foldl_append, hpages, himage]
  rfl

/-- Settles O57: what keeps an image from being read (`image?_illFormed`), the stands one by one (`putInForce_stand`), and the memory after the first `k` pages (`pageWrites_into`). -/
theorem settingsMemoryLoadsAndStores : Obligations.SettingsMemoryLoadsAndStores := by
  refine ⟨fun s read hs => ⟨fun h => ?_, fun b u hread himage => ?_⟩, fun s tag rest =>
    ⟨fun hserves => ⟨fun hmem => ?_, fun hmem hstore => ?_, fun hmem hstore => ?_⟩,
      fun hserves => ⟨fun hmem => ?_, fun hmem hstore => ?_, fun hmem hstore => ?_⟩⟩,
    fun s u hstore => ⟨⟨?_, ?_, ?_, fun o => rfl⟩, ?_, fun w _ => ?_, fun memory _ => ?_⟩⟩
  · refine exec_settingsLoad_failed hs ?_
    obtain rfl | ⟨b, rfl, hb⟩ := h
    · rfl
    · exact image?_illFormed hb
  · subst hread
    have heq := putInForce_eq s u
    refine ⟨s.putInForce u, exec_settingsLoad_read hs himage, rfl, rfl, rfl, image?_valid himage, rfl,
      putInForce_stand s u, ?_⟩
    rw [heq]
  · rw [exec_storeSettings, serve_refused hserves rfl
      (storeSettings_refused (memoryRefusal_noMemory (s := s.unqueued rest) hmem))]
  · rw [exec_storeSettings, serve_refused hserves rfl
      (storeSettings_refused (memoryRefusal_storing (s := s.unqueued rest) hmem hstore))]
  · rw [exec_storeSettings, serve_ok hserves rfl
      (storeSettings_begun (memoryRefusal_none (s := s.unqueued rest) hmem hstore))]
    rfl
  · rw [exec_reloadSettings, serve_refused hserves rfl
      (reloadSettings_refused (memoryRefusal_noMemory (s := s.unqueued rest) hmem))]
  · rw [exec_reloadSettings, serve_refused hserves rfl
      (reloadSettings_refused (memoryRefusal_storing (s := s.unqueued rest) hmem hstore))]
  · rw [exec_reloadSettings, serve_ok hserves rfl
      (reloadSettings_begun (memoryRefusal_none (s := s.unqueued rest) hmem hstore))]
  · exact congrArg Host.Outcome.next (endStore_of_some hstore .ok)
  · exact congrArg Host.Outcome.next (endStore_of_some hstore .noAck)
  · exact congrArg Host.Outcome.next (endStore_of_some hstore .timeout)
  · rw [State.storeWrites_of_some hstore]
    exact ⟨pageWrites 18 0 u.unsigned, storeWrites_eq u, pageWrites_length 18 0 _,
      pageWrites_data 18 0 _ (by rw [unsigned_length]; decide), fun i w => page_of_unsigned⟩
  · have haddress : beBytes 2 w.address = [byteOf (w.address / 256), byteOf w.address] := by
      rw [beBytes, beBytes, beBytes, Nat.pow_one, Nat.pow_zero, Nat.div_one]
    rw [BusWrite.events, busHead, haddress]
    rfl
  · rw [State.storeWrites_of_some hstore]
    exact ⟨fun k => storeWrites_unsigned memory, storeWrites_into u memory⟩

end Sys2Proof.Machine

/-! PROOF. The floor reset: the stands, the records of the moves, and the demands raised anew (R41, R60, R86, R107, R122, R146, R176, R194). -/

namespace Sys2Proof.Machine

/-! ## A stand but for its arms -/

/-- A stand but for its arms. -/
def Stand.bare (x : Stand) : Stand := { x with armA := ⟨.empty, none, none⟩, armB := ⟨.empty, none, none⟩ }

theorem Stand.setArm_bare (x : Stand) (a : Arm) (r : ArmRecord) : (x.setArm a r).bare = x.bare := by cases a <;> rfl

theorem arm_setArm_self (x : Stand) (a : Arm) (r : ArmRecord) : (x.setArm a r).arm a = r := by cases a <;> rfl

theorem setArm_self_arm (x : Stand) (a : Arm) : x.setArm a (x.arm a) = x := by cases a <;> rfl

theorem modStand_of_eq {s : State} {n : StandNo} {f : Stand → Stand} (h : f s.stands[n] = s.stands[n]) :
    s.modStand n f = s := by
  have hset : s.stands.set n s.stands[n] = s.stands := Vector.set_getElem_self _
  rw [State.modStand, h, hset]

/-! ## The stands at a floor reset -/

/-- R133, R139: a standby compared with the plan without a notice. -/
def State.comparedArm (s : State) (n : StandNo) (y : ArmRecord) : ArmRecord :=
  match y.status, y.roll.bind s.roll? with
  | .ready, some r => if s.requirement n = some r.kind then y else { y with status := .mismatch }
  | _, _ => y

section
variable (s : State) (n : StandNo) (y : ArmRecord)

theorem comparedArm_cases : s.comparedArm n y = y ∨
    (y.status = .ready ∧ s.comparedArm n y = { y with status := .mismatch }) := by
  unfold State.comparedArm
  split
  · next r hready _ =>
    split
    · exact .inl rfl
    · exact .inr ⟨hready, rfl⟩
  · exact .inl rfl

theorem comparedArm_roll : (s.comparedArm n y).roll = y.roll := by
  obtain h | ⟨-, h⟩ := comparedArm_cases s n y <;> rw [h]

theorem comparedArm_of_not_ready (hy : y.status ≠ .ready) : s.comparedArm n y = y := by
  obtain h | ⟨h, -⟩ := comparedArm_cases s n y
  · exact h
  · exact absurd h hy

theorem comparedArm_status {k : RollSlot} {q : Roll} (hy : y.status = .ready) (hk : y.roll = some k)
    (hq : s.roll? k = some q) : (s.comparedArm n y).status =
      if s.requirement n = some ⟨q.grade, q.width⟩ then .ready else .mismatch := by
  have hroll : y.roll.bind s.roll? = some q := by rw [hk, Option.bind_some, hq]
  have hkind : q.kind = ⟨q.grade, q.width⟩ := rfl
  unfold State.comparedArm
  rw [hroll, hy]
  dsimp only
  rw [hkind]
  split
  · exact hy
  · rfl

theorem demote_silent (a : Arm) : s.demote n a false = s.modArm n a (s.comparedArm n) := by
  have hself {y : ArmRecord} (h : y = s.stands[n].arm a) : s.modStand n (fun x => x.setArm a y) = s :=
    modStand_of_eq (by rw [h, setArm_self_arm])
  have hmod : s.modArm n a (s.comparedArm n) =
      s.modStand n fun x => x.setArm a (s.comparedArm n (s.stands[n].arm a)) := rfl
  rw [hmod]
  unfold State.demote
  dsimp only
  split
  · next r hready hr =>
    have hcompared : s.comparedArm n (s.stands[n].arm a) = if s.requirement n = some r.kind then s.stands[n].arm a
        else { s.stands[n].arm a with status := .mismatch } := by
      unfold State.comparedArm
      rw [hr, hready]
    rw [hcompared]
    by_cases hfits : s.requirement n = some r.kind
    · have hplan : s.matchesPlan n r = true := decide_eq_true hfits
      rw [if_pos hplan, if_pos hfits, hself rfl]
    · have hno : ¬ s.matchesPlan n r = true := fun h => hfits (of_decide_eq_true h)
      rw [if_neg hno, if_neg hfits, if_neg Bool.false_ne_true]
      rfl
  · next hnot =>
    refine (hself ?_).symm
    unfold State.comparedArm
    split
    · next r hready hr => exact absurd hr (hnot r hready)
    · rfl

end

/-- R133: a stand out of SPLICING, with its standby compared. -/
def State.heldStand (s : State) (n : StandNo) (x : Stand) : Stand :=
  match x.running with
  | none => { x with state := .spliceHeld }
  | some a => { x.setArm a.other (s.comparedArm n (x.arm a.other)) with state := .spliceHeld }

/-- R146: what a floor reset makes of a stand. -/
def State.standReset (s : State) (n : StandNo) (x : Stand) : Stand :=
  let y := if x.state = .splicing then s.heldStand n x else x
  { y with
    armA := y.armA.unreserved
    armB := y.armB.unreserved
    callUpMark := s.loaded.stands[n].callUpMark
    spliceMark := s.loaded.stands[n].spliceMark }

section
variable (s : State) (n : StandNo)

theorem heldStand_eq : (s.setStandState n .spliceHeld).compareStandby n false = s.modStand n (s.heldStand n) := by
  have hstand : (s.setStandState n .spliceHeld).stands[n] = { s.stands[n] with state := .spliceHeld } :=
    modStand_self s n _
  have hrunning : (s.setStandState n .spliceHeld).stands[n].running = s.stands[n].running := by rw [hstand]
  cases hrun : s.stands[n].running with
  | none =>
    have hheld : s.heldStand n s.stands[n] = { s.stands[n] with state := .spliceHeld } := by
      unfold State.heldStand
      split
      · rfl
      · next a ha =>
        rw [hrun] at ha
        contradiction
    rw [State.compareStandby, Stand.standbyArm, hrunning, hrun, State.modStand, hheld]
    rfl
  | some a =>
    have hheld : s.heldStand n s.stands[n] =
        { s.stands[n].setArm a.other (s.comparedArm n (s.stands[n].arm a.other)) with state := .spliceHeld } := by
      rw [State.heldStand, hrun]
    rw [compareStandby_eq false (hrunning.trans hrun), demote_silent, State.modStand, hheld, State.modArm,
      State.modStand, hstand, arm_of_state, setArm_of_state]
    simp only [State.setStandState, State.modStand, Vector.set_set]
    rfl

theorem resetStand_eq : s.resetStand n = s.modStand n (s.standReset n) := by
  unfold State.resetStand State.standReset
  by_cases h : s.stands[n].state = .splicing
  · simp only [if_pos h, heldStand_eq, State.modStand, getElem_set_fin, if_true, Vector.set_set]
  · simp only [if_neg h, State.modStand]

/-- Each stand is reset by the records the floor reset found. -/
theorem foldl_resetStand (l : List StandNo) {t : State} (ht : t = { s with stands := t.stands }) :
    l.foldl State.resetStand t = l.foldl (fun t n => t.modStand n (s.standReset n)) t := by
  induction l generalizing t with
  | nil => rfl
  | cons n l ih =>
    have hstep : t.resetStand n = t.modStand n (s.standReset n) := by
      rw [resetStand_eq]
      conv_lhs => rw [ht]
      conv_rhs => rw [ht]
      rfl
    rw [List.foldl_cons, List.foldl_cons, hstep]
    exact ih (by rw [State.modStand]; conv_lhs => rw [ht])

theorem resetStands_eq : (List.finRange 8).foldl State.resetStand s =
    { s with stands := ((List.finRange 8).foldl State.resetStand s).stands } := by
  rw [foldl_resetStand s (List.finRange 8) rfl]
  exact foldl_modStand_changes s.standReset (List.finRange 8) s

theorem resetStands_stand :
    ((List.finRange 8).foldl State.resetStand s).stands[n] = s.standReset n s.stands[n] := by
  rw [foldl_resetStand s (List.finRange 8) rfl]
  exact foldl_modStand_stand s s.standReset n

variable (x : Stand)

theorem heldStand_bare : (s.heldStand n x).bare = { x with state := .spliceHeld }.bare := by
  unfold State.heldStand
  split
  · rfl
  · next a _ => exact congrArg (fun y : Stand => { y with state := .spliceHeld }) (x.setArm_bare a.other _)

theorem standReset_bare : (s.standReset n x).bare = { x.bare with
    state := if x.state = .splicing then .spliceHeld else x.state
    callUpMark := s.loaded.stands[n].callUpMark
    spliceMark := s.loaded.stands[n].spliceMark } := by
  unfold State.standReset
  dsimp only
  split
  · exact congrArg (fun y : Stand => { y with
      callUpMark := s.loaded.stands[n].callUpMark, spliceMark := s.loaded.stands[n].spliceMark })
      (heldStand_bare s n x)
  · rfl

theorem heldStand_arm (a : Arm) : (s.heldStand n x).arm a =
    if x.running = some a.other then s.comparedArm n (x.arm a) else x.arm a := by
  unfold State.heldStand
  split
  · next hrun => rw [arm_of_state, if_neg (by rw [hrun]; exact nofun)]
  · next b hrun =>
    rw [arm_of_state]
    by_cases h : b = a.other
    · subst h
      rw [Arm.other_other, if_pos hrun, arm_setArm_self]
    · have hb : b = a := by cases a <;> cases b <;> trivial
      rw [if_neg fun hsome => h (Option.some.inj (hrun.symm.trans hsome)), hb, arm_setArm_other]

/-- R146: an arm loses its reservation; the standby of a splice in progress is compared. -/
theorem standReset_arm (a : Arm) : (s.standReset n x).arm a =
    (if x.state = .splicing ∧ x.running = some a.other then s.comparedArm n (x.arm a) else x.arm a).unreserved := by
  have harm (y : Stand) (c m : Nat) : ({ y with
      armA := y.armA.unreserved, armB := y.armB.unreserved, callUpMark := c, spliceMark := m } : Stand).arm a =
      (y.arm a).unreserved := by cases a <;> rfl
  unfold State.standReset
  rw [harm]
  by_cases h : x.state = .splicing
  · rw [if_pos h, heldStand_arm]
    exact congrArg ArmRecord.unreserved (if_congr (and_iff_right h).symm rfl rfl)
  · rw [if_neg h, if_neg fun hboth => h hboth.1]

theorem unreserved_status {y : ArmRecord} (h : y.status ≠ .reserved) : y.unreserved.status = y.status := if_neg h

theorem unreserved_reserved {y : ArmRecord} (h : y.status = .reserved) : y.unreserved.status = .empty := if_pos h

end

/-- R65, R133, R146: what a floor reset leaves of an arm. -/
structure State.ArmReset (s : State) (n : StandNo) (a : Arm) (x : Stand) (y : ArmRecord) : Prop where
  reservation : y.reservation = none
  roll : y.roll = (x.arm a).roll
  reserved : (x.arm a).status = .reserved → y.status = .empty
  other : (x.arm a).status ≠ .reserved → (x.arm a).status ≠ .ready → y.status = (x.arm a).status
  ready : (x.arm a).status = .ready → (x.state ≠ .splicing → y.status = .ready) ∧
    (x.state = .splicing → x.running = some a.other → ∀ (k : Nat) (q : Roll), (x.arm a).roll = some k →
      s.roll? k = some q → y.status = if s.requirement n = some ⟨q.grade, q.width⟩ then .ready else .mismatch)

theorem armReset_standReset (s : State) (n : StandNo) (x : Stand) (a : Arm) :
    s.ArmReset n a x ((s.standReset n x).arm a) := by
  rw [standReset_arm]
  split
  · next h =>
    refine ⟨rfl, comparedArm_roll s n _, fun hst => ?_, fun hres hready => ?_,
      fun hready => ⟨fun hst => absurd h.1 hst, fun _ _ k q hk hq => ?_⟩⟩
    · have hsame := comparedArm_of_not_ready s n (x.arm a) (by rw [hst]; exact nofun)
      rw [hsame]
      exact unreserved_reserved hst
    · rw [comparedArm_of_not_ready s n _ hready, unreserved_status hres]
    · have hstatus := comparedArm_status s n _ hready hk hq
      rw [unreserved_status, hstatus]
      rw [hstatus]
      split <;> exact nofun
  · next h =>
    refine ⟨rfl, rfl, unreserved_reserved, fun hres _ => unreserved_status hres,
      fun hready => ⟨fun _ => ?_, fun hst hrun => absurd ⟨hst, hrun⟩ h⟩⟩
    rw [unreserved_status, hready]
    rw [hready]
    exact nofun

/-! ## Demands raised -/

/-- R82, R86: what raising demands leaves alone. -/
structure State.Raised (s t : State) : Prop where
  changes : t = { s with
    rolls := t.rolls, orders := t.orders, nextNumber := t.nextNumber, waiting := t.waiting, demand := t.demand,
    stands := t.stands, notices := t.notices }
  places : s.SamePlaces t
  bare : ∀ n : StandNo, t.stands[n].bare = s.stands[n].bare

/-- R82: a raised demand changes nothing of a stand but its arms. -/
theorem raiseDemand_stand {β : Type} (s : State) (m n : StandNo) (f : Stand → β)
    (hf : ∀ x a r, f (x.setArm a r) = f x) : f (s.raiseDemand n).stands[m] = f s.stands[m] :=
  raiseDemand_induction (P := fun t => f t.stands[m] = f s.stands[m]) rfl (fun _ _ ht => ht)
    (fun t k c slot ht _ => (fed_stand t m k c slot f hf).trans ht) (fun _ _ _ ht => ht) n

theorem raised_reRaise {s t : State} (h : s.Raised t) (n : StandNo) : s.Raised (t.reRaise n) := by
  unfold State.reRaise
  dsimp only
  split
  · refine ⟨?_, h.places.trans (samePlaces_raiseDemand t n),
      fun m => (raiseDemand_stand t m n Stand.bare Stand.setArm_bare).trans (h.bare m)⟩
    have hraise := t.raiseDemand_changes n
    generalize t.raiseDemand n = u at hraise ⊢
    rw [hraise]
    conv_lhs => rw [h.changes]
  · exact h

theorem raised_foldl (s : State) (l : List StandNo) : s.Raised (l.foldl State.reRaise s) :=
  foldl_kept ⟨rfl, .refl s, fun _ => rfl⟩ fun _ n ht => raised_reRaise ht n

/-- R82, R86: the demand of a stand of the web plan, raised anew where it can be. -/
theorem reRaise_eq (s : State) (n : StandNo) : s.reRaise n =
    if s.requirement n ≠ none ∧ s.stands[n].callUpRaised = true ∧
        (s.stands[n].arm s.stands[n].feedArm).status = .empty ∧ s.openFeed n = none ∧ n ∉ s.demand then
      (State.examine { s with demand := s.demand ++ [n] }).postShort n
    else s := by
  split
  · next h =>
    obtain ⟨hreq, hraised, harm, hopen, hout⟩ := h
    exact (if_pos ⟨Option.isSome_iff_ne_none.2 hreq, hraised, harm⟩).trans (raiseDemand_appends hopen hout)
  · next h =>
    unfold State.reRaise
    dsimp only
    split
    · next hcan =>
      obtain ⟨hreq, hraised, harm⟩ := hcan
      refine if_pos ?_
      by_contra hnot
      obtain ⟨hopen, hout⟩ := not_or.1 hnot
      exact h ⟨Option.isSome_iff_ne_none.1 hreq, hraised, harm, Option.not_isSome_iff_eq_none.1 hopen, hout⟩
    · rfl

theorem foldl_reRaise_quiet {s : State} (h : ∀ n : StandNo, s.stands[n].callUpRaised = false) (l : List StandNo) :
    l.foldl State.reRaise s = s := by
  refine foldl_kept (P := (· = s)) rfl fun t n ht => ?_
  subst ht
  refine if_neg fun hraise => ?_
  rw [h n] at hraise
  exact Bool.false_ne_true hraise.2.1

/-! ## The records of the moves -/

theorem tableGet_map {α : Type} (f : α → α) (l : List (Nat × α)) (k : Nat) :
    tableGet (l.map fun p => (p.1, f p.2)) k = (tableGet l k).map f := by
  induction l with
  | nil => rfl
  | cons p l ih =>
    obtain ⟨j, x⟩ := p
    rw [List.map_cons, tableGet, tableGet]
    split
    · rfl
    · exact ih

/-- R60: a lane without reservations, bound while it holds rolls. -/
theorem lane_reset (l : Lane) : l.reset = ⟨if l.contents = [] then none else l.binding, l.contents, 0⟩ := by
  unfold Lane.reset Lane.unbindIfEmpty
  cases l.contents <;> rfl

/-! ## The floor reset -/

theorem floorReset_unconfigured {s : State} (h : s.device = .unconfigured) : s.floorReset = s.resetPort := by
  unfold State.floorReset
  rw [h]

theorem floorReset_ready {s : State} (h : s.device = .ready) : s.floorReset = (List.finRange 8).foldl State.reRaise
    ((List.finRange 8).foldl State.resetStand s).resetMoves.resetPort := by
  unfold State.floorReset
  rw [h]

/-- Settles O60: each stand by `standReset_bare` and `armReset_standReset`, the demands raised anew by `raised_foldl`. -/
theorem floorResetByDeviceState : Obligations.FloorResetByDeviceState := by
  refine ⟨fun s h => ?_, fun s h => ?_, fun s h => ?_⟩
  · change Host.Outcome.next s.floorReset = _
    rw [State.floorReset, h]
  · change Host.Outcome.next s.floorReset = _
    rw [floorReset_unconfigured h]
    rfl
  have hreset := floorReset_ready h
  have hstands := resetStands_eq s
  have hstand := resetStands_stand s
  generalize (List.finRange 8).foldl State.resetStand s = w at hreset hstands hstand
  generalize w.stands = stands at hstands hstand
  subst hstands
  let u : State := State.resetPort (State.resetMoves { s with stands := stands })
  have hraised := raised_foldl u (List.finRange 8)
  have hquiet := foldl_reRaise_quiet (s := u) (l := List.finRange 8)
  generalize ht : (List.finRange 8).foldl State.reRaise u = t at hraised hquiet
  have hbare (n : StandNo) := (hraised.bare n).trans ((congrArg Stand.bare (hstand n)).trans (standReset_bare s n _))
  have hroll (k : Nat) (r : Roll) (hr : s.roll? k = some r) : u.roll? k = some { r with claim := none } := by
    change tableGet (s.rolls.map fun p => (p.1, { p.2 with claim := none })) k = _
    rw [tableGet_map (fun r : Roll => { r with claim := none }), show tableGet s.rolls k = some r from hr]
    rfl
  have hlane (l : LaneNo) : u.lanes[l] =
      ⟨if s.lanes[l].contents = [] then none else s.lanes[l].binding, s.lanes[l].contents, 0⟩ :=
    (getElem_vmap _ _ _ _).trans (lane_reset _)
  have hfield {β : Type} (f : State → β) := congrArg f hraised.changes
  refine ⟨t, u, ?_, (hfield State.device).trans h, hfield State.requests,
    hfield State.answers, hfield State.overrunMark, hfield State.framingMark,
    hfield State.resetPending, hfield State.received, hfield State.outbound,
    hfield State.idle, hfield State.dock, hfield State.jobs,
    hfield State.wasteFraction, hfield State.sequence, hfield State.working,
    hfield State.loaded, hfield State.store, hfield State.hallAccumulator,
    hfield State.lineBytes, hfield State.finishing, hfield State.period,
    hfield State.frameSpoiled, fun v => ?_, fun g => ?_, fun l => ?_, fun k r hr => ?_, fun n => ?_, ?_,
    fun hcalls => ?_, rfl, rfl, rfl, rfl, fun k => Vector.getElem_replicate _, hlane, hroll, fun p hp => ?_,
    fun n a => ?_⟩
  · exact congrArg Host.Outcome.next (hreset.trans ht)
  · rw [hfield State.vehicles]
    exact getElem_vmap _ _ _ _
  · rw [hfield State.aisles]
    exact Vector.getElem_replicate _
  · have hcontents := congrArg Lane.contents (hlane l)
    rw [hfield State.lanes]
    exact hcontents
  · have hkept := hraised.places.roll_some (hroll k r hr)
    exact hkept
  · have hn {β : Type} (f : Stand → β) := congrArg f (hbare n)
    have hstate : t.stands[n].state = if s.stands[n].state = .splicing then .spliceHeld else s.stands[n].state :=
      hn Stand.state
    refine ⟨hn Stand.running, hstate, hn Stand.callUpMark, hn Stand.spliceMark,
      hn Stand.callUpRaised, hn Stand.window, hn Stand.fraction,
      hn Stand.trackingHold, decide_eq_false ?_⟩
    rw [hstate]
    split
    · exact nofun
    · assumption
  · have heq : (fun (x : State) (n : StandNo) =>
        if x.requirement n ≠ none ∧ x.stands[n].callUpRaised = true ∧
            (x.stands[n].arm x.stands[n].feedArm).status = .empty ∧ x.openFeed n = none ∧ n ∉ x.demand then
          (State.examine { x with demand := x.demand ++ [n] }).postShort n
        else x) = State.reRaise := funext₂ fun x n => (reRaise_eq x n).symm
    dsimp only
    rw [heq]
    exact ht.symm
  · refine hquiet fun n => ?_
    have hn := (congrArg Stand.bare (hstand n)).trans (standReset_bare s n _)
    exact (congrArg Stand.callUpRaised hn).trans (hcalls n)
  · obtain ⟨q, -, rfl⟩ := List.mem_map.1 hp
    rfl
  · have harm := armReset_standReset s n s.stands[n] a
    rw [← hstand n] at harm
    exact ⟨harm.reservation, harm.roll, harm.reserved, harm.other, harm.ready⟩

end Sys2Proof.Machine

/-! PROOF. Step 4 of a changeover: every standby compared with the new plan (R141). -/

namespace Sys2Proof.Machine

/-! ## Notices -/

/-- An entry of the notice list of a key and a detail (R172). -/
def State.Noted (s : State) (key : NoticeKey) (d : NoticeDetail) : Prop := ∃ e ∈ s.notices, e.key = key ∧ e.detail = d

section
variable {s t : State} {key key' : NoticeKey} {d d' : NoticeDetail}

theorem noted_of_posted (h : t.notices = postInto s.notices key d) : t.Noted key d := by
  rw [State.Noted, h]
  exact mem_postInto_self s.notices key d

theorem noted_of_other (h : t.notices = postInto s.notices key' d') (hkey : key ≠ key') (hd : s.Noted key d) :
    t.Noted key d := by
  obtain ⟨e, he, rfl, hdetail⟩ := hd
  exact ⟨e, h ▸ mem_postInto_of_mem he hkey, rfl, hdetail⟩

theorem noted_of_eq (h : t.notices = s.notices) (hd : s.Noted key d) : t.Noted key d := by
  rw [State.Noted, h]
  exact hd

end

/-! ## One arm compared -/

section
variable (s : State) (n : StandNo) (a : Arm)

/-- R141: a stand with the standby of arm `a` READY again, in SPLICING when the splice was due. -/
def State.readied : Stand :=
  if s.stands[n].state = .spliceDue ∧ s.stands[n].running = some a.other then
    { s.stands[n].setArm a { s.stands[n].arm a with status := .ready } with
      state := .splicing, window := s.working.stands[n].spliceWindow }
  else s.stands[n].setArm a { s.stands[n].arm a with status := .ready }

theorem standbyArm_iff {x : Stand} : x.standbyArm = some a ↔ x.running = some a.other := by
  rw [Stand.standbyArm, Option.map_eq_some_iff]
  constructor
  · rintro ⟨b, hb, rfl⟩
    rw [hb, Arm.other_other]
  · exact fun h => ⟨a.other, h, Arm.other_other a⟩

/-- R141: what a comparison does at one arm: nothing, STANDBY_MISMATCH, or READY again. -/
theorem compareArm_cases :
    (s.compareArm n a = s ∧ ∀ r, (s.stands[n].arm a).roll.bind s.roll? = some r →
      ((s.stands[n].arm a).status = .ready → s.requirement n = some r.kind) ∧
      ((s.stands[n].arm a).status = .mismatch → ¬ (r.claim = none ∧ s.requirement n = some r.kind))) ∨
    ∃ r, (s.stands[n].arm a).roll.bind s.roll? = some r ∧
      (((s.stands[n].arm a).status = .ready ∧ s.requirement n ≠ some r.kind ∧ s.compareArm n a = { s with
          stands := s.stands.set n (s.stands[n].setArm a { s.stands[n].arm a with status := .mismatch })
          notices := postInto s.notices (.standbyMismatch n) (.tag r.tag) }) ∨
        ((s.stands[n].arm a).status = .mismatch ∧ r.claim = none ∧ s.requirement n = some r.kind ∧
          s.compareArm n a = { s with stands := s.stands.set n (s.readied n a) })) := by
  unfold State.compareArm
  dsimp only
  split
  · next hready =>
    cases hr : (s.stands[n].arm a).roll.bind s.roll? with
    | none =>
      refine .inl ⟨?_, nofun⟩
      rw [State.demote, hr]
      cases (s.stands[n].arm a).status <;> rfl
    | some r =>
      obtain ⟨k, hk, hkr⟩ := Option.bind_eq_some_iff.1 hr
      by_cases hfits : s.requirement n = some r.kind
      · refine .inl ⟨demote_matching true hk hkr hfits, ?_⟩
        rintro _ ⟨⟩
        refine ⟨fun _ => hfits, fun hmismatch => ?_⟩
        rw [hready] at hmismatch
        contradiction
      · exact .inr ⟨r, rfl, .inl ⟨hready, hfits, demote_other hready hk hkr hfits⟩⟩
  · next r hmismatch hr =>
    by_cases h : r.claim = none ∧ s.requirement n = some r.kind
    · have hplan : r.claim = none ∧ s.matchesPlan n r = true := ⟨h.1, decide_eq_true h.2⟩
      refine .inr ⟨r, hr, .inr ⟨hmismatch, h.1, h.2, ?_⟩⟩
      let u := s.modArm n a fun x => { x with status := .ready }
      have hstand : u.stands[n] = s.stands[n].setArm a { s.stands[n].arm a with status := .ready } := modStand_self _ _ _
      have hdue : (u.stands[n].state = .spliceDue ∧ u.stands[n].standbyArm = some a) ↔
          s.stands[n].state = .spliceDue ∧ s.stands[n].running = some a.other := by
        rw [hstand, Stand.setArm_state, standbyArm_iff, Stand.setArm_running]
      rw [if_pos hplan, State.readied]
      refine (if_congr hdue rfl rfl).trans ?_
      split
      · simp only [State.enterSplicing, State.modArm, State.modStand, getElem_set_fin, if_true, Vector.set_set]
      · rfl
    · refine .inl ⟨if_neg fun hplan => h ⟨hplan.1, of_decide_eq_true hplan.2⟩, fun q hq => ⟨fun hready => ?_, fun _ => ?_⟩⟩
      · rw [hmismatch] at hready
        contradiction
      · rw [hr] at hq
        cases hq
        exact h
  · next hready hmismatch =>
    exact .inl ⟨rfl, fun r hr => ⟨fun h => absurd h hready, fun h => absurd hr (hmismatch r h)⟩⟩

end

/-- R141: the standby of an arm that was READY or MISMATCH, after the comparison of its stand. -/
structure State.ArmSettled (s : State) (n : StandNo) (x : Stand) (t : State) (a : Arm) : Prop where
  ready : (x.arm a).status = .ready → ∀ r, (x.arm a).roll.bind s.roll? = some r →
    (s.requirement n = some r.kind → (t.stands[n].arm a).status = .ready) ∧
    (s.requirement n ≠ some r.kind → (t.stands[n].arm a).status = .mismatch ∧
      ∃ d, t.Noted (.standbyMismatch n) d ∧ (a = .B ∨ x.armB.status ≠ .ready → d = .tag r.tag))
  mismatch : (x.arm a).status = .mismatch → ∀ r, (x.arm a).roll.bind s.roll? = some r →
    (s.requirement n ≠ some r.kind ∨ r.claim ≠ none → (t.stands[n].arm a).status = .mismatch) ∧
    (s.requirement n = some r.kind → r.claim = none → (t.stands[n].arm a).status = .ready ∧
      (x.state = .spliceDue → x.running = some a.other →
        t.stands[n].state = .splicing ∧ t.stands[n].window = s.working.stands[n].spliceWindow))

/-- What the comparison of arm `a` leaves. -/
structure State.ArmCompared (s : State) (n : StandNo) (a : Arm) (t : State) : Prop where
  changes : t = { s with stands := s.stands.set n t.stands[n], notices := t.notices }
  other : t.stands[n].arm a.other = s.stands[n].arm a.other
  running : t.stands[n].running = s.stands[n].running
  fraction : t.stands[n].fraction = s.stands[n].fraction
  still : s.stands[n].state ≠ .spliceDue ∨ s.stands[n].running ≠ some a.other →
    t.stands[n].state = s.stands[n].state ∧ t.stands[n].window = s.stands[n].window
  noted : ∀ key d, s.Noted key d → t.Noted key d ∨
    (key = .standbyMismatch n ∧ (s.stands[n].arm a).status = .ready ∧ ∃ d', t.Noted key d')
  settled : s.ArmSettled n s.stands[n] t a

section
variable {s t : State} {n : StandNo} {a : Arm}

theorem armCompared_demoted {r : Roll} (hroll : (s.stands[n].arm a).roll.bind s.roll? = some r)
    (hready : (s.stands[n].arm a).status = .ready) (hfits : s.requirement n ≠ some r.kind) (ht : t = { s with
      stands := s.stands.set n (s.stands[n].setArm a { s.stands[n].arm a with status := .mismatch })
      notices := postInto s.notices (.standbyMismatch n) (.tag r.tag) }) : s.ArmCompared n a t := by
  have hstand : t.stands[n] = s.stands[n].setArm a { s.stands[n].arm a with status := .mismatch } := by
    rw [ht, getElem_set_fin, if_pos rfl]
  have hnotices : t.notices = postInto s.notices (.standbyMismatch n) (.tag r.tag) := by rw [ht]
  have harm : t.stands[n].arm a = { s.stands[n].arm a with status := .mismatch } := by rw [hstand, arm_setArm_self]
  refine ⟨by rw [hstand, hnotices, ← ht], ?_, by rw [hstand, Stand.setArm_running],
    by rw [hstand, Stand.setArm_fraction], fun _ => by rw [hstand, Stand.setArm_state, Stand.setArm_window]; trivial,
    fun key d hd => ?_, fun _ q hq => ⟨fun h => ?_, fun _ => ⟨by rw [harm], .tag r.tag, noted_of_posted hnotices, ?_⟩⟩,
    fun h => ?_⟩
  · have hother := arm_setArm_other s.stands[n] a.other { s.stands[n].arm a with status := .mismatch }
    rwa [Arm.other_other, ← hstand] at hother
  · by_cases hkey : key = .standbyMismatch n
    · exact .inr ⟨hkey, hready, .tag r.tag, hkey ▸ noted_of_posted hnotices⟩
    · exact .inl (noted_of_other hnotices hkey hd)
  · rw [hroll] at hq
    cases hq
    exact absurd h hfits
  · rw [hroll] at hq
    cases hq
    exact fun _ => rfl
  · rw [hready] at h
    contradiction

theorem readied_eq (s : State) (n : StandNo) (a : Arm) : ∃ st w, s.readied n a =
    { s.stands[n].setArm a { s.stands[n].arm a with status := .ready } with state := st, window := w } := by
  unfold State.readied
  split
  · exact ⟨_, _, rfl⟩
  · exact ⟨_, _, rfl⟩

theorem arm_of_window (x : Stand) (a : Arm) (st : StandState) (w : Nat) :
    ({ x with state := st, window := w } : Stand).arm a = x.arm a := by cases a <;> rfl

theorem armCompared_readied {r : Roll} (hroll : (s.stands[n].arm a).roll.bind s.roll? = some r)
    (hmismatch : (s.stands[n].arm a).status = .mismatch) (hclaim : r.claim = none)
    (hfits : s.requirement n = some r.kind) (ht : t = { s with stands := s.stands.set n (s.readied n a) }) :
    s.ArmCompared n a t := by
  have hstand : t.stands[n] = s.readied n a := by rw [ht, getElem_set_fin, if_pos rfl]
  have hnotices : t.notices = s.notices := by rw [ht]
  obtain ⟨st, w, heq⟩ := readied_eq s n a
  rw [← hstand] at heq
  have harm : t.stands[n].arm a = { s.stands[n].arm a with status := .ready } := by
    rw [heq, arm_of_window, arm_setArm_self]
  refine ⟨by rw [hstand, hnotices, ← ht], ?_, ?_, ?_, fun hstill => ?_, fun key d hd => .inl (noted_of_eq hnotices hd),
    fun h => ?_, fun _ q hq => ⟨fun h => ?_, fun _ _ => ⟨by rw [harm], fun hdue hrun => ?_⟩⟩⟩
  · have hother := arm_setArm_other s.stands[n] a.other { s.stands[n].arm a with status := .ready }
    rw [Arm.other_other] at hother
    rw [heq, arm_of_window, hother]
  · rw [heq]
    exact s.stands[n].setArm_running a _
  · rw [heq]
    exact s.stands[n].setArm_fraction a _
  · have hnot : ¬ (s.stands[n].state = .spliceDue ∧ s.stands[n].running = some a.other) := not_and_or.2 hstill
    rw [hstand, State.readied, if_neg hnot, Stand.setArm_state, Stand.setArm_window]
    exact ⟨rfl, rfl⟩
  · rw [hmismatch] at h
    contradiction
  · rw [hroll] at hq
    cases hq
    obtain h | h := h
    · exact absurd hfits h
    · exact absurd hclaim h
  · rw [hstand, State.readied, if_pos ⟨hdue, hrun⟩]
    exact ⟨rfl, rfl⟩

/-- R141: one arm compared. -/
theorem armCompared (s : State) (n : StandNo) (a : Arm) : s.ArmCompared n a (s.compareArm n a) := by
  obtain ⟨heq, hquiet⟩ | ⟨r, hroll, ⟨hready, hfits, heq⟩ | ⟨hmismatch, hclaim, hfits, heq⟩⟩ := compareArm_cases s n a
  · have hset : s.stands.set n s.stands[n] = s.stands := Vector.set_getElem_self _
    rw [heq]
    refine ⟨by rw [hset], rfl, rfl, rfl, fun _ => ⟨rfl, rfl⟩, fun _ _ hd => .inl hd,
      fun hready r hr => ⟨fun _ => hready, fun h => absurd ((hquiet r hr).1 hready) h⟩,
      fun hmismatch r hr => ⟨fun _ => hmismatch, fun hfits hclaim => absurd ⟨hclaim, hfits⟩ ((hquiet r hr).2 hmismatch)⟩⟩
  · exact armCompared_demoted hroll hready hfits heq
  · exact armCompared_readied hroll hmismatch hclaim hfits heq

end

/-! ## A stand compared -/

/-- R141: a stand after its comparison, by the stand it was. -/
structure State.StandSettled (s : State) (n : StandNo) (x : Stand) (t : State) : Prop where
  running : t.stands[n].running = x.running
  fraction : t.stands[n].fraction = x.fraction
  state : x.state ≠ .spliceDue ∨ x.running = none → t.stands[n].state = x.state
  splicing : x.state = .splicing → ∀ a, (x.arm a).status = .ready ∨ (x.arm a).status = .mismatch →
    (t.stands[n].arm a).status = (x.arm a).status
  arm : x.state ≠ .splicing → ∀ a, s.ArmSettled n x t a

/-- Arm A compared, then arm B. -/
theorem standSettled_compareArms {s : State} {n : StandNo} (hst : s.stands[n].state ≠ .splicing) :
    s.StandSettled n s.stands[n] ((s.compareArm n .A).compareArm n .B) := by
  have hA := armCompared s n .A
  generalize s.compareArm n .A = u at hA
  have hB := armCompared u n .B
  generalize u.compareArm n .B = t at hB
  have hrequirement : u.requirement n = s.requirement n := by rw [hA.changes]; rfl
  have hroll : u.roll? = s.roll? := by rw [hA.changes]; rfl
  have hworking : u.working = s.working := by rw [hA.changes]
  have harmA : t.stands[n].arm .A = u.stands[n].arm .A := hB.other
  have harmB : u.stands[n].arm .B = s.stands[n].arm .B := hA.other
  refine ⟨hB.running.trans hA.running, hB.fraction.trans hA.fraction, fun h => ?_, fun h => absurd h hst, fun _ a => ?_⟩
  · have hrunning (b : Arm) : s.stands[n].state ≠ .spliceDue ∨ s.stands[n].running ≠ some b :=
      h.imp_right fun hnone => by rw [hnone]; exact nofun
    have hstateA := (hA.still (hrunning _)).1
    refine (hB.still ?_).1.trans hstateA
    rw [hstateA, hA.running]
    exact hrunning _
  cases a with
  | A =>
    refine ⟨fun hready r hr => ⟨fun hfits => ?_, fun hfits => ?_⟩, fun hmismatch r hr => ⟨fun h => ?_, fun hfits hclaim => ?_⟩⟩
    · rw [harmA]
      exact (hA.settled.ready hready r hr).1 hfits
    · obtain ⟨hstatus, d, hd, htag⟩ := (hA.settled.ready hready r hr).2 hfits
      rw [harmA]
      refine ⟨hstatus, ?_⟩
      obtain hkept | ⟨-, hreadyB, d', hd'⟩ := hB.noted _ d hd
      · exact ⟨d, hkept, htag⟩
      · refine ⟨d', hd', fun h => ?_⟩
        obtain h | h := h
        · contradiction
        · rw [harmB] at hreadyB
          exact absurd hreadyB h
    · rw [harmA]
      exact (hA.settled.mismatch hmismatch r hr).1 h
    · obtain ⟨hstatus, hstarts⟩ := (hA.settled.mismatch hmismatch r hr).2 hfits hclaim
      rw [harmA]
      refine ⟨hstatus, fun hdue hrun => ?_⟩
      obtain ⟨hsplicing, hwindow⟩ := hstarts hdue hrun
      obtain ⟨hstate', hwindow'⟩ := hB.still (.inl (by rw [hsplicing]; exact nofun))
      exact ⟨hstate'.trans hsplicing, hwindow'.trans hwindow⟩
  | B =>
    have hready := hB.settled.ready
    have hmismatch := hB.settled.mismatch
    rw [harmB, hroll, hrequirement] at hready hmismatch
    refine ⟨fun hst r hr => ⟨(hready hst r hr).1, fun hfits => ?_⟩, fun hst r hr => ⟨(hmismatch hst r hr).1,
      fun hfits hclaim => ?_⟩⟩
    · obtain ⟨hstatus, d, hd, htag⟩ := (hready hst r hr).2 hfits
      exact ⟨hstatus, d, hd, fun _ => htag (.inl rfl)⟩
    · obtain ⟨hstatus, hstarts⟩ := (hmismatch hst r hr).2 hfits hclaim
      refine ⟨hstatus, fun hdue hrun => ?_⟩
      have hstillA := (hA.still (.inr (by rw [hrun]; exact nofun))).1
      rw [hworking] at hstarts
      exact hstarts (hstillA.trans hdue) (hA.running.trans hrun)

theorem standSettled_compareStand (s : State) (n : StandNo) : s.StandSettled n s.stands[n] (s.compareStand n) := by
  unfold State.compareStand
  split
  · next h => exact ⟨rfl, rfl, fun _ => rfl, fun _ _ _ => rfl, fun hst => absurd h hst⟩
  · next h => exact standSettled_compareArms h

end Sys2Proof.Machine

/-! PROOF. Steps 4 and 5 of a changeover: the stands compared, and the outdated FEED orders cancelled (R85, R141). -/

namespace Sys2Proof.Machine

/-! ## What the steps behind a comparison leave of a stand -/

/-- A stand but for its arms, its READY and MISMATCH standbys, and its STANDBY_MISMATCH entries. -/
structure State.KeepsStandby (s t : State) (n : StandNo) : Prop where
  bare : t.stands[n].bare = s.stands[n].bare
  status : ∀ a, (s.stands[n].arm a).status = .ready ∨ (s.stands[n].arm a).status = .mismatch →
    (t.stands[n].arm a).status = (s.stands[n].arm a).status
  noted : ∀ d, s.Noted (.standbyMismatch n) d → t.Noted (.standbyMismatch n) d

section
variable {s t u : State} {n : StandNo}

theorem State.KeepsStandby.refl (s : State) (n : StandNo) : s.KeepsStandby s n :=
  ⟨rfl, fun _ _ => rfl, fun _ hd => hd⟩

theorem State.KeepsStandby.trans (h : s.KeepsStandby t n) (h' : t.KeepsStandby u n) : s.KeepsStandby u n where
  bare := h'.bare.trans h.bare
  status a ha := (h'.status a (h.status a ha ▸ ha)).trans (h.status a ha)
  noted d hd := h'.noted d (h.noted d hd)

theorem keepsStandby_of_eq (hstands : t.stands[n] = s.stands[n])
    (hnoted : ∀ d, s.Noted (.standbyMismatch n) d → t.Noted (.standbyMismatch n) d) : s.KeepsStandby t n :=
  ⟨by rw [hstands], fun a _ => by rw [hstands], hnoted⟩

/-- A comparison's result outlasts what keeps the standbys. -/
theorem State.StandSettled.of_keeps {x : Stand} (h : s.StandSettled n x t) (hk : t.KeepsStandby u n) :
    s.StandSettled n x u := by
  have hbare {β : Type} (f : Stand → β) := congrArg f hk.bare
  have hstate : u.stands[n].state = t.stands[n].state := hbare Stand.state
  have hwindow : u.stands[n].window = t.stands[n].window := hbare Stand.window
  have hready {a : Arm} (ha : (t.stands[n].arm a).status = .ready) : (u.stands[n].arm a).status = .ready :=
    (hk.status a (.inl ha)).trans ha
  have hmismatch {a : Arm} (ha : (t.stands[n].arm a).status = .mismatch) : (u.stands[n].arm a).status = .mismatch :=
    (hk.status a (.inr ha)).trans ha
  refine ⟨(hbare Stand.running).trans h.running, (hbare Stand.fraction).trans h.fraction,
    fun hst => hstate.trans (h.state hst), fun hst a ha => ?_, fun hst a => ⟨fun hr r hroll => ?_, fun hm r hroll => ?_⟩⟩
  · have hsame := h.splicing hst a ha
    exact (hk.status a (hsame ▸ ha)).trans hsame
  · obtain ⟨hfit, hunfit⟩ := (h.arm hst a).ready hr r hroll
    refine ⟨fun hfits => hready (hfit hfits), fun hfits => ?_⟩
    obtain ⟨hstatus, d, hd, htag⟩ := hunfit hfits
    exact ⟨hmismatch hstatus, d, hk.noted d hd, htag⟩
  · obtain ⟨hunfit, hfit⟩ := (h.arm hst a).mismatch hm r hroll
    refine ⟨fun hfits => hmismatch (hunfit hfits), fun hfits hclaim => ?_⟩
    obtain ⟨hstatus, hstarts⟩ := hfit hfits hclaim
    refine ⟨hready hstatus, fun hdue hrun => ?_⟩
    obtain ⟨hsplicing, hw⟩ := hstarts hdue hrun
    exact ⟨hstate.trans hsplicing, hwindow.trans hw⟩

/-- A comparison reads nothing but the stand, the rolls, the plan and the settings. -/
theorem standSettled_of_stands {x : Stand} (stands : Vector Stand 8) (notices : List Notice)
    (h : ({ s with stands := stands, notices := notices } : State).StandSettled n x t) : s.StandSettled n x t :=
  ⟨h.running, h.fraction, h.state, h.splicing, fun hst a => ⟨(h.arm hst a).ready, (h.arm hst a).mismatch⟩⟩

end

/-! ## Every stand compared -/

theorem compareStand_other (s : State) {n m : StandNo} (h : n ≠ m) : (s.compareStand m).stands[n] = s.stands[n] := by
  have harm (u : State) (a : Arm) : (u.compareArm m a).stands[n] = u.stands[n] := by
    have hchanges := congrArg State.stands (armCompared u m a).changes
    rw [hchanges, getElem_set_fin, if_neg h]
  unfold State.compareStand
  split
  · rfl
  · rw [harm, harm]

theorem compareStand_noted (s : State) {m : StandNo} {key : NoticeKey} {d : NoticeDetail}
    (h : key ≠ .standbyMismatch m) (hd : s.Noted key d) : (s.compareStand m).Noted key d := by
  have harm (u : State) (a : Arm) (hu : u.Noted key d) : (u.compareArm m a).Noted key d :=
    ((armCompared u m a).noted key d hu).resolve_right fun hposted => h hposted.1
  unfold State.compareStand
  split
  · exact hd
  · exact harm _ _ (harm _ _ hd)

/-- R141: the stands compared. -/
def State.compareStands (s : State) : State := (List.finRange 8).foldl State.compareStand s

section
variable (s : State)

theorem compareStands_eq :
    s.compareStands = { s with stands := s.compareStands.stands, notices := s.compareStands.notices } := by
  refine foldl_kept (P := fun t => t = { s with stands := t.stands, notices := t.notices }) rfl fun t n ht => ?_
  have hcompare := t.compareStand_changes n
  generalize t.compareStand n = u at hcompare ⊢
  rw [hcompare]
  conv_lhs => rw [ht]

theorem standSettled_compareStands (n : StandNo) : s.StandSettled n s.stands[n] s.compareStands := by
  refine foldl_at (P := fun t => t = { s with stands := t.stands, notices := t.notices } ∧ t.stands[n] = s.stands[n])
    (Q := fun t => s.StandSettled n s.stands[n] t) (List.nodup_finRange 8) (List.mem_finRange n) ⟨rfl, rfl⟩ ?_ ?_ ?_
  · rintro t j hj ⟨ht, hn⟩
    refine ⟨?_, (compareStand_other t hj.symm).trans hn⟩
    have hcompare := t.compareStand_changes j
    generalize t.compareStand j = u at hcompare ⊢
    rw [hcompare]
    conv_lhs => rw [ht]
  · rintro t ⟨ht, hn⟩
    have hsettled := standSettled_compareStand t n
    rw [hn] at hsettled
    generalize t.compareStand n = u at hsettled
    rw [ht] at hsettled
    exact standSettled_of_stands _ _ hsettled
  · intro t j hj ht
    have hkey : NoticeKey.standbyMismatch n ≠ .standbyMismatch j := fun h => hj (NoticeKey.standbyMismatch.inj h).symm
    exact ht.of_keeps (keepsStandby_of_eq (compareStand_other t hj.symm) fun _ => compareStand_noted t hkey)

theorem compareStands_noted {key : NoticeKey} {d : NoticeDetail} (h : ∀ n, key ≠ .standbyMismatch n)
    (hd : s.Noted key d) : s.compareStands.Noted key d :=
  foldl_kept hd fun t n ht => compareStand_noted t (h n) ht

end

/-! ## Outdated orders -/

/-- R85: the stand of the outdated order of a slot. -/
def State.outdatedSlot (s : State) (c : OrderSlot) : Option StandNo := s.orders[c].bind s.outdatedFeed

section
variable {s t : State} {c : OrderSlot} {o : Order} {n : StandNo}

theorem orderFits_eq (s : State) (o : Order) (n : StandNo) :
    s.orderFits o n = ((s.roll? o.roll).map Roll.unclaimed).elim false (s.matchesPlan n) := by
  unfold State.orderFits
  cases s.roll? o.roll <;> rfl

/-- R85: an order is outdated by the plan and the paper of its roll. -/
theorem outdatedFeed_eq_some : s.outdatedFeed o = some n ↔ ∃ a, o.kind = .feed ∧ o.state = .waiting ∧
    o.dest = .arm n a ∧ ∀ r, s.roll? o.roll = some r → s.requirement n ≠ some ⟨r.grade, r.width⟩ := by
  have hfits (m : StandNo) : s.orderFits o m = false ↔
      ∀ r, s.roll? o.roll = some r → s.requirement m ≠ some ⟨r.grade, r.width⟩ := by
    unfold State.orderFits
    cases hr : s.roll? o.roll with
    | none => exact ⟨fun _ => nofun, fun _ => rfl⟩
    | some r =>
      refine decide_eq_false_iff_not.trans ⟨?_, fun h => h r rfl⟩
      rintro h _ ⟨⟩
      exact h
  unfold State.outdatedFeed
  split
  · next m a hdest =>
    split
    · next h =>
      obtain ⟨hkind, hstate, hnot⟩ := h
      constructor
      · rintro ⟨⟩
        exact ⟨a, hkind, hstate, hdest, (hfits _).1 hnot⟩
      · rintro ⟨b, -, -, hdest', -⟩
        rw [hdest] at hdest'
        cases hdest'
        rfl
    · next h =>
      refine ⟨nofun, ?_⟩
      rintro ⟨b, hkind, hstate, hdest', hnot⟩
      rw [hdest] at hdest'
      cases hdest'
      exact absurd ⟨hkind, hstate, (hfits _).2 hnot⟩ h
  · next hdest =>
    refine ⟨nofun, ?_⟩
    rintro ⟨b, -, -, hdest', -⟩
    exact absurd hdest' (hdest n b)

theorem outdatedSlot_eq_some : s.outdatedSlot c = some n ↔
    ∃ o, s.orders[c] = some o ∧ s.outdatedFeed o = some n := Option.bind_eq_some_iff

theorem pruneSlot_none (h : s.outdatedSlot c = none) : s.pruneSlot c = (s, none) := by
  unfold State.pruneSlot
  cases ho : s.orders[c] with
  | none => rfl
  | some o =>
    rw [State.outdatedSlot, ho, Option.bind_some] at h
    dsimp only
    rw [h]

theorem pruneSlot_some (ho : s.orders[c] = some o) (h : s.outdatedFeed o = some n) :
    s.pruneSlot c = ((s.withdraw c o).markCancelled c o, some n) := by
  unfold State.pruneSlot
  rw [ho]
  dsimp only
  rw [h]

end

/-! ## What the tail of a changeover leaves -/

/-- R85, R141: what pruning, examining and pairing leave of a changeover. -/
structure State.Tail (s t : State) : Prop where
  jobs : t.jobs = s.jobs
  waste : t.wasteFraction = s.wasteFraction
  paper : ∀ k, (t.roll? k).map Roll.unclaimed = (s.roll? k).map Roll.unclaimed
  standby : ∀ n, s.KeepsStandby t n
  noted : ∀ j d, s.Noted (.jobClosed j) d → t.Noted (.jobClosed j) d

section
variable {s t u : State}

theorem State.Tail.refl (s : State) : s.Tail s :=
  ⟨rfl, rfl, fun _ => rfl, fun n => .refl s n, fun _ _ hd => hd⟩

theorem State.Tail.trans (h : s.Tail t) (h' : t.Tail u) : s.Tail u :=
  ⟨h'.jobs.trans h.jobs, h'.waste.trans h.waste, fun k => (h'.paper k).trans (h.paper k),
    fun n => (h.standby n).trans (h'.standby n), fun j d hd => h'.noted j d (h.noted j d hd)⟩

theorem State.Tail.requirement (h : s.Tail t) (n : StandNo) : t.requirement n = s.requirement n :=
  requirement_congr h.jobs n

/-- The orders found outdated stay those of the plan. -/
theorem State.Tail.outdatedFeed (h : s.Tail t) (o : Order) : t.outdatedFeed o = s.outdatedFeed o := by
  have hfits (n : StandNo) : t.orderFits o n = s.orderFits o n := by
    have hplan : t.matchesPlan n = s.matchesPlan n := funext fun r => by
      rw [State.matchesPlan, State.matchesPlan, h.requirement]
    rw [orderFits_eq, orderFits_eq, h.paper, hplan]
  unfold State.outdatedFeed
  simp only [hfits]

/-- What leaves the jobs, the rolls, the stands and the notices alone. -/
theorem tail_of_eq (hjobs : t.jobs = s.jobs) (hwaste : t.wasteFraction = s.wasteFraction) (hrolls : t.rolls = s.rolls)
    (hstands : t.stands = s.stands) (hnotices : t.notices = s.notices) : s.Tail t where
  jobs := hjobs
  waste := hwaste
  paper k := by rw [State.roll?, hrolls]; rfl
  standby n := keepsStandby_of_eq (by rw [hstands]) fun d => noted_of_eq hnotices
  noted j d := noted_of_eq hnotices

theorem keepsStandby_modArm (s : State) (n : StandNo) (a : Arm) {f : ArmRecord → ArmRecord}
    (hf : ∀ y, y.status = .ready ∨ y.status = .mismatch → (f y).status = y.status) (m : StandNo) :
    s.KeepsStandby (s.modArm n a f) m := by
  by_cases h : m = n
  · subst h
    have hstand : (s.modArm m a f).stands[m] = s.stands[m].setArm a (f (s.stands[m].arm a)) := modStand_self s m _
    refine ⟨by rw [hstand, Stand.setArm_bare], fun b hb => ?_, fun _ hd => hd⟩
    rw [hstand]
    by_cases hab : b = a
    · subst hab
      rw [arm_setArm_self, hf _ hb]
    · have hother : b = a.other := by cases a <;> cases b <;> trivial
      have harm := arm_setArm_other s.stands[m] a.other (f (s.stands[m].arm a))
      rw [Arm.other_other] at harm
      rw [hother, harm]
  · have hstand : (s.modArm n a f).stands[m] = s.stands[m] := by
      rw [State.modArm, State.modStand, getElem_set_fin, if_neg h]
    exact keepsStandby_of_eq hstand fun _ hd => hd

/-- R85: a served entry. -/
theorem tail_fed (s : State) (n : StandNo) (x : FeedChoice) (slot : OrderSlot) : s.Tail (s.fed n x slot) := by
  obtain ⟨_, heq⟩ := fed_eq s n x slot
  let f (y : ArmRecord) : ArmRecord :=
    { y with reservation := some slot, status := if y.status = .empty then .reserved else y.status }
  have harm (m : StandNo) : s.KeepsStandby (s.modArm n s.stands[n].feedArm f) m := by
    refine keepsStandby_modArm s n _ (fun y hy => if_neg fun hempty => ?_) m
    rw [hempty] at hy
    simp only [reduceCtorEq, or_self] at hy
  have hplaces := samePlaces_fed s n x slot
  have hnotices : (s.fed n x slot).notices = s.notices := fed_notices
  have hstands : (s.fed n x slot).stands = (s.modArm n s.stands[n].feedArm f).stands := by rw [heq]
  exact ⟨fed_jobs, by rw [heq], hplaces.roll,
    fun m => (harm m).trans (keepsStandby_of_eq (by rw [hstands]) fun _ => noted_of_eq hnotices),
    fun _ _ => noted_of_eq hnotices⟩

theorem tail_examine (s : State) : s.Tail s.examine :=
  examine_induction (.refl s) fun t n x slot ht _ => ht.trans (tail_fed t n x slot)

theorem tail_post (s : State) {key : NoticeKey} (d : NoticeDetail) (hmismatch : ∀ n, .standbyMismatch n ≠ key)
    (hclosed : ∀ j, .jobClosed j ≠ key) : s.Tail (s.post key d) where
  jobs := rfl
  waste := rfl
  paper _ := rfl
  standby n := keepsStandby_of_eq rfl fun _ => noted_of_other rfl (hmismatch n)
  noted j _ := noted_of_other rfl (hclosed j)

theorem tail_postShort (s : State) (n : StandNo) : s.Tail (s.postShort n) := by
  unfold State.postShort
  split
  · exact tail_post s _ (fun _ => nofun) fun _ => nofun
  · exact .refl s

theorem tail_pair (s : State) : s.Tail s.pair := by
  rw [s.pair_changes]
  exact tail_of_eq rfl rfl rfl rfl rfl

/-! ## A cancelled FEED order -/

/-- R85: an outdated order, from its cancellation on. -/
structure State.FeedCancelled (t : State) (c : OrderSlot) (o : Order) : Prop where
  order : t.orders[c] = some { o with state := .cancelled, vehicle := none, deadline := .none }
  waiting : c ∉ t.waiting
  notice : t.Noted (.orderCancelled c) (.order o.number)

variable {c k : OrderSlot} {o q : Order} {n : StandNo} {a : Arm}

theorem withdraw_stands (hdest : o.dest = .arm n a) :
    (s.withdraw k o).stands = (s.modArm n a ArmRecord.unreserved).stands := by
  rw [State.withdraw, State.dismiss_changes, hdest]
  rfl

theorem withdraw_paper (s : State) (k : OrderSlot) (o : Order) (j : RollSlot) :
    ((s.withdraw k o).roll? j).map Roll.unclaimed = (s.roll? j).map Roll.unclaimed := by
  rw [State.roll?, withdraw_rolls]
  by_cases h : j = o.roll
  · rw [h, tableGet_tableModify_self, Option.map_map]
    rfl
  · rw [tableGet_tableModify_other _ _ h]
    rfl

/-- R85: the cancellation of an outdated order. -/
theorem tail_cancel (s : State) (k : OrderSlot) (hdest : o.dest = .arm n a) :
    s.Tail ((s.withdraw k o).markCancelled k o) := by
  have hnotices : (s.withdraw k o).notices = s.notices := by rw [s.withdraw_changes]
  have harm (m : StandNo) : s.KeepsStandby (s.modArm n a ArmRecord.unreserved) m := by
    refine keepsStandby_modArm s n a (fun y hy => unreserved_status fun hreserved => ?_) m
    rw [hreserved] at hy
    simp only [reduceCtorEq, or_self] at hy
  have hwithdraw : s.Tail (s.withdraw k o) :=
    ⟨by rw [s.withdraw_changes], by rw [s.withdraw_changes], withdraw_paper s k o,
      fun m => (harm m).trans (keepsStandby_of_eq (by rw [withdraw_stands hdest]) fun _ => noted_of_eq hnotices),
      fun _ _ => noted_of_eq hnotices⟩
  let u := (s.withdraw k o).modOrder k fun x => { x with state := .cancelled, vehicle := none, deadline := .none }
  have hmod : (s.withdraw k o).Tail u := tail_of_eq rfl rfl rfl rfl rfl
  have hpost : u.Tail (u.post (.orderCancelled k) (.order o.number)) := tail_post u _ (fun _ => nofun) fun _ => nofun
  exact (hwithdraw.trans hmod).trans hpost

theorem cancel_orders (s : State) (k : OrderSlot) (o : Order) : ((s.withdraw k o).markCancelled k o).orders =
    s.orders.set k (s.orders[k].map fun x => { x with state := .cancelled, vehicle := none, deadline := .none }) := by
  have horders : (s.withdraw k o).orders = s.orders := by rw [s.withdraw_changes]
  rw [State.markCancelled, State.modOrder, State.setOrder, State.post, horders]

theorem feedCancelled_self (ho : s.orders[k] = some o) : ((s.withdraw k o).markCancelled k o).FeedCancelled k o where
  order := by rw [cancel_orders, getElem_set_fin, if_pos rfl, ho, Option.map_some]
  waiting := by
    change k ∉ (s.withdraw k o).waiting
    rw [withdraw_waiting, List.mem_filter]
    exact fun hin => of_decide_eq_true hin.2 rfl
  notice := noted_of_posted (s := (s.withdraw k o).modOrder k _) rfl

theorem feedCancelled_other (h : s.FeedCancelled c o) (hne : c ≠ k) :
    ((s.withdraw k q).markCancelled k q).FeedCancelled c o where
  order := by rw [cancel_orders, getElem_set_fin, if_neg hne, h.order]
  waiting := by
    change c ∉ (s.withdraw k q).waiting
    rw [withdraw_waiting]
    exact fun hin => h.waiting (List.filter_sublist.subset hin)
  notice := by
    have hnotices : (s.withdraw k q).notices = s.notices := by rw [s.withdraw_changes]
    have hkey : NoticeKey.orderCancelled c ≠ .orderCancelled k := fun h => hne (NoticeKey.orderCancelled.inj h)
    exact noted_of_other (s := s.withdraw k q) rfl hkey (noted_of_eq hnotices h.notice)

theorem feedCancelled_fed (h : s.FeedCancelled c o) {x : FeedChoice} {slot : OrderSlot} (hcan : s.CanFeed n x slot) :
    (s.fed n x slot).FeedCancelled c o where
  order := fed_order_of_some hcan h.order
  waiting := fed_waiting_of_order h.order h.waiting hcan
  notice := noted_of_eq fed_notices h.notice

theorem feedCancelled_join (h : s.FeedCancelled c o) {tail : List OrderSlot} {v : VehicleNo}
    (hw : s.waiting = k :: tail) : (s.join k q v).FeedCancelled c o where
  order := by
    have hne : c ≠ k := by
      rintro rfl
      exact h.waiting (by rw [hw]; exact List.mem_cons_self)
    rw [join_orders, getElem_set_fin, if_neg hne, h.order]
  waiting := by
    rw [join_waiting]
    exact fun hin => h.waiting (List.filter_sublist.subset hin)
  notice := noted_of_eq (join_notices s k q v) h.notice

theorem feedCancelled_postShort (h : s.FeedCancelled c o) (n : StandNo) : (s.postShort n).FeedCancelled c o := by
  unfold State.postShort
  split
  · exact ⟨h.order, h.waiting, noted_of_other rfl nofun h.notice⟩
  · exact h

theorem feedCancelled_examine (h : s.FeedCancelled c o) : s.examine.FeedCancelled c o :=
  examine_induction h fun _ _ _ _ ht hcan => feedCancelled_fed ht hcan

theorem feedCancelled_pair (h : s.FeedCancelled c o) : s.pair.FeedCancelled c o :=
  pair_induction h fun _ _ _ _ _ ht hw _ _ => feedCancelled_join ht hw

/-! ## The outdated orders cancelled -/

/-- One slot pruned: what it leaves, of the slot and of the others. -/
theorem pruneSlot_cases (s : State) (k : OrderSlot) : (s.outdatedSlot k = none ∧ s.pruneSlot k = (s, none)) ∨
    ∃ o n a, s.orders[k] = some o ∧ s.outdatedSlot k = some n ∧ o.dest = .arm n a ∧
      s.pruneSlot k = ((s.withdraw k o).markCancelled k o, some n) := by
  cases h : s.outdatedSlot k with
  | none => exact .inl ⟨rfl, pruneSlot_none h⟩
  | some n =>
    obtain ⟨o, ho, hout⟩ := outdatedSlot_eq_some.1 h
    obtain ⟨a, -, -, hdest, -⟩ := outdatedFeed_eq_some.1 hout
    exact .inr ⟨o, n, a, ho, rfl, hdest, pruneSlot_some ho hout⟩

theorem tail_pruneSlot (s : State) (k : OrderSlot) : s.Tail (s.pruneSlot k).1 := by
  obtain ⟨-, heq⟩ | ⟨o, n, a, -, -, hdest, heq⟩ := pruneSlot_cases s k
  · rw [heq]
    exact .refl s
  · rw [heq]
    exact tail_cancel s k hdest

theorem pruneSlot_order_other (s : State) (hne : c ≠ k) : (s.pruneSlot k).1.orders[c] = s.orders[c] := by
  obtain ⟨-, heq⟩ | ⟨o, n, a, -, -, -, heq⟩ := pruneSlot_cases s k
  · rw [heq]
  · rw [heq, cancel_orders, getElem_set_fin, if_neg hne]

theorem feedCancelled_pruneSlot (h : s.FeedCancelled c o) (hne : c ≠ k) : (s.pruneSlot k).1.FeedCancelled c o := by
  obtain ⟨-, heq⟩ | ⟨q, n, a, -, -, -, heq⟩ := pruneSlot_cases s k
  · rw [heq]
    exact h
  · rw [heq]
    exact feedCancelled_other h hne

/-- The states and the stands of a pruning are apart. -/
theorem foldl_pruneSlot_fst (l : List OrderSlot) (p : State × List StandNo) :
    (l.foldl (fun p k => let q := p.1.pruneSlot k; (q.1, match q.2 with | none => p.2 | some n => p.2 ++ [n])) p).1 =
      l.foldl (fun t k => (t.pruneSlot k).1) p.1 := by
  induction l generalizing p with
  | nil => rfl
  | cons k l ih => exact ih _

theorem Tail.outdatedSlot (h : s.Tail t) (ho : t.orders[c] = s.orders[c]) : t.outdatedSlot c = s.outdatedSlot c := by
  have hout : t.outdatedFeed = s.outdatedFeed := funext h.outdatedFeed
  rw [State.outdatedSlot, State.outdatedSlot, ho, hout]

theorem foldl_pruneSlot_snd {l : List OrderSlot} (hl : l.Nodup) {p : State × List StandNo} (hp : s.Tail p.1)
    (horders : ∀ c ∈ l, p.1.orders[c] = s.orders[c]) :
    (l.foldl (fun p k => let q := p.1.pruneSlot k; (q.1, match q.2 with | none => p.2 | some n => p.2 ++ [n])) p).2 =
      p.2 ++ l.filterMap s.outdatedSlot := by
  induction l generalizing p with
  | nil => exact (List.append_nil _).symm
  | cons k l ih =>
    obtain ⟨hk, hl⟩ := List.nodup_cons.1 hl
    have hslot := Tail.outdatedSlot hp (horders k List.mem_cons_self)
    rw [List.foldl_cons, ih hl (hp.trans (tail_pruneSlot p.1 k)) fun c hc => ?_]
    · obtain ⟨hnone, heq⟩ | ⟨o, n, a, -, hsome, -, heq⟩ := pruneSlot_cases p.1 k
      · rw [List.filterMap_cons, ← hslot, hnone]
        dsimp only
        rw [heq]
      · rw [List.filterMap_cons, ← hslot, hsome]
        dsimp only
        rw [heq, List.append_assoc]
        rfl
    · have hne : c ≠ k := fun h => hk (h ▸ hc)
      exact (pruneSlot_order_other p.1 hne).trans (horders c (List.mem_cons_of_mem _ hc))

/-- R85: the stands of the outdated orders, in slot order. -/
theorem pruneOrders_stands (s : State) : s.pruneOrders.2 = (List.finRange 32).filterMap s.outdatedSlot :=
  foldl_pruneSlot_snd (List.nodup_finRange 32) (.refl s) fun _ _ => rfl

theorem pruneOrders_state (s : State) :
    s.pruneOrders.1 = (List.finRange 32).foldl (fun t k => (t.pruneSlot k).1) s :=
  foldl_pruneSlot_fst _ _

theorem tail_pruneOrders (s : State) : s.Tail s.pruneOrders.1 := by
  rw [pruneOrders_state]
  exact foldl_kept (State.Tail.refl s) fun t k ht => ht.trans (tail_pruneSlot t k)

/-- R85: every outdated order is cancelled. -/
theorem feedCancelled_pruneOrders (ho : s.orders[c] = some o) (h : s.outdatedSlot c ≠ none) :
    s.pruneOrders.1.FeedCancelled c o := by
  rw [pruneOrders_state]
  refine foldl_at (P := fun t => s.Tail t ∧ t.orders[c] = s.orders[c]) (Q := fun t => t.FeedCancelled c o)
    (List.nodup_finRange 32) (List.mem_finRange c) ⟨.refl s, rfl⟩ ?_ ?_ fun t k hk ht => feedCancelled_pruneSlot ht hk.symm
  · exact fun t k hk ⟨ht, hc⟩ => ⟨ht.trans (tail_pruneSlot t k), (pruneSlot_order_other t hk.symm).trans hc⟩
  · rintro t ⟨ht, hc⟩
    obtain ⟨hnone, -⟩ | ⟨q, n, a, hq, -, -, heq⟩ := pruneSlot_cases t c
    · exact absurd ((Tail.outdatedSlot ht hc).symm.trans hnone) h
    · rw [hc, ho, Option.some_inj] at hq
      subst hq
      rw [heq]
      exact feedCancelled_self (hc.trans ho)

end

end Sys2Proof.Machine

/-! PROOF. The changeover, by request and by pulse: the jobs, the demands raised anew, and what the new plan makes of standbys and orders (R85, R141, R151 to R153). -/

namespace Sys2Proof.Machine

/-! ## The jobs -/

section
variable {s : State} {j : JobSlot}

theorem stagedSlot_of_staged (h : s.JobsLegal) (hj : s.jobs[j].state = .staged) : s.stagedSlot = some j :=
  stagedSlot_eq hj fun i hi hst => absurd (h.2 i j (hst.trans hj.symm) (.inr hst)) (ne_of_lt hi)

/-- R152: the web plan in force is the staged job's. -/
theorem activate_requirement (h : s.JobsLegal) (hj : s.jobs[j].state = .staged) (n : StandNo) :
    (s.activate j).requirement n = s.jobs[j].plan[n] := by
  have hstaged := stagedSlot_of_staged h hj
  have hjobs := activate_jobs hstaged j
  rw [if_pos rfl] at hjobs
  have hactive : (s.activate j).activeSlot = some j :=
    activeSlot_of_active ((activate_keeps (c := True) hstaged).jobs h) (by rw [hjobs])
  rw [State.requirement, hactive, Option.bind_some, hjobs]

theorem activate_closed {i : JobSlot} (hi : s.activeSlot = some i) :
    (s.activate j).Noted (.jobClosed i) (.job s.jobs[i].number) := by
  have hclosed : s.closeJob = (s.modJob i fun x => { x with state := .closed }).post (.jobClosed i)
      (.job s.jobs[i].number) := by rw [State.closeJob, hi]
  have hnotices : (s.activate j).notices = s.closeJob.notices := rfl
  exact noted_of_posted (s := s) (hnotices.trans (by rw [hclosed]; rfl))

end

/-! ## Demands raised anew -/

section
variable {s : State} {n : StandNo} {l : List StandNo}

theorem appendDemand_cases (s : State) (n : StandNo) :
    ((n ∈ s.demand ∨ s.openFeed n ≠ none) ∧ s.appendDemand n = s) ∨
    (n ∉ s.demand ∧ s.appendDemand n = { s with demand := s.demand ++ [n] }) := by
  unfold State.appendDemand
  split
  · next h => exact .inl ⟨h.symm.imp_right Option.isSome_iff_ne_none.1, rfl⟩
  · next h => exact .inr ⟨(not_or.1 h).2, rfl⟩

theorem appendDemand_openFeed (s : State) (m : StandNo) : (s.appendDemand m).openFeed n = s.openFeed n := by
  rw [s.appendDemand_changes]
  rfl

theorem appendDemand_mem {m : StandNo} (h : n ∈ s.demand) : n ∈ (s.appendDemand m).demand := by
  obtain ⟨-, heq⟩ | ⟨-, heq⟩ := appendDemand_cases s m
  · rw [heq]
    exact h
  · rw [heq]
    exact List.mem_append_left _ h

/-- R82: the demands entered are those that were not in the list. -/
theorem foldl_appendDemand_sublist (l : List StandNo) (s : State) :
    (l.foldl State.appendDemand s).demand.Sublist (s.demand ++ l.filter fun n => decide (n ∉ s.demand)) := by
  induction l generalizing s with
  | nil => exact List.sublist_append_left _ _
  | cons m l ih =>
    refine (ih (s.appendDemand m)).trans ?_
    obtain ⟨-, heq⟩ | ⟨hm, heq⟩ := appendDemand_cases s m
    · rw [heq]
      exact (List.Sublist.refl _).append ((List.sublist_cons_self m l).filter _)
    · have hcons : (m :: l).filter (fun n => decide (n ∉ s.demand)) =
          m :: l.filter fun n => decide (n ∉ s.demand) := List.filter_cons_of_pos (decide_eq_true hm)
      rw [heq, hcons, List.append_assoc]
      refine (List.Sublist.refl _).append (List.Sublist.cons_cons m (List.monotone_filter_right l fun k hk => ?_))
      exact decide_eq_true fun hin => of_decide_eq_true hk (List.mem_append_left _ hin)

theorem foldl_appendDemand_mem (h : n ∈ s.demand) : n ∈ (l.foldl State.appendDemand s).demand :=
  foldl_kept (P := fun t => n ∈ t.demand) h fun _ _ ht => appendDemand_mem ht

/-- R82: a demand raised enters the list, or an order is open. -/
theorem foldl_appendDemand_raised (h : n ∈ l) : n ∈ (l.foldl State.appendDemand s).demand ∨ s.openFeed n ≠ none := by
  induction l generalizing s with
  | nil => exact absurd h List.not_mem_nil
  | cons m l ih =>
    obtain rfl | h := List.mem_cons.1 h
    · obtain ⟨hin | hopen, heq⟩ | ⟨-, heq⟩ := appendDemand_cases s n
      · exact .inl (foldl_appendDemand_mem (l := n :: l) hin)
      · exact .inr hopen
      · refine .inl (foldl_appendDemand_mem (s := s.appendDemand n) ?_)
        rw [heq]
        exact List.mem_append_right _ (List.mem_singleton_self n)
    · exact (ih (s := s.appendDemand m) h).imp_right fun hopen => appendDemand_openFeed s m ▸ hopen

/-- R84: an open FEED order stays open through an examination. -/
theorem openFeed_examine (h : s.openFeed n ≠ none) : s.examine.openFeed n ≠ none :=
  examine_induction (P := fun t => t.openFeed n ≠ none) h fun _ _ _ _ ht hcan => openFeed_fed hcan ht

/-- R70: an open FEED order stays open through a pairing. -/
theorem openFeed_pair (h : s.openFeed n ≠ none) : s.pair.openFeed n ≠ none := by
  refine pair_induction (P := fun t => t.openFeed n ≠ none) h fun t k _ o v ht _ ho _ => ?_
  obtain ⟨b, q, hq, hopen, hkind, hdest⟩ := openFeed_ne_none.1 ht
  by_cases hb : b = k
  · subst hb
    rw [ho, Option.some_inj] at hq
    subst hq
    have hjoined : (t.join b o v).orders[b] = some { o with
        state := .assigned, vehicle := some v, deadline := loadCounter t.working.fleet.orderLimit } := by
      rw [join_orders, getElem_set_fin, if_pos rfl]
    exact openFeed_ne_none.2 ⟨b, _, hjoined, rfl, hkind, hdest⟩
  · exact openFeed_ne_none.2 ⟨b, q, by rw [join_orders, getElem_set_fin, if_neg hb, hq], hopen, hkind, hdest⟩

theorem pair_runningMetres (s : State) (n : StandNo) : s.pair.runningMetres n = s.runningMetres n := by
  rw [s.pair_changes]
  rfl

/-- R153: FEED_SHORT for every stand raised anew that is still in the list. -/
theorem foldl_postShort_noted (hl : l.Nodup) (hn : n ∈ l) (hin : n ∈ s.demand) :
    (l.foldl State.postShort s).Noted (.feedShort n) (.metres (s.runningMetres n)) := by
  refine foldl_at (P := fun t => t = { s with notices := t.notices })
    (Q := fun t => t.Noted (.feedShort n) (.metres (s.runningMetres n))) hl hn rfl ?_ ?_ ?_
  · intro t m _ ht
    have hshort := t.postShort_changes m
    generalize t.postShort m = u at hshort ⊢
    rw [hshort]
    conv_lhs => rw [ht]
  · intro t ht
    have hdemand : n ∈ t.demand := by rwa [ht]
    have hmetres : t.runningMetres n = s.runningMetres n := by rw [ht]; rfl
    rw [State.postShort, if_pos hdemand, hmetres]
    exact noted_of_posted (s := t) rfl
  · intro t m hm ht
    have hkey : NoticeKey.feedShort n ≠ .feedShort m := fun h => hm (NoticeKey.feedShort.inj h).symm
    unfold State.postShort
    split
    · exact noted_of_other rfl hkey ht
    · exact ht

end

/-! ## The plan adopted -/

/-- R85: the stands of the plan whose outdated orders are cancelled, in stand-number order. -/
def State.again (s : State) : List StandNo :=
  (List.finRange 8).filter fun n => decide (n ∈ s.pruneOrders.2) && (s.requirement n).isSome

/-- R85: the demands raised anew, and the stands outside the plan taken from the list. -/
def State.relisted (s : State) : State :=
  let t := s.again.foldl State.appendDemand s.pruneOrders.1
  { t with demand := t.demand.filter fun n => (t.requirement n).isSome }

section
variable {s : State} {n : StandNo} {c : OrderSlot} {o : Order}

theorem adoptPlan_eq (s : State) :
    s.adoptPlan = (s.again.foldl State.postShort s.relisted.examine, s.pruneOrders.2.length) := rfl

theorem again_sorted (s : State) : s.again.Pairwise (· < ·) := (List.pairwise_lt_finRange 8).filter _

theorem again_nodup (s : State) : s.again.Nodup := (List.nodup_finRange 8).filter _

theorem mem_again : n ∈ s.again ↔ s.requirement n ≠ none ∧ ∃ c, s.outdatedSlot c = some n := by
  have hstands : n ∈ s.pruneOrders.2 ↔ ∃ c, s.outdatedSlot c = some n := by
    rw [pruneOrders_stands, List.mem_filterMap]
    exact ⟨fun ⟨c, _, hc⟩ => ⟨c, hc⟩, fun ⟨c, hc⟩ => ⟨c, List.mem_finRange c, hc⟩⟩
  rw [State.again, List.mem_filter, Bool.and_eq_true, decide_eq_true_iff, hstands, Option.isSome_iff_ne_none]
  exact ⟨fun ⟨_, hout, hreq⟩ => ⟨hreq, hout⟩, fun ⟨hreq, hout⟩ => ⟨List.mem_finRange n, hout, hreq⟩⟩

/-- What a change of the demand list leaves. -/
theorem tail_demand (s : State) (demand : List StandNo) : s.Tail { s with demand := demand } :=
  tail_of_eq rfl rfl rfl rfl rfl

theorem feedCancelled_demand (h : s.FeedCancelled c o) (demand : List StandNo) :
    ({ s with demand := demand } : State).FeedCancelled c o := ⟨h.order, h.waiting, h.notice⟩

theorem openFeed_of_orders {t : State} (h : t.orders = s.orders) (n : StandNo) : t.openFeed n = s.openFeed n := by
  unfold State.openFeed
  rw [h]

/-- R85: the list before the examination. -/
theorem relisted_eq (s : State) : s.relisted = { s.pruneOrders.1 with
    demand := (s.again.foldl State.appendDemand s.pruneOrders.1).demand.filter fun n => (s.requirement n).isSome } := by
  have hchanges := foldl_appendDemand_changes s.again s.pruneOrders.1
  have hprune := (tail_pruneOrders s).jobs
  unfold State.relisted
  generalize s.pruneOrders.1 = p at hchanges hprune ⊢
  generalize s.again.foldl State.appendDemand p = t at hchanges ⊢
  have hjobs : t.jobs = s.jobs := by rw [hchanges, hprune]
  simp only [requirement_congr hjobs]
  conv_lhs => rw [hchanges]

theorem relisted_demand (s : State) : s.relisted.demand =
    (s.again.foldl State.appendDemand s.pruneOrders.1).demand.filter fun n => (s.requirement n).isSome := by
  rw [relisted_eq]

theorem relisted_orders (s : State) : s.relisted.orders = s.pruneOrders.1.orders := by rw [relisted_eq]

theorem tail_relisted (s : State) : s.Tail s.relisted := by
  rw [relisted_eq]
  exact (tail_pruneOrders s).trans (tail_demand s.pruneOrders.1 _)

theorem adoptPlan_state (s : State) : s.adoptPlan.1 = s.again.foldl State.postShort s.relisted.examine := by
  rw [adoptPlan_eq]

theorem tail_adoptPlan (s : State) : s.Tail s.adoptPlan.1 := by
  rw [adoptPlan_state]
  exact foldl_kept (P := fun t => s.Tail t) ((tail_relisted s).trans (tail_examine _))
    fun t n ht => ht.trans (tail_postShort t n)

theorem feedCancelled_adoptPlan (ho : s.orders[c] = some o) (h : s.outdatedSlot c ≠ none) :
    s.adoptPlan.1.FeedCancelled c o := by
  have hrelisted : s.relisted.FeedCancelled c o := by
    rw [relisted_eq]
    exact feedCancelled_demand (feedCancelled_pruneOrders ho h) _
  rw [adoptPlan_state]
  exact foldl_kept (P := fun t => t.FeedCancelled c o) (feedCancelled_examine hrelisted)
    fun _ n ht => feedCancelled_postShort ht n

theorem adoptPlan_examined (s : State) : s.adoptPlan.1 = { s.relisted.examine with notices := s.adoptPlan.1.notices } := by
  rw [adoptPlan_state]
  exact foldl_postShort_changes s.again s.relisted.examine

theorem adoptPlan_examine_demand (s : State) : s.adoptPlan.1.demand = s.relisted.examine.demand := by
  rw [adoptPlan_examined]

/-- R85: the list after the examination. -/
theorem adoptPlan_demand (s : State) : s.adoptPlan.1.demand.Sublist
    ((s.demand.filter fun n => (s.requirement n).isSome) ++ s.again.filter fun n => decide (n ∉ s.demand)) := by
  have hpruned : s.pruneOrders.1.demand = s.demand := by rw [s.pruneOrders_changes]
  have happended := foldl_appendDemand_sublist s.again s.pruneOrders.1
  rw [hpruned] at happended
  rw [adoptPlan_examine_demand]
  refine (examine_demand s.relisted).trans ?_
  rw [relisted_demand]
  refine (happended.filter _).trans ?_
  rw [List.filter_append]
  exact (List.Sublist.refl _).append List.filter_sublist

theorem examine_unserved (h : n ∈ s.examine.demand) : s.examine.Unserved n :=
  foldl_serveDemand_unserved s.demand s n h (.inl ((examine_demand s).subset h))

/-- R84, R85: what stays in the list cannot be served. -/
theorem adoptPlan_unserved (h : n ∈ s.adoptPlan.1.demand) : s.requirement n ≠ none ∧
    (s.adoptPlan.1.feedArmAvailable n = false ∨ s.adoptPlan.1.feedChoice n = none ∨
      s.adoptPlan.1.freeOrderSlot = none) := by
  have hreq : s.requirement n ≠ none := by
    obtain hin | hin := List.mem_append.1 ((adoptPlan_demand s).subset h)
    · exact Option.isSome_iff_ne_none.1 (List.mem_filter.1 hin).2
    · exact (mem_again.1 (List.mem_of_mem_filter hin)).1
  have hnotices (t : State) (notices : List Notice) (ht : t.Unserved n) :
      ({ t with notices := notices } : State).Unserved n := ht
  have hexamined : s.adoptPlan.1.Unserved n := by
    rw [adoptPlan_examine_demand] at h
    rw [adoptPlan_examined]
    exact hnotices _ _ (examine_unserved h)
  refine ⟨hreq, hexamined.resolve_left ?_⟩
  rw [(tail_adoptPlan s).requirement]
  exact hreq

/-- R85: a demand of the plan is in the list, or its order is open. -/
theorem adoptPlan_served (h : n ∈ s.again ∨ (n ∈ s.demand ∧ s.requirement n ≠ none)) :
    n ∈ s.adoptPlan.1.demand ∨ s.adoptPlan.1.openFeed n ≠ none := by
  have hpruned : s.pruneOrders.1.demand = s.demand := by rw [s.pruneOrders_changes]
  have hreq : s.requirement n ≠ none := h.elim (fun hagain => (mem_again.1 hagain).1) And.right
  have happended : n ∈ (s.again.foldl State.appendDemand s.pruneOrders.1).demand ∨ s.pruneOrders.1.openFeed n ≠ none :=
    h.elim foldl_appendDemand_raised fun hin => .inl (foldl_appendDemand_mem (by rw [hpruned]; exact hin.1))
  have hlisted : n ∈ s.relisted.demand ∨ s.relisted.openFeed n ≠ none := by
    rw [relisted_demand, openFeed_of_orders (relisted_orders s)]
    exact happended.imp_left fun hin => List.mem_filter.2 ⟨hin, Option.isSome_iff_ne_none.2 hreq⟩
  have horders : s.adoptPlan.1.orders = s.relisted.examine.orders := by rw [adoptPlan_examined]
  rw [adoptPlan_examine_demand, openFeed_of_orders horders]
  by_cases hleft : n ∈ s.relisted.examine.demand
  · exact .inl hleft
  · exact .inr (hlisted.elim (fun hin => examine_openFeed hin hleft) openFeed_examine)

/-- R153: FEED_SHORT of a stand raised anew. -/
theorem adoptPlan_short (hn : n ∈ s.again) (hin : n ∈ s.adoptPlan.1.demand) :
    s.adoptPlan.1.Noted (.feedShort n) (.metres (s.adoptPlan.1.runningMetres n)) := by
  have hnotices (t : State) (notices : List Notice) :
      ({ t with notices := notices } : State).runningMetres n = t.runningMetres n := rfl
  have hmetres : s.adoptPlan.1.runningMetres n = s.relisted.examine.runningMetres n := by
    rw [adoptPlan_examined, hnotices]
  rw [adoptPlan_examine_demand] at hin
  rw [hmetres, adoptPlan_state]
  exact foldl_postShort_noted (again_nodup s) hn hin

end

/-! ## The changeover -/

/-- R152: the staged job in force, and the standbys compared with its plan. -/
def State.compared (s : State) (j : JobSlot) : State := (s.activate j).compareStands

section
variable {s : State} {j : JobSlot}

theorem changeover_eq (s : State) (j : JobSlot) : s.changeover j =
    ((s.compared j).adoptPlan.1.pair, ⟨j, s.activeSlot, (s.compared j).pruneOrders.2.length⟩) := by
  have hcount (t : State) : t.adoptPlan.2 = t.pruneOrders.2.length := by rw [adoptPlan_eq]
  unfold State.changeover State.compared State.compareStands
  dsimp only
  rw [hcount]

theorem compared_eq (s : State) (j : JobSlot) : s.compared j = { s with
    jobs := (s.activate j).jobs, wasteFraction := 0, stands := (s.compared j).stands,
    notices := (s.compared j).notices } := by
  have hcompare := compareStands_eq (s.activate j)
  have hactivate := s.activate_changes j
  have hwaste : (s.activate j).wasteFraction = 0 := rfl
  rw [hwaste] at hactivate
  unfold State.compared
  generalize (s.activate j).compareStands = u at hcompare ⊢
  generalize s.activate j = t at hactivate hcompare ⊢
  rw [hcompare]
  conv_lhs => rw [hactivate]

theorem compared_requirement (h : s.JobsLegal) (hj : s.jobs[j].state = .staged) (n : StandNo) :
    (s.compared j).requirement n = s.jobs[j].plan[n] := by
  have hjobs : (s.compared j).jobs = (s.activate j).jobs := by rw [compared_eq]
  exact (requirement_congr hjobs n).trans (activate_requirement h hj n)

/-- R85: the orders that do not fit the staged job's plan. -/
theorem compared_outdated (h : s.JobsLegal) (hj : s.jobs[j].state = .staged) (c : OrderSlot) (n : StandNo) :
    (s.compared j).outdatedSlot c = some n ↔ ∃ (o : Order) (a : Arm), s.orders[c] = some o ∧
      o.kind = .feed ∧ o.state = .waiting ∧ o.dest = .arm n a ∧
      ∀ r, s.roll? o.roll = some r → s.jobs[j].plan[n] ≠ some ⟨r.grade, r.width⟩ := by
  have horders : (s.compared j).orders = s.orders := by rw [compared_eq]
  have hrolls : (s.compared j).rolls = s.rolls := by rw [compared_eq]
  simp only [outdatedSlot_eq_some, outdatedFeed_eq_some, horders, State.roll?, hrolls, compared_requirement h hj]
  constructor
  · rintro ⟨o, ho, a, hrest⟩
    exact ⟨o, a, ho, hrest⟩
  · rintro ⟨o, a, ho, hrest⟩
    exact ⟨o, ho, a, hrest⟩

/-- R141: the stands after the changeover. -/
theorem standSettled_changeover (s : State) (j : JobSlot) (n : StandNo) :
    (s.activate j).StandSettled n s.stands[n] (s.compared j).adoptPlan.1.pair := by
  have hstands : (s.activate j).stands = s.stands := by rw [s.activate_changes]
  have hsettled := standSettled_compareStands (s.activate j) n
  rw [hstands] at hsettled
  exact hsettled.of_keeps (((tail_adoptPlan (s.compared j)).trans (tail_pair _)).standby n)

/-- R151: the request, when a job is STAGED. -/
theorem changeover_staged (hstaged : s.stagedSlot = some j) (f : List Byte) : changeover f s =
    .ok (s.compared j).adoptPlan.1.pair (byteOf j.val :: (beBytes 2 s.jobs[j].number ++
      [optByte (s.activeSlot.map Fin.val), byteOf (s.compared j).pruneOrders.2.length])) := by
  unfold changeover
  rw [hstaged]
  dsimp only
  rw [changeover_eq, List.cons_append]

theorem exec_changeover (s : State) : exec .changeover s = .next (s.serve .changeover changeover) := rfl

theorem exec_changeoverPulse (h : s.device = .ready) : exec .changeoverPulse s = .next s.pulseChangeover :=
  congrArg Host.Outcome.next (if_pos h)

end

/-- R85: the slots of the outdated orders. -/
def State.outdatedSlots (s : State) : List OrderSlot := (List.finRange 32).filter fun c => (s.outdatedSlot c).isSome

theorem mem_outdatedSlots {s : State} {c : OrderSlot} : c ∈ s.outdatedSlots ↔ ∃ n, s.outdatedSlot c = some n := by
  rw [State.outdatedSlots, List.mem_filter, Option.isSome_iff_exists]
  exact and_iff_right (List.mem_finRange c)

theorem outdatedSlots_length (s : State) : s.pruneOrders.2.length = s.outdatedSlots.length := by
  rw [pruneOrders_stands, List.length_filterMap_eq_countP, List.countP_eq_length_filter, State.outdatedSlots]

/-- R152, slot by slot, after the whole changeover. -/
theorem changeover_jobs {s : State} {j : JobSlot} (h : s.JobsLegal) (hj : s.jobs[j].state = .staged) {t : State}
    (ht : t.jobs = (s.activate j).jobs) :
    t.jobs[j] = { s.jobs[j] with state := .active, phase := if s.saleable then .saleable else .startup } ∧
    (∀ i : JobSlot, s.jobs[i].state = .active → t.jobs[i] = { s.jobs[i] with state := .closed }) ∧
    ∀ i : JobSlot, i ≠ j → s.jobs[i].state ≠ .active → t.jobs[i] = s.jobs[i] := by
  have hjobs (i : JobSlot) := activate_jobs (stagedSlot_of_staged h hj) i
  rw [ht]
  refine ⟨by rw [hjobs, if_pos rfl], fun i hi => ?_, fun i hij hi => ?_⟩
  · have hij : i ≠ j := by
      rintro rfl
      rw [hj] at hi
      contradiction
    rw [hjobs, if_neg hij, if_pos (activeSlot_of_active h hi)]
  · rw [hjobs, if_neg hij, if_neg fun hactive => hi (activeSlot_eq_some hactive)]

/-- Settles O55: the standbys by `standSettled_changeover`, the orders by `feedCancelled_adoptPlan`, the demands by `adoptPlan_served` and `adoptPlan_unserved`. -/
theorem changeoverActivatesStagedJob : Obligations.ChangeoverActivatesStagedJob := by
  refine ⟨fun s tag rest hserves hnone => ?_, fun s h => congrArg Host.Outcome.next (if_neg h), fun s h hnone => ?_,
    fun s j hlegal hj => ?_⟩
  · have hbody : changeover [] (s.unqueued rest) = .refuse .noStaged := by
      rw [changeover, stagedSlot_none (s := s.unqueued rest) hnone]
    rw [exec_changeover, serve_refused hserves rfl hbody]
  · rw [exec_changeoverPulse h, State.pulseChangeover, stagedSlot_none hnone]
    rfl
  intro plan outdated
  have hstaged := stagedSlot_of_staged hlegal hj
  have hplan (n : StandNo) : (s.compared j).requirement n = plan[n] := compared_requirement hlegal hj n
  have hout (c : OrderSlot) (n : StandNo) : (s.compared j).outdatedSlot c = some n ↔ outdated c n :=
    compared_outdated hlegal hj c n
  have hdemand : (s.compared j).demand = s.demand := by rw [compared_eq]
  have horder (c : OrderSlot) : (s.compared j).orders[c] = s.orders[c] := by rw [compared_eq]
  have hpair := (s.compared j).adoptPlan.1.pair_changes
  have htail := (tail_adoptPlan (s.compared j)).trans (tail_pair _)
  have hjobs : (s.compared j).adoptPlan.1.pair.jobs = (s.activate j).jobs := by
    rw [htail.jobs, compared_eq]
  obtain ⟨hactive, hclosed, hother⟩ := changeover_jobs hlegal hj hjobs
  have hpairDemand : (s.compared j).adoptPlan.1.pair.demand = (s.compared j).adoptPlan.1.demand := by rw [hpair]
  have hagain (n : StandNo) : n ∈ (s.compared j).again ↔ plan[n] ≠ none ∧ ∃ c, outdated c n := by
    rw [mem_again, hplan]
    simp only [hout]
  refine ⟨_, (s.compared j).adoptPlan.1, (s.compared j).outdatedSlots, (s.compared j).again, rfl, hpairDemand,
    (List.nodup_finRange 32).filter _, fun c => ?_, again_sorted _, hagain, fun hready => ?_,
    fun u tag rest hserves hu => ?_, hactive, fun i hi => ⟨hclosed i hi, ?_⟩, hother, ?_, fun c o ho hc => ?_, ?_,
    fun n hn => ?_, fun n hn => ?_, fun n hn hin => ?_,
    fun n => ⟨(standSettled_changeover s j n).running, (standSettled_changeover s j n).fraction⟩,
    fun n a k r hst hk hr => ?_,
    fun n => ⟨(standSettled_changeover s j n).state, (standSettled_changeover s j n).splicing⟩⟩
  · simp only [mem_outdatedSlots, hout]
  · rw [exec_changeoverPulse hready, State.pulseChangeover, hstaged]
    dsimp only
    rw [changeover_eq]
  · subst hu
    rw [exec_changeover, serve_ok hserves rfl (changeover_staged hstaged []), outdatedSlots_length]
    cases (u.unqueued rest).activeSlot <;> rfl
  · have hposted := activate_closed (j := j) (activeSlot_of_active hlegal hi)
    exact htail.noted i _ (compareStands_noted (s.activate j) (fun _ => nofun) hposted)
  · rw [htail.waste, compared_eq]
  · obtain ⟨n, hn⟩ := mem_outdatedSlots.1 hc
    have hcancelled := feedCancelled_pair (feedCancelled_adoptPlan ((horder c).trans ho)
      (by rw [hn]; exact Option.some_ne_none n))
    exact ⟨hcancelled.order, hcancelled.notice⟩
  · have hlist := adoptPlan_demand (s.compared j)
    simp only [hplan, hdemand] at hlist
    rwa [hpairDemand]
  · rw [hpairDemand]
    refine (adoptPlan_served ?_).imp_right openFeed_pair
    rwa [hdemand, hplan]
  · rw [hpairDemand] at hn
    rw [← hplan]
    exact adoptPlan_unserved hn
  · rw [hpairDemand] at hin
    have hnoted := adoptPlan_short hn hin
    have hnotices : (s.compared j).adoptPlan.1.pair.notices = (s.compared j).adoptPlan.1.notices := by rw [hpair]
    rw [pair_runningMetres]
    exact noted_of_eq hnotices hnoted
  · have hactivate := s.activate_changes j
    have hroll : (s.stands[n].arm a).roll.bind (s.activate j).roll? = some r := by
      rw [hk, Option.bind_some, hactivate]
      exact hr
    have hworking : (s.activate j).working = s.working := by rw [hactivate]
    obtain ⟨hready, hmismatch⟩ := (standSettled_changeover s j n).arm hst a
    have hfits : (s.activate j).requirement n = plan[n] := activate_requirement hlegal hj n
    rw [hfits] at hready hmismatch
    rw [hworking] at hmismatch
    refine ⟨fun h => ⟨(hready h r hroll).1, fun hunfit => ?_⟩, fun h => hmismatch h r hroll⟩
    obtain ⟨hstatus, d, ⟨e, he, hkey, hdetail⟩, htag⟩ := (hready h r hroll).2 hunfit
    exact ⟨hstatus, e, he, hkey, fun hlast => hdetail.trans (htag hlast)⟩

end Sys2Proof.Machine
